-- ==== Sys2Proof/Word.lean ====
section
/-! DEFINITION. The word types of the ZH: bytes, 32-bit register words, 64-bit uniform words and the
128-bit value that one lane of a token holds (R30: "8 to 128 bits"). -/

namespace Sys2Proof

/-- One byte of memory. -/
abbrev Byte := BitVec 8

/-- One lane of a per-thread register (R88). -/
abbrev Word := BitVec 32

/-- A uniform register (R88). -/
abbrev Word64 := BitVec 64

/-- The value of one lane of a token; a narrower result stands in the low bits (R95). -/
abbrev Val := BitVec 128

/-- A 128-bit instruction or header word (R28, R39). -/
abbrev IWord := BitVec 128

/-- One lane of a token: `none` is the null of R32, distinct from every value. -/
abbrev Lane := Option Val

end Sys2Proof
end

