-- ==== Sys2Proof/Syntax.lean ====
section
/-! DEFINITION. The abstract syntax: one constructor of `Instr` for each of the 290 rows of the opcode
table. 198 rows are instruction words (R55): each carries the common fields of R28 and the payload of
its format (R46 to R54). 92 rows are the machine's own steps (block entry, commit, a home applying a
write, a reset ...): they have no encoding, and carry the operands that say which unit moves and what
the outside world supplies. -/

namespace Sys2Proof

/-- The type codes of R29, in code order. -/
inductive Ty where
  | s32 | n32 | s64 | n64 | f32 | f16 | bf16 | f64 | lg6 | lg8 | s8 | n8 | f16x2 | bf16x2 | b32 | b128
  deriving DecidableEq, Repr

/-- The operand slots of R28. -/
inductive Slot where
  | l | r | p
  deriving DecidableEq, Repr

/-- A valid target field: consumer index and slot (R28). -/
structure Target where
  cons : BitVec 6
  slot : Slot
  deriving DecidableEq, Repr

/-- The predicate modes of R28. -/
inductive PredMode where
  | none | ifTrue | ifFalse
  deriving DecidableEq, Repr

/-- The rounding field of format A (R47); `slot` takes the mode of the format slot. -/
inductive RMode where
  | rne | rz | rd | ru | rna | slot
  deriving DecidableEq, Repr

/-- The scope codes of R51. -/
inductive Scope where
  | thread | warp | team | core | die | package | host | peer | system
  deriving DecidableEq, Repr

/-- The CACHE field of format M (R50). -/
inductive CacheHint where
  | normal | streaming | bypass
  deriving DecidableEq, Repr

/-- The WIDTH field of format M (R50). -/
inductive Width where
  | w1 | w2 | w4 | w8 | w16 | w32 | w64
  deriving DecidableEq, Repr

/-- The fields every instruction word has (R28). The scheduling fields stay raw bits, since R36 ignores
some of them and no value of theirs is illegal (R37). -/
structure Ctl where
  tgt0 : Option Target
  tgt1 : Option Target
  pm : PredMode
  ty : Ty
  lsid : BitVec 5
  stall : BitVec 4
  sbset : BitVec 4
  wait : BitVec 8
  keep : BitVec 2
  yld : Bool
  deriving DecidableEq, Repr

/-- Format A (R47). -/
structure FmtA where
  u : Bool
  rm : RMode
  fs : BitVec 3
  imm : Bool
  imm32 : BitVec 32
  aux : BitVec 16
  deriving DecidableEq, Repr

/-- Format I (R49). -/
structure FmtI where
  imm64 : BitVec 64
  deriving DecidableEq, Repr

/-- Format H (R49). -/
structure FmtH where
  u : Bool
  imm20 : BitVec 20
  deriving DecidableEq, Repr

/-- Format M (R50). -/
structure FmtM where
  scope : Scope
  cache : CacheHint
  width : Width
  ridx : BitVec 16
  ofs12 : BitVec 12
  deriving DecidableEq, Repr

/-- Format C (R52). -/
structure FmtC where
  ridx : BitVec 16
  ofs24 : BitVec 24
  deriving DecidableEq, Repr

/-- Format E (R53). -/
structure FmtE where
  ridx : BitVec 16
  fs : BitVec 3
  mode : BitVec 5
  aux8 : BitVec 8
  imm32 : BitVec 32
  deriving DecidableEq, Repr

/-- Format S (R54). -/
structure FmtS where
  scope : Scope
  id : BitVec 4
  sub : BitVec 4
  imm40 : BitVec 40
  deriving DecidableEq, Repr

/-- The payload of a word, by its format (R46 to R54). -/
inductive Payload where
  | n
  | a (p : FmtA)
  | i (p : FmtI)
  | h (p : FmtH)
  | m (p : FmtM)
  | c (p : FmtC)
  | e (p : FmtE)
  | s (p : FmtS)
  deriving DecidableEq, Repr

/-- A shadowed view (R184): one of a team's sixteen scratchpad views, or a tenant's global view by the
virtual address of its primary range. -/
inductive ViewRef where
  | scratch (team : Nat) (idx : Nat)
  | global (vf : Nat) (base : Nat)
  deriving DecidableEq, Repr

/-- What the management processor installs for one tenant (R141, R290, R302): its partition, its slice
length and lead time in milliseconds, its page-table root (a physical address), the addresses of its
regions by number, the scale-out ports its partition owns (R195) and its collective groups (R196). -/
structure TenantCfg where
  vf : Nat
  part : Nat
  sliceMs : Nat
  leadMs : Nat
  root : Nat
  regions : List (Nat × Nat)
  ports : List Nat
  groups : List (Nat × Nat)
  deriving DecidableEq, Repr

/-- One partition of a layout: its core groups, and its tier-1 allocation as runs of 64 KiB pages, each by its first page and its
length (R302). -/
structure PartCfg where
  id : Nat
  groups : List Nat
  tier1 : List (Nat × Nat)
  deriving DecidableEq, Repr

/-- A staged layout (R303): the core place entries (R21), partitions and tenants. -/
structure Layout where
  place : List (BitVec 32)
  parts : List PartCfg
  tenants : List TenantCfg
  deriving DecidableEq, Repr

/-- What the parts of the package answer to one start (R347): the results of the self-tests and of link
training, which the specification leaves to the silicon. `hlinks` lists whether the links of C0 to C7, IO0 and IO1 to H train,
`iolinks` those of C0 to C7 to their I/O dies, and `ring` those of each Cn to the next (R12); `piles` the eight pile tests; `tier2` the
halves that train, `cxl` the sizes in GiB of the CXL expanders behind IO0 and IO1, and `cxlUse` those that the firmware adds to tier 2
(R345); `ports` the lanes at which the two host ports train and `cxlPorts` whether as CXL (R344); `trip` the stage in which a rail,
current or thermal trip comes. -/
structure StartTests where
  firmware : Bool
  hub : Bool
  hlinks : List Bool
  iolinks : List Bool
  ring : List Bool
  piles : List Bool
  tier2 : BitVec 2
  cxl : List Nat
  cxlUse : BitVec 2
  ports : List Nat
  cxlPorts : List Bool
  trip : Option Nat
  deriving DecidableEq, Repr

/-- The mnemonics of the instruction words (R55), one per row. -/
inductive Op where
  | nul | succ | brc | jmps | call | calli | ret | exit | voteAny | voteAll | voteBallot | voteCount | maskrd
  | mov | add | sub | mul | mulhi | mad | add64 | sub64 | mad64 | idiv | irem | min_ | max_ | abs_ | neg_
  | and_ | or_ | xor_ | andn | not_ | shl | shr | sar | rol | popc | clz | ctz | brev | bfx | bfi | prmt
  | cmpEq | cmpNe | cmpLt | cmpLe | cmpGt | cmpGe | sel | movi | addhi | lea | sext | zext | dp4 | shflIdx
  | shflRot | shflXor | shflRev | reduxAdd | reduxMin | reduxMax | reduxAnd | reduxOr | reduxXor | fadd
  | fsub | fmul | ffma | fmin | fmax | fsgnCp | fsgnNeg | fsgnXor | fcmpEq | fcmpNe | fcmpLt | fcmpLe
  | fcmpGt | fcmpGe | fcmpUn | fclass | fscale | frnd | frcp | frsq | fsqrt | fexp2 | flog2 | fsincos | ftanh
  | hfma2 | bfma2 | dadd | dmul | dfma | fcvt | ftoi | itof | pack | unpk | lgmul | lgcvt | lgexp | lgdot
  | fflagsRd | fflagsClr | ld | st | lds | sts | ldc | atomAdd | atomMin | atomMax | atomAnd | atomOr
  | atomXor | atomExch | atomcas | atomvOr | atomvAnd | atomvAdd | atomvMax | satomAdd | satomMin | satomMax
  | satomAnd | satomOr | satomXor | satomExch | fenceAcq | fenceRel | fenceAr | pfetch | cinv | claim
  | claimRel | cpytLd | cpytSt | cpybLd | cpybSt | cpyg | cpys | cpyaccIn | cpyaccOut | publ | cpyrGet
  | cpyrPut | cred | tokq | cpycan | chb | che | mma | wbld | wbldT | accz | accrd | accwr | drain | accwrd
  | accwwr | gcfg | grun | gstop | gwait | gqry | gframe | lctx | strmo | strma | strmb | strmc | strmq | bar
  | bara | barw | barx | stgfill | stgwait | stgfree | sleept | tokw | tokwF | waitx | realign | trap | tret
  | srd | swr | yield | nopb | bkpt | perfrd | spawn
  deriving DecidableEq, Repr

/-- One constructor per row of the opcode table. -/
inductive Instr where
  -- The instruction words (R55).
  | nul (c : Ctl)
  | succ (c : Ctl)
  | brc (c : Ctl)
  | jmps (c : Ctl)
  | call (c : Ctl) (p : FmtC)
  | calli (c : Ctl) (p : FmtC)
  | ret (c : Ctl)
  | exit (c : Ctl)
  | voteAny (c : Ctl)
  | voteAll (c : Ctl)
  | voteBallot (c : Ctl)
  | voteCount (c : Ctl)
  | maskrd (c : Ctl)
  | mov (c : Ctl)
  | add (c : Ctl) (p : FmtA)
  | sub (c : Ctl) (p : FmtA)
  | mul (c : Ctl) (p : FmtA)
  | mulhi (c : Ctl) (p : FmtA)
  | mad (c : Ctl) (p : FmtA)
  | add64 (c : Ctl) (p : FmtA)
  | sub64 (c : Ctl) (p : FmtA)
  | mad64 (c : Ctl) (p : FmtA)
  | idiv (c : Ctl) (p : FmtA)
  | irem (c : Ctl) (p : FmtA)
  | min_ (c : Ctl) (p : FmtA)
  | max_ (c : Ctl) (p : FmtA)
  | abs_ (c : Ctl) (p : FmtA)
  | neg_ (c : Ctl) (p : FmtA)
  | and_ (c : Ctl) (p : FmtA)
  | or_ (c : Ctl) (p : FmtA)
  | xor_ (c : Ctl) (p : FmtA)
  | andn (c : Ctl) (p : FmtA)
  | not_ (c : Ctl) (p : FmtA)
  | shl (c : Ctl) (p : FmtA)
  | shr (c : Ctl) (p : FmtA)
  | sar (c : Ctl) (p : FmtA)
  | rol (c : Ctl) (p : FmtA)
  | popc (c : Ctl) (p : FmtA)
  | clz (c : Ctl) (p : FmtA)
  | ctz (c : Ctl) (p : FmtA)
  | brev (c : Ctl) (p : FmtA)
  | bfx (c : Ctl) (p : FmtA)
  | bfi (c : Ctl) (p : FmtA)
  | prmt (c : Ctl) (p : FmtA)
  | cmpEq (c : Ctl) (p : FmtA)
  | cmpNe (c : Ctl) (p : FmtA)
  | cmpLt (c : Ctl) (p : FmtA)
  | cmpLe (c : Ctl) (p : FmtA)
  | cmpGt (c : Ctl) (p : FmtA)
  | cmpGe (c : Ctl) (p : FmtA)
  | sel (c : Ctl) (p : FmtA)
  | movi (c : Ctl) (p : FmtI)
  | addhi (c : Ctl) (p : FmtH)
  | lea (c : Ctl) (p : FmtA)
  | sext (c : Ctl) (p : FmtA)
  | zext (c : Ctl) (p : FmtA)
  | dp4 (c : Ctl) (p : FmtA)
  | shflIdx (c : Ctl) (p : FmtA)
  | shflRot (c : Ctl) (p : FmtA)
  | shflXor (c : Ctl) (p : FmtA)
  | shflRev (c : Ctl) (p : FmtA)
  | reduxAdd (c : Ctl) (p : FmtA)
  | reduxMin (c : Ctl) (p : FmtA)
  | reduxMax (c : Ctl) (p : FmtA)
  | reduxAnd (c : Ctl) (p : FmtA)
  | reduxOr (c : Ctl) (p : FmtA)
  | reduxXor (c : Ctl) (p : FmtA)
  | fadd (c : Ctl) (p : FmtA)
  | fsub (c : Ctl) (p : FmtA)
  | fmul (c : Ctl) (p : FmtA)
  | ffma (c : Ctl) (p : FmtA)
  | fmin (c : Ctl) (p : FmtA)
  | fmax (c : Ctl) (p : FmtA)
  | fsgnCp (c : Ctl) (p : FmtA)
  | fsgnNeg (c : Ctl) (p : FmtA)
  | fsgnXor (c : Ctl) (p : FmtA)
  | fcmpEq (c : Ctl) (p : FmtA)
  | fcmpNe (c : Ctl) (p : FmtA)
  | fcmpLt (c : Ctl) (p : FmtA)
  | fcmpLe (c : Ctl) (p : FmtA)
  | fcmpGt (c : Ctl) (p : FmtA)
  | fcmpGe (c : Ctl) (p : FmtA)
  | fcmpUn (c : Ctl) (p : FmtA)
  | fclass (c : Ctl) (p : FmtA)
  | fscale (c : Ctl) (p : FmtA)
  | frnd (c : Ctl) (p : FmtA)
  | frcp (c : Ctl) (p : FmtA)
  | frsq (c : Ctl) (p : FmtA)
  | fsqrt (c : Ctl) (p : FmtA)
  | fexp2 (c : Ctl) (p : FmtA)
  | flog2 (c : Ctl) (p : FmtA)
  | fsincos (c : Ctl) (p : FmtA)
  | ftanh (c : Ctl) (p : FmtA)
  | hfma2 (c : Ctl) (p : FmtA)
  | bfma2 (c : Ctl) (p : FmtA)
  | dadd (c : Ctl) (p : FmtA)
  | dmul (c : Ctl) (p : FmtA)
  | dfma (c : Ctl) (p : FmtA)
  | fcvt (c : Ctl) (p : FmtA)
  | ftoi (c : Ctl) (p : FmtA)
  | itof (c : Ctl) (p : FmtA)
  | pack (c : Ctl) (p : FmtA)
  | unpk (c : Ctl) (p : FmtA)
  | lgmul (c : Ctl) (p : FmtA)
  | lgcvt (c : Ctl) (p : FmtA)
  | lgexp (c : Ctl) (p : FmtA)
  | lgdot (c : Ctl) (p : FmtA)
  | fflagsRd (c : Ctl)
  | fflagsClr (c : Ctl)
  | ld (c : Ctl) (p : FmtM)
  | st (c : Ctl) (p : FmtM)
  | lds (c : Ctl) (p : FmtM)
  | sts (c : Ctl) (p : FmtM)
  | ldc (c : Ctl) (p : FmtM)
  | atomAdd (c : Ctl) (p : FmtM)
  | atomMin (c : Ctl) (p : FmtM)
  | atomMax (c : Ctl) (p : FmtM)
  | atomAnd (c : Ctl) (p : FmtM)
  | atomOr (c : Ctl) (p : FmtM)
  | atomXor (c : Ctl) (p : FmtM)
  | atomExch (c : Ctl) (p : FmtM)
  | atomcas (c : Ctl) (p : FmtM)
  | atomvOr (c : Ctl) (p : FmtM)
  | atomvAnd (c : Ctl) (p : FmtM)
  | atomvAdd (c : Ctl) (p : FmtM)
  | atomvMax (c : Ctl) (p : FmtM)
  | satomAdd (c : Ctl) (p : FmtM)
  | satomMin (c : Ctl) (p : FmtM)
  | satomMax (c : Ctl) (p : FmtM)
  | satomAnd (c : Ctl) (p : FmtM)
  | satomOr (c : Ctl) (p : FmtM)
  | satomXor (c : Ctl) (p : FmtM)
  | satomExch (c : Ctl) (p : FmtM)
  | fenceAcq (c : Ctl) (p : FmtS)
  | fenceRel (c : Ctl) (p : FmtS)
  | fenceAr (c : Ctl) (p : FmtS)
  | pfetch (c : Ctl) (p : FmtM)
  | cinv (c : Ctl) (p : FmtM)
  | claim (c : Ctl) (p : FmtM)
  | claimRel (c : Ctl) (p : FmtM)
  | cpytLd (c : Ctl) (p : FmtE)
  | cpytSt (c : Ctl) (p : FmtE)
  | cpybLd (c : Ctl) (p : FmtE)
  | cpybSt (c : Ctl) (p : FmtE)
  | cpyg (c : Ctl) (p : FmtE)
  | cpys (c : Ctl) (p : FmtE)
  | cpyaccIn (c : Ctl) (p : FmtE)
  | cpyaccOut (c : Ctl) (p : FmtE)
  | publ (c : Ctl) (p : FmtE)
  | cpyrGet (c : Ctl) (p : FmtE)
  | cpyrPut (c : Ctl) (p : FmtE)
  | cred (c : Ctl) (p : FmtE)
  | tokq (c : Ctl) (p : FmtE)
  | cpycan (c : Ctl) (p : FmtE)
  | chb (c : Ctl) (p : FmtE)
  | che (c : Ctl) (p : FmtE)
  | mma (c : Ctl) (p : FmtE)
  | wbld (c : Ctl) (p : FmtE)
  | wbldT (c : Ctl) (p : FmtE)
  | accz (c : Ctl) (p : FmtE)
  | accrd (c : Ctl) (p : FmtE)
  | accwr (c : Ctl) (p : FmtE)
  | drain (c : Ctl) (p : FmtE)
  | accwrd (c : Ctl) (p : FmtE)
  | accwwr (c : Ctl) (p : FmtE)
  | gcfg (c : Ctl) (p : FmtE)
  | grun (c : Ctl) (p : FmtE)
  | gstop (c : Ctl) (p : FmtE)
  | gwait (c : Ctl) (p : FmtE)
  | gqry (c : Ctl) (p : FmtE)
  | gframe (c : Ctl) (p : FmtE)
  | lctx (c : Ctl) (p : FmtE)
  | strmo (c : Ctl) (p : FmtE)
  | strma (c : Ctl) (p : FmtE)
  | strmb (c : Ctl) (p : FmtE)
  | strmc (c : Ctl) (p : FmtE)
  | strmq (c : Ctl) (p : FmtE)
  | bar (c : Ctl) (p : FmtS)
  | bara (c : Ctl) (p : FmtS)
  | barw (c : Ctl) (p : FmtS)
  | barx (c : Ctl) (p : FmtS)
  | stgfill (c : Ctl) (p : FmtS)
  | stgwait (c : Ctl) (p : FmtS)
  | stgfree (c : Ctl) (p : FmtS)
  | sleept (c : Ctl) (p : FmtS)
  | tokw (c : Ctl) (p : FmtS)
  | tokwF (c : Ctl) (p : FmtS)
  | waitx (c : Ctl) (p : FmtS)
  | realign (c : Ctl) (p : FmtS)
  | trap (c : Ctl) (p : FmtS)
  | tret (c : Ctl)
  | srd (c : Ctl) (p : FmtS)
  | swr (c : Ctl) (p : FmtS)
  | yield (c : Ctl)
  | nopb (c : Ctl)
  | bkpt (c : Ctl) (p : FmtS)
  | perfrd (c : Ctl) (p : FmtS)
  | spawn (c : Ctl) (p : FmtE)
  -- The machine's own steps.
  /-- R64: A ready fragment chosen at a block boundary fetches, checks, reads and delivers the header of its next block, and instruction 0 then has its first turn. -/
  | blockEntry (t : Nat) (u : Nat)
  /-- R368: A demand fetch to a page whose verified bit is clear waits while the hub hashes the page, then sets the bit or traps CODE_INTEGRITY. -/
  | codePageHashCheck (t : Nat) (u : Nat)
  /-- R64: Once the prefetch token is free and the copy queue has room, the header prefetch is issued as one CPYB.ld request. -/
  | headerPrefetchIssue (t : Nat) (u : Nat)
  /-- R72: When all instructions have issued and produced their results, the block's register writes, stores and atomics and successor decision take effect in one indivisible step. -/
  | blockCommit (t : Nat) (u : Nat)
  /-- R78: When every member of a group has parked or retired, the parked masks fuse into one fragment at the rejoin block, or the group resolves empty. -/
  | groupFusion (t : Nat) (u : Nat) (g : Nat)
  /-- R313: At a fragment's block boundary a pending trap is delivered to the handler named in the effective handler table, or escalates. -/
  | trapDelivery (t : Nat) (u : Nat)
  /-- R148: At commit cycle plus 24 a released store becomes visible to the whole die and is forwarded to its home. -/
  | storeDieForward (id : Nat)
  /-- R151: A home applies an arriving store in arrival order and returns a global write completion time to the writer. -/
  | homeApplyWrite (id : Nat)
  /-- R149: A load that misses, or has PACKAGE or wider scope, is performed at the home when the home serves it. -/
  | loadAtHome (id : Nat) (lease : Nat)
  /-- R159: A global atomic executes at its line's home in arrival order and sends back its old value and GWCT. -/
  | atomicAtHome (id : Nat)
  /-- R159: An atomic's returned value reaches its destination register and its GWCT updates the warp's CT. -/
  | atomicResponse (id : Nat)
  /-- R161: An applied atomic whose response is lost completes with its destination poisoned and a fault record written. -/
  | atomicResponseLost (id : Nat)
  /-- R147: A die's leased copy of a line expires when its ptc reaches the lease's expiry. -/
  | leaseExpiry (die : Nat) (line : Nat)
  /-- R153: An I/O die applies a posted write from the host or a peer port after the previous write from that source has passed its GWCT. -/
  | hostPostedWrite (src : Nat) (addr : Nat) (bytes : List Byte)
  /-- R152: The I/O die acknowledges a warp's host or peer write once placed on the link in order. -/
  | hostWriteAck (id : Nat)
  /-- R163: After prior accesses complete and leases expire, the claimed lines become homed at the die cache, or are returned to the hub. -/
  | claimComplete (id : Nat)
  /-- R175: At most 512 cycles after commit every block cache of the partition has dropped the range and CINV completes. -/
  | cinvComplete (t : Nat) (u : Nat)
  /-- R144: The management processor's invalidation command completes when every TLB and walk of the tenant has dropped the old entry. -/
  | tlbInvalidation (vf : Nat) (page : Nat)
  /-- R181: A copy request completes once every destination byte is written, its publish is performed and its GWCT has passed. -/
  | copyComplete (core : Nat) (id : Nat)
  /-- R182: A waited-on pending copy token whose promised time passes before completion becomes Late and traps MISSED_PROMISE. -/
  | missedPromise (t : Nat) (u : Nat) (sb : Nat)
  /-- R185: Once no request is in flight into a dirty view, the view bit inverts and the dirty flag clears in one event. -/
  | publish (view : ViewRef)
  /-- R187: A fault met by a copy after acceptance hands the remainder to the management firmware and the token becomes Slow. -/
  | copySlowPath (core : Nat) (id : Nat)
  /-- R187: The firmware completes the remainder or fails the request, setting the token Failed and writing a fault record. -/
  | slowPathEnd (core : Nat) (id : Nat)
  /-- R196: When every member's contribution has arrived the exact all-reduce result is written in place, or the instance fails on mismatch. -/
  | credInstanceComplete (vf : Nat) (group : Nat) (kind : Nat) (count : Nat) (contributions : List (List Val))
  /-- R215: The engine starts a queued instruction once every earlier instruction touching its rows, tiles or chain has completed. -/
  | matrixStart (core : Nat) (id : Nat)
  /-- R214: A queued matrix instruction completes, freeing its queue entry, completing its token and raising CHE or DRAIN flags. -/
  | matrixComplete (core : Nat) (id : Nat)
  /-- R201: At each 32-cycle window the ramp limiter raises its credit L by 4 if the window used all its intervals. -/
  | rampWindow (core : Nat)
  /-- R201: After 64 consecutive bubble cycles the ramp limiter's credit returns to 4. -/
  | rampReset (core : Nat)
  /-- R243: In each cycle every running region fires its due operations or freezes, advances its slot and handles interval boundaries and the cinch wire. -/
  | gridCycle (core : Nat)
  /-- R249: A stream engine's reply lands in request order in the reply input's queue, readable from the next cycle. -/
  | streamReplyLand (core : Nat) (eng : Nat)
  /-- R252: A self-driven load engine issues a group in a cycle in which it holds grants for every bank the group touches. -/
  | strmbGroupIssue (core : Nat) (eng : Nat)
  /-- R236: The configuration unit reads and checks a staged image, trapping GRID_CONFIG and discarding it on failure. -/
  | imageStaging (core : Nat)
  /-- R254: When the pages are idle the staged image activates, closing older engines, dropping older commands and zeroing grid state. -/
  | configActivation (core : Nat)
  /-- R263: A stream command at its engine's head completes when its groups finish or the engine opens or closes. -/
  | streamCommandComplete (core : Nat) (eng : Nat)
  /-- R272: When the deadlock count reaches the team's interval, WATCHDOG becomes pending on every warp's oldest fragment and the Bridle. -/
  | watchdog (t : Nat)
  /-- R269: A recorded STGFILL or STGFREE flip is performed after commit once its release conditions hold. -/
  | stageFlip (t : Nat) (u : Nat)
  /-- R271: A blocked fragment's wait on a barrier, ring, token, time or memory condition ends and its acquire part is performed. -/
  | waitEnd (t : Nat) (u : Nat)
  /-- R281: A WAITX whose region timeout expires traps EXTERNAL_TIMEOUT. -/
  | externalTimeout (t : Nat) (u : Nat)
  /-- R281: A waiting WAITX re-reads its word on a write to the line or after 4,096 cycles. -/
  | waitxReread (t : Nat) (u : Nat)
  /-- R275: On a die-to-die link failure the management processor reroutes traffic through a third die and updates LAT and RR. -/
  | linkReroute (a : Nat) (b : Nat) (latAB : Nat) (latBA : Nat)
  /-- R338: A write to a VF's WAKE register wakes the named region, or is dropped. -/
  | wake (vf : Nat) (rnum : Nat)
  /-- R340: A write to the PF's WAKE register wakes a region of tenant 0 in Halter mode and is dropped in full operation. -/
  | pfWake (rnum : Nat)
  /-- R294: The scheduler reads a woken region's block and takes ring records from LHEAD to LTAIL into the ready store. -/
  | regionScan (vf : Nat) (rnum : Nat)
  /-- R293: Once its AFTER region has drained, a conditional node's predicate is read and its waiting records are taken or skipped. -/
  | conditionalEvaluation (vf : Nat) (rnum : Nat)
  /-- R297: A team is placed on the lowest logical core where all resources, the residency gate and the budget allow, and starts. -/
  | teamPlacement (part : Nat)
  /-- R300: A team retires once its warps and Bridle have retired and every request it sent has ended. -/
  | teamRetire (t : Nat)
  /-- R300: A launch whose teams have retired and whose writes have passed their GWCT writes its done word and frees its ready-store entry. -/
  | launchRetire (vf : Nat) (seq : Nat)
  /-- R291: Resident teams' core time is added to USED of their region and ancestors in steps of at most 1 ms. -/
  | budgetCharge (t : Nat)
  /-- R306: At the end of a tenant's slice the switch steps of pre-emption, claim return, Burnisher and demotion begin. -/
  | sliceEnd (part : Nat)
  /-- R306: At the firmware lead time before a slice ends, the Saddlebag begins promoting the next tenant's working set. -/
  | promotionStart (part : Nat)
  /-- R305: The Saddlebag moves one 64 KiB page between tiers by holding writes, copying, rewriting the leaf and invalidating TLBs. -/
  | saddlebagPageMove (vf : Nat) (va : Nat) (dest : Nat)
  /-- R306: After demotion the next tenant's slice begins, restoring its saved teams first. -/
  | sliceBegin (part : Nat)
  /-- R307: The Burnisher clears every per-core state of the switched partition within 16,384 cycles and charges its time. -/
  | burnisherRun (part : Nat)
  /-- R303: The management processor stages new place tables and allocations and quiesces the affected engines. -/
  | layoutStage (lay : Layout)
  /-- R23: At the layout-version tick every place table swaps in one PTC cycle and pre-empted teams are restored. -/
  | layoutTick
  /-- R24: A failed physical core is replaced by a spare or its core group is removed from its partition. -/
  | coreRetirement (core : Nat) (phys : Nat)
  /-- R322: A pre-emption request stops placement and makes PREEMPT_NOTICE pending on each warp and the Bridle. -/
  | preemptRequest (t : Nat) (reason : Nat)
  /-- R324: Once no barrier is partly arrived, the team stops at block boundaries and its context image is written. -/
  | contextSave (t : Nat) (addr : Nat)
  /-- R325: When the deferral limit expires the save proceeds with KIND 2 even with a barrier partly arrived. -/
  | forcedSave (t : Nat) (addr : Nat)
  /-- R327: A saved team is placed, its image read back, its promises rebased and deferred publishes performed. -/
  | contextRestore (vf : Nat) (idx : Nat)
  /-- R331: A function-level reset terminates the VF's work, discards its in-flight requests, frees its records and burnishes its cores. -/
  | functionLevelReset (vf : Nat)
  /-- R333: Clearing every VF's enable resets all functions in parallel without saving or done words. -/
  | vfDisableAll
  /-- R8: A write to a register without behaviour of its own sets or ignores its fields by their access codes. -/
  | registerWrite (fn : Nat) (off : Nat) (val : Nat)
  /-- R337: A write of 1 to FRSTAT.OVF clears the fault ring's overflow bit. -/
  | frstatClear (fn : Nat) (val : Nat)
  /-- R340: A write of 1 to MBST.LOST or DONE clears that bit. -/
  | mbstClear (val : Nat)
  /-- R365: The loader checks, verifies, relocates and commits a code object for a tenant, or refuses it with a status. -/
  | loadObject
  /-- R340: The mailbox writes the device's Falcon-1024 public key into a host buffer. -/
  | readIdkey
  /-- R340: The mailbox installs a public key in a tenant's trusted-key slot. -/
  | installKey
  /-- R340: The mailbox empties a tenant's trusted-key slot. -/
  | removeKey
  /-- R350: The mailbox accepts a signed firmware image to take effect at the next start. -/
  | fwUpdate
  /-- R340: A doorbell with an unlisted command code completes at once with status 0xFF. -/
  | mailboxUnknownCommand (code : Nat)
  /-- R340: At a command's end MBRPL is written, BUSY clears, DONE sets and MSI-X vector 1 is signalled. -/
  | mailboxReply
  /-- R341: The management processor answers a TDISP request for the interface state. -/
  | getDeviceInterfaceState (vf : Nat)
  /-- R342: The interface moves to CONFIG_LOCKED and its items are frozen. -/
  | lockInterface (vf : Nat) (bound : Bool)
  /-- R343: The management processor returns the signed device interface report. -/
  | getDeviceInterfaceReport (vf : Nat)
  /-- R341: A locked interface moves to RUN. -/
  | startInterface (vf : Nat)
  /-- R342: The interface returns to CONFIG_UNLOCKED after the VF is reset. -/
  | stopInterface (vf : Nat)
  /-- R342: A host write to a locked item is discarded and moves the interface to ERROR, resetting the VF. -/
  | lockedItemWrite (vf : Nat) (item : Nat)
  /-- R341: A link-level IDE integrity failure moves a locked or running interface to ERROR. -/
  | ideIntegrityFailure (vf : Nat)
  /-- R346: A scale-out port whose lanes fail retrains narrower or goes down. -/
  | portRetrain (port : Nat) (lanes : Nat)
  /-- R347: A start runs bring-up stages 1 to 7, entering service or failing with a reason. -/
  | deviceStart (tests : StartTests)
  /-- R347: After a failed start the device holds reset for 10 ms and starts again. -/
  | startRetry
  /-- R353: When the 1 ms core-rail average reaches 2,500 A every ramp limiter is capped at 16. -/
  | currentClamp
  /-- R353: After 1 ms below 2,300 A the current cap is removed. -/
  | currentClampRelease
  /-- R353: A die junction reaching 95 °C makes the thermal clamp skip every second issue slot on that die. -/
  | thermalThrottle (die : Nat)
  /-- R353: At 110 °C hardware removes power from the package. -/
  | thermalTrip
  /-- R183: Destination bytes of an accepted copy request land piece by piece, marking a view dirty on the first byte and decrementing the barrier's pending-byte counter for unshadowed requests. -/
  | copyBytesLand (core : Nat) (id : Nat) (piece : Nat)
  /-- R162: A released SATOM executes in a three-cycle read-modify-write window of its bank once the bank schedule leaves one free, and returns its old value. -/
  | scratchpadAtomicExecute (core : Nat) (id : Nat)
  /-- R196: A peer member's tenant reset withdraws a CRED instance, putting every other member's token in Withdrawn and leaving its buffer unchanged. -/
  | credWithdrawn (vf : Nat) (group : Nat)
  /-- R161: An uncorrectable ECC error sets the poison mark of an aligned 32-byte granule of memory. -/
  | poisonMarkSet (granule : Nat)
  /-- R336: A host port loses its link or trains narrower, leaving its VFs unreachable until the management processor rebinds them. -/
  | hostPortDown (port : Nat) (lanes : Nat)
  /-- R344: A host CXL.mem access through the device-memory window is served at the hub as an access of HOST scope. -/
  | hostCxlMemAccess (addr : Nat) (isWrite : Bool) (bytes : List Byte)
  deriving DecidableEq, Repr

/-- The mnemonic, common fields and payload of an instruction word; `none` for a step of the machine. -/
def Instr.view : Instr → Option (Op × Ctl × Payload)
  | .nul c => some (.nul, c, .n)
  | .succ c => some (.succ, c, .n)
  | .brc c => some (.brc, c, .n)
  | .jmps c => some (.jmps, c, .n)
  | .call c p => some (.call, c, .c p)
  | .calli c p => some (.calli, c, .c p)
  | .ret c => some (.ret, c, .n)
  | .exit c => some (.exit, c, .n)
  | .voteAny c => some (.voteAny, c, .n)
  | .voteAll c => some (.voteAll, c, .n)
  | .voteBallot c => some (.voteBallot, c, .n)
  | .voteCount c => some (.voteCount, c, .n)
  | .maskrd c => some (.maskrd, c, .n)
  | .mov c => some (.mov, c, .n)
  | .add c p => some (.add, c, .a p)
  | .sub c p => some (.sub, c, .a p)
  | .mul c p => some (.mul, c, .a p)
  | .mulhi c p => some (.mulhi, c, .a p)
  | .mad c p => some (.mad, c, .a p)
  | .add64 c p => some (.add64, c, .a p)
  | .sub64 c p => some (.sub64, c, .a p)
  | .mad64 c p => some (.mad64, c, .a p)
  | .idiv c p => some (.idiv, c, .a p)
  | .irem c p => some (.irem, c, .a p)
  | .min_ c p => some (.min_, c, .a p)
  | .max_ c p => some (.max_, c, .a p)
  | .abs_ c p => some (.abs_, c, .a p)
  | .neg_ c p => some (.neg_, c, .a p)
  | .and_ c p => some (.and_, c, .a p)
  | .or_ c p => some (.or_, c, .a p)
  | .xor_ c p => some (.xor_, c, .a p)
  | .andn c p => some (.andn, c, .a p)
  | .not_ c p => some (.not_, c, .a p)
  | .shl c p => some (.shl, c, .a p)
  | .shr c p => some (.shr, c, .a p)
  | .sar c p => some (.sar, c, .a p)
  | .rol c p => some (.rol, c, .a p)
  | .popc c p => some (.popc, c, .a p)
  | .clz c p => some (.clz, c, .a p)
  | .ctz c p => some (.ctz, c, .a p)
  | .brev c p => some (.brev, c, .a p)
  | .bfx c p => some (.bfx, c, .a p)
  | .bfi c p => some (.bfi, c, .a p)
  | .prmt c p => some (.prmt, c, .a p)
  | .cmpEq c p => some (.cmpEq, c, .a p)
  | .cmpNe c p => some (.cmpNe, c, .a p)
  | .cmpLt c p => some (.cmpLt, c, .a p)
  | .cmpLe c p => some (.cmpLe, c, .a p)
  | .cmpGt c p => some (.cmpGt, c, .a p)
  | .cmpGe c p => some (.cmpGe, c, .a p)
  | .sel c p => some (.sel, c, .a p)
  | .movi c p => some (.movi, c, .i p)
  | .addhi c p => some (.addhi, c, .h p)
  | .lea c p => some (.lea, c, .a p)
  | .sext c p => some (.sext, c, .a p)
  | .zext c p => some (.zext, c, .a p)
  | .dp4 c p => some (.dp4, c, .a p)
  | .shflIdx c p => some (.shflIdx, c, .a p)
  | .shflRot c p => some (.shflRot, c, .a p)
  | .shflXor c p => some (.shflXor, c, .a p)
  | .shflRev c p => some (.shflRev, c, .a p)
  | .reduxAdd c p => some (.reduxAdd, c, .a p)
  | .reduxMin c p => some (.reduxMin, c, .a p)
  | .reduxMax c p => some (.reduxMax, c, .a p)
  | .reduxAnd c p => some (.reduxAnd, c, .a p)
  | .reduxOr c p => some (.reduxOr, c, .a p)
  | .reduxXor c p => some (.reduxXor, c, .a p)
  | .fadd c p => some (.fadd, c, .a p)
  | .fsub c p => some (.fsub, c, .a p)
  | .fmul c p => some (.fmul, c, .a p)
  | .ffma c p => some (.ffma, c, .a p)
  | .fmin c p => some (.fmin, c, .a p)
  | .fmax c p => some (.fmax, c, .a p)
  | .fsgnCp c p => some (.fsgnCp, c, .a p)
  | .fsgnNeg c p => some (.fsgnNeg, c, .a p)
  | .fsgnXor c p => some (.fsgnXor, c, .a p)
  | .fcmpEq c p => some (.fcmpEq, c, .a p)
  | .fcmpNe c p => some (.fcmpNe, c, .a p)
  | .fcmpLt c p => some (.fcmpLt, c, .a p)
  | .fcmpLe c p => some (.fcmpLe, c, .a p)
  | .fcmpGt c p => some (.fcmpGt, c, .a p)
  | .fcmpGe c p => some (.fcmpGe, c, .a p)
  | .fcmpUn c p => some (.fcmpUn, c, .a p)
  | .fclass c p => some (.fclass, c, .a p)
  | .fscale c p => some (.fscale, c, .a p)
  | .frnd c p => some (.frnd, c, .a p)
  | .frcp c p => some (.frcp, c, .a p)
  | .frsq c p => some (.frsq, c, .a p)
  | .fsqrt c p => some (.fsqrt, c, .a p)
  | .fexp2 c p => some (.fexp2, c, .a p)
  | .flog2 c p => some (.flog2, c, .a p)
  | .fsincos c p => some (.fsincos, c, .a p)
  | .ftanh c p => some (.ftanh, c, .a p)
  | .hfma2 c p => some (.hfma2, c, .a p)
  | .bfma2 c p => some (.bfma2, c, .a p)
  | .dadd c p => some (.dadd, c, .a p)
  | .dmul c p => some (.dmul, c, .a p)
  | .dfma c p => some (.dfma, c, .a p)
  | .fcvt c p => some (.fcvt, c, .a p)
  | .ftoi c p => some (.ftoi, c, .a p)
  | .itof c p => some (.itof, c, .a p)
  | .pack c p => some (.pack, c, .a p)
  | .unpk c p => some (.unpk, c, .a p)
  | .lgmul c p => some (.lgmul, c, .a p)
  | .lgcvt c p => some (.lgcvt, c, .a p)
  | .lgexp c p => some (.lgexp, c, .a p)
  | .lgdot c p => some (.lgdot, c, .a p)
  | .fflagsRd c => some (.fflagsRd, c, .n)
  | .fflagsClr c => some (.fflagsClr, c, .n)
  | .ld c p => some (.ld, c, .m p)
  | .st c p => some (.st, c, .m p)
  | .lds c p => some (.lds, c, .m p)
  | .sts c p => some (.sts, c, .m p)
  | .ldc c p => some (.ldc, c, .m p)
  | .atomAdd c p => some (.atomAdd, c, .m p)
  | .atomMin c p => some (.atomMin, c, .m p)
  | .atomMax c p => some (.atomMax, c, .m p)
  | .atomAnd c p => some (.atomAnd, c, .m p)
  | .atomOr c p => some (.atomOr, c, .m p)
  | .atomXor c p => some (.atomXor, c, .m p)
  | .atomExch c p => some (.atomExch, c, .m p)
  | .atomcas c p => some (.atomcas, c, .m p)
  | .atomvOr c p => some (.atomvOr, c, .m p)
  | .atomvAnd c p => some (.atomvAnd, c, .m p)
  | .atomvAdd c p => some (.atomvAdd, c, .m p)
  | .atomvMax c p => some (.atomvMax, c, .m p)
  | .satomAdd c p => some (.satomAdd, c, .m p)
  | .satomMin c p => some (.satomMin, c, .m p)
  | .satomMax c p => some (.satomMax, c, .m p)
  | .satomAnd c p => some (.satomAnd, c, .m p)
  | .satomOr c p => some (.satomOr, c, .m p)
  | .satomXor c p => some (.satomXor, c, .m p)
  | .satomExch c p => some (.satomExch, c, .m p)
  | .fenceAcq c p => some (.fenceAcq, c, .s p)
  | .fenceRel c p => some (.fenceRel, c, .s p)
  | .fenceAr c p => some (.fenceAr, c, .s p)
  | .pfetch c p => some (.pfetch, c, .m p)
  | .cinv c p => some (.cinv, c, .m p)
  | .claim c p => some (.claim, c, .m p)
  | .claimRel c p => some (.claimRel, c, .m p)
  | .cpytLd c p => some (.cpytLd, c, .e p)
  | .cpytSt c p => some (.cpytSt, c, .e p)
  | .cpybLd c p => some (.cpybLd, c, .e p)
  | .cpybSt c p => some (.cpybSt, c, .e p)
  | .cpyg c p => some (.cpyg, c, .e p)
  | .cpys c p => some (.cpys, c, .e p)
  | .cpyaccIn c p => some (.cpyaccIn, c, .e p)
  | .cpyaccOut c p => some (.cpyaccOut, c, .e p)
  | .publ c p => some (.publ, c, .e p)
  | .cpyrGet c p => some (.cpyrGet, c, .e p)
  | .cpyrPut c p => some (.cpyrPut, c, .e p)
  | .cred c p => some (.cred, c, .e p)
  | .tokq c p => some (.tokq, c, .e p)
  | .cpycan c p => some (.cpycan, c, .e p)
  | .chb c p => some (.chb, c, .e p)
  | .che c p => some (.che, c, .e p)
  | .mma c p => some (.mma, c, .e p)
  | .wbld c p => some (.wbld, c, .e p)
  | .wbldT c p => some (.wbldT, c, .e p)
  | .accz c p => some (.accz, c, .e p)
  | .accrd c p => some (.accrd, c, .e p)
  | .accwr c p => some (.accwr, c, .e p)
  | .drain c p => some (.drain, c, .e p)
  | .accwrd c p => some (.accwrd, c, .e p)
  | .accwwr c p => some (.accwwr, c, .e p)
  | .gcfg c p => some (.gcfg, c, .e p)
  | .grun c p => some (.grun, c, .e p)
  | .gstop c p => some (.gstop, c, .e p)
  | .gwait c p => some (.gwait, c, .e p)
  | .gqry c p => some (.gqry, c, .e p)
  | .gframe c p => some (.gframe, c, .e p)
  | .lctx c p => some (.lctx, c, .e p)
  | .strmo c p => some (.strmo, c, .e p)
  | .strma c p => some (.strma, c, .e p)
  | .strmb c p => some (.strmb, c, .e p)
  | .strmc c p => some (.strmc, c, .e p)
  | .strmq c p => some (.strmq, c, .e p)
  | .bar c p => some (.bar, c, .s p)
  | .bara c p => some (.bara, c, .s p)
  | .barw c p => some (.barw, c, .s p)
  | .barx c p => some (.barx, c, .s p)
  | .stgfill c p => some (.stgfill, c, .s p)
  | .stgwait c p => some (.stgwait, c, .s p)
  | .stgfree c p => some (.stgfree, c, .s p)
  | .sleept c p => some (.sleept, c, .s p)
  | .tokw c p => some (.tokw, c, .s p)
  | .tokwF c p => some (.tokwF, c, .s p)
  | .waitx c p => some (.waitx, c, .s p)
  | .realign c p => some (.realign, c, .s p)
  | .trap c p => some (.trap, c, .s p)
  | .tret c => some (.tret, c, .n)
  | .srd c p => some (.srd, c, .s p)
  | .swr c p => some (.swr, c, .s p)
  | .yield c => some (.yield, c, .n)
  | .nopb c => some (.nopb, c, .n)
  | .bkpt c p => some (.bkpt, c, .s p)
  | .perfrd c p => some (.perfrd, c, .s p)
  | .spawn c p => some (.spawn, c, .e p)
  | .blockEntry _ _ => none
  | .codePageHashCheck _ _ => none
  | .headerPrefetchIssue _ _ => none
  | .blockCommit _ _ => none
  | .groupFusion _ _ _ => none
  | .trapDelivery _ _ => none
  | .storeDieForward _ => none
  | .homeApplyWrite _ => none
  | .loadAtHome _ _ => none
  | .atomicAtHome _ => none
  | .atomicResponse _ => none
  | .atomicResponseLost _ => none
  | .leaseExpiry _ _ => none
  | .hostPostedWrite _ _ _ => none
  | .hostWriteAck _ => none
  | .claimComplete _ => none
  | .cinvComplete _ _ => none
  | .tlbInvalidation _ _ => none
  | .copyComplete _ _ => none
  | .missedPromise _ _ _ => none
  | .publish _ => none
  | .copySlowPath _ _ => none
  | .slowPathEnd _ _ => none
  | .credInstanceComplete _ _ _ _ _ => none
  | .matrixStart _ _ => none
  | .matrixComplete _ _ => none
  | .rampWindow _ => none
  | .rampReset _ => none
  | .gridCycle _ => none
  | .streamReplyLand _ _ => none
  | .strmbGroupIssue _ _ => none
  | .imageStaging _ => none
  | .configActivation _ => none
  | .streamCommandComplete _ _ => none
  | .watchdog _ => none
  | .stageFlip _ _ => none
  | .waitEnd _ _ => none
  | .externalTimeout _ _ => none
  | .waitxReread _ _ => none
  | .linkReroute _ _ _ _ => none
  | .wake _ _ => none
  | .pfWake _ => none
  | .regionScan _ _ => none
  | .conditionalEvaluation _ _ => none
  | .teamPlacement _ => none
  | .teamRetire _ => none
  | .launchRetire _ _ => none
  | .budgetCharge _ => none
  | .sliceEnd _ => none
  | .promotionStart _ => none
  | .saddlebagPageMove _ _ _ => none
  | .sliceBegin _ => none
  | .burnisherRun _ => none
  | .layoutStage _ => none
  | .layoutTick => none
  | .coreRetirement _ _ => none
  | .preemptRequest _ _ => none
  | .contextSave _ _ => none
  | .forcedSave _ _ => none
  | .contextRestore _ _ => none
  | .functionLevelReset _ => none
  | .vfDisableAll => none
  | .registerWrite _ _ _ => none
  | .frstatClear _ _ => none
  | .mbstClear _ => none
  | .loadObject => none
  | .readIdkey => none
  | .installKey => none
  | .removeKey => none
  | .fwUpdate => none
  | .mailboxUnknownCommand _ => none
  | .mailboxReply => none
  | .getDeviceInterfaceState _ => none
  | .lockInterface _ _ => none
  | .getDeviceInterfaceReport _ => none
  | .startInterface _ => none
  | .stopInterface _ => none
  | .lockedItemWrite _ _ => none
  | .ideIntegrityFailure _ => none
  | .portRetrain _ _ => none
  | .deviceStart _ => none
  | .startRetry => none
  | .currentClamp => none
  | .currentClampRelease => none
  | .thermalThrottle _ => none
  | .thermalTrip => none
  | .copyBytesLand _ _ _ => none
  | .scratchpadAtomicExecute _ _ => none
  | .credWithdrawn _ _ => none
  | .poisonMarkSet _ => none
  | .hostPortDown _ _ => none
  | .hostCxlMemAccess _ _ _ => none

/-- The instruction of a mnemonic, its common fields and a payload of its format. -/
def Op.build : Op → Ctl → Payload → Option Instr
  | .nul, c, .n => some (.nul c)
  | .succ, c, .n => some (.succ c)
  | .brc, c, .n => some (.brc c)
  | .jmps, c, .n => some (.jmps c)
  | .call, c, .c p => some (.call c p)
  | .calli, c, .c p => some (.calli c p)
  | .ret, c, .n => some (.ret c)
  | .exit, c, .n => some (.exit c)
  | .voteAny, c, .n => some (.voteAny c)
  | .voteAll, c, .n => some (.voteAll c)
  | .voteBallot, c, .n => some (.voteBallot c)
  | .voteCount, c, .n => some (.voteCount c)
  | .maskrd, c, .n => some (.maskrd c)
  | .mov, c, .n => some (.mov c)
  | .add, c, .a p => some (.add c p)
  | .sub, c, .a p => some (.sub c p)
  | .mul, c, .a p => some (.mul c p)
  | .mulhi, c, .a p => some (.mulhi c p)
  | .mad, c, .a p => some (.mad c p)
  | .add64, c, .a p => some (.add64 c p)
  | .sub64, c, .a p => some (.sub64 c p)
  | .mad64, c, .a p => some (.mad64 c p)
  | .idiv, c, .a p => some (.idiv c p)
  | .irem, c, .a p => some (.irem c p)
  | .min_, c, .a p => some (.min_ c p)
  | .max_, c, .a p => some (.max_ c p)
  | .abs_, c, .a p => some (.abs_ c p)
  | .neg_, c, .a p => some (.neg_ c p)
  | .and_, c, .a p => some (.and_ c p)
  | .or_, c, .a p => some (.or_ c p)
  | .xor_, c, .a p => some (.xor_ c p)
  | .andn, c, .a p => some (.andn c p)
  | .not_, c, .a p => some (.not_ c p)
  | .shl, c, .a p => some (.shl c p)
  | .shr, c, .a p => some (.shr c p)
  | .sar, c, .a p => some (.sar c p)
  | .rol, c, .a p => some (.rol c p)
  | .popc, c, .a p => some (.popc c p)
  | .clz, c, .a p => some (.clz c p)
  | .ctz, c, .a p => some (.ctz c p)
  | .brev, c, .a p => some (.brev c p)
  | .bfx, c, .a p => some (.bfx c p)
  | .bfi, c, .a p => some (.bfi c p)
  | .prmt, c, .a p => some (.prmt c p)
  | .cmpEq, c, .a p => some (.cmpEq c p)
  | .cmpNe, c, .a p => some (.cmpNe c p)
  | .cmpLt, c, .a p => some (.cmpLt c p)
  | .cmpLe, c, .a p => some (.cmpLe c p)
  | .cmpGt, c, .a p => some (.cmpGt c p)
  | .cmpGe, c, .a p => some (.cmpGe c p)
  | .sel, c, .a p => some (.sel c p)
  | .movi, c, .i p => some (.movi c p)
  | .addhi, c, .h p => some (.addhi c p)
  | .lea, c, .a p => some (.lea c p)
  | .sext, c, .a p => some (.sext c p)
  | .zext, c, .a p => some (.zext c p)
  | .dp4, c, .a p => some (.dp4 c p)
  | .shflIdx, c, .a p => some (.shflIdx c p)
  | .shflRot, c, .a p => some (.shflRot c p)
  | .shflXor, c, .a p => some (.shflXor c p)
  | .shflRev, c, .a p => some (.shflRev c p)
  | .reduxAdd, c, .a p => some (.reduxAdd c p)
  | .reduxMin, c, .a p => some (.reduxMin c p)
  | .reduxMax, c, .a p => some (.reduxMax c p)
  | .reduxAnd, c, .a p => some (.reduxAnd c p)
  | .reduxOr, c, .a p => some (.reduxOr c p)
  | .reduxXor, c, .a p => some (.reduxXor c p)
  | .fadd, c, .a p => some (.fadd c p)
  | .fsub, c, .a p => some (.fsub c p)
  | .fmul, c, .a p => some (.fmul c p)
  | .ffma, c, .a p => some (.ffma c p)
  | .fmin, c, .a p => some (.fmin c p)
  | .fmax, c, .a p => some (.fmax c p)
  | .fsgnCp, c, .a p => some (.fsgnCp c p)
  | .fsgnNeg, c, .a p => some (.fsgnNeg c p)
  | .fsgnXor, c, .a p => some (.fsgnXor c p)
  | .fcmpEq, c, .a p => some (.fcmpEq c p)
  | .fcmpNe, c, .a p => some (.fcmpNe c p)
  | .fcmpLt, c, .a p => some (.fcmpLt c p)
  | .fcmpLe, c, .a p => some (.fcmpLe c p)
  | .fcmpGt, c, .a p => some (.fcmpGt c p)
  | .fcmpGe, c, .a p => some (.fcmpGe c p)
  | .fcmpUn, c, .a p => some (.fcmpUn c p)
  | .fclass, c, .a p => some (.fclass c p)
  | .fscale, c, .a p => some (.fscale c p)
  | .frnd, c, .a p => some (.frnd c p)
  | .frcp, c, .a p => some (.frcp c p)
  | .frsq, c, .a p => some (.frsq c p)
  | .fsqrt, c, .a p => some (.fsqrt c p)
  | .fexp2, c, .a p => some (.fexp2 c p)
  | .flog2, c, .a p => some (.flog2 c p)
  | .fsincos, c, .a p => some (.fsincos c p)
  | .ftanh, c, .a p => some (.ftanh c p)
  | .hfma2, c, .a p => some (.hfma2 c p)
  | .bfma2, c, .a p => some (.bfma2 c p)
  | .dadd, c, .a p => some (.dadd c p)
  | .dmul, c, .a p => some (.dmul c p)
  | .dfma, c, .a p => some (.dfma c p)
  | .fcvt, c, .a p => some (.fcvt c p)
  | .ftoi, c, .a p => some (.ftoi c p)
  | .itof, c, .a p => some (.itof c p)
  | .pack, c, .a p => some (.pack c p)
  | .unpk, c, .a p => some (.unpk c p)
  | .lgmul, c, .a p => some (.lgmul c p)
  | .lgcvt, c, .a p => some (.lgcvt c p)
  | .lgexp, c, .a p => some (.lgexp c p)
  | .lgdot, c, .a p => some (.lgdot c p)
  | .fflagsRd, c, .n => some (.fflagsRd c)
  | .fflagsClr, c, .n => some (.fflagsClr c)
  | .ld, c, .m p => some (.ld c p)
  | .st, c, .m p => some (.st c p)
  | .lds, c, .m p => some (.lds c p)
  | .sts, c, .m p => some (.sts c p)
  | .ldc, c, .m p => some (.ldc c p)
  | .atomAdd, c, .m p => some (.atomAdd c p)
  | .atomMin, c, .m p => some (.atomMin c p)
  | .atomMax, c, .m p => some (.atomMax c p)
  | .atomAnd, c, .m p => some (.atomAnd c p)
  | .atomOr, c, .m p => some (.atomOr c p)
  | .atomXor, c, .m p => some (.atomXor c p)
  | .atomExch, c, .m p => some (.atomExch c p)
  | .atomcas, c, .m p => some (.atomcas c p)
  | .atomvOr, c, .m p => some (.atomvOr c p)
  | .atomvAnd, c, .m p => some (.atomvAnd c p)
  | .atomvAdd, c, .m p => some (.atomvAdd c p)
  | .atomvMax, c, .m p => some (.atomvMax c p)
  | .satomAdd, c, .m p => some (.satomAdd c p)
  | .satomMin, c, .m p => some (.satomMin c p)
  | .satomMax, c, .m p => some (.satomMax c p)
  | .satomAnd, c, .m p => some (.satomAnd c p)
  | .satomOr, c, .m p => some (.satomOr c p)
  | .satomXor, c, .m p => some (.satomXor c p)
  | .satomExch, c, .m p => some (.satomExch c p)
  | .fenceAcq, c, .s p => some (.fenceAcq c p)
  | .fenceRel, c, .s p => some (.fenceRel c p)
  | .fenceAr, c, .s p => some (.fenceAr c p)
  | .pfetch, c, .m p => some (.pfetch c p)
  | .cinv, c, .m p => some (.cinv c p)
  | .claim, c, .m p => some (.claim c p)
  | .claimRel, c, .m p => some (.claimRel c p)
  | .cpytLd, c, .e p => some (.cpytLd c p)
  | .cpytSt, c, .e p => some (.cpytSt c p)
  | .cpybLd, c, .e p => some (.cpybLd c p)
  | .cpybSt, c, .e p => some (.cpybSt c p)
  | .cpyg, c, .e p => some (.cpyg c p)
  | .cpys, c, .e p => some (.cpys c p)
  | .cpyaccIn, c, .e p => some (.cpyaccIn c p)
  | .cpyaccOut, c, .e p => some (.cpyaccOut c p)
  | .publ, c, .e p => some (.publ c p)
  | .cpyrGet, c, .e p => some (.cpyrGet c p)
  | .cpyrPut, c, .e p => some (.cpyrPut c p)
  | .cred, c, .e p => some (.cred c p)
  | .tokq, c, .e p => some (.tokq c p)
  | .cpycan, c, .e p => some (.cpycan c p)
  | .chb, c, .e p => some (.chb c p)
  | .che, c, .e p => some (.che c p)
  | .mma, c, .e p => some (.mma c p)
  | .wbld, c, .e p => some (.wbld c p)
  | .wbldT, c, .e p => some (.wbldT c p)
  | .accz, c, .e p => some (.accz c p)
  | .accrd, c, .e p => some (.accrd c p)
  | .accwr, c, .e p => some (.accwr c p)
  | .drain, c, .e p => some (.drain c p)
  | .accwrd, c, .e p => some (.accwrd c p)
  | .accwwr, c, .e p => some (.accwwr c p)
  | .gcfg, c, .e p => some (.gcfg c p)
  | .grun, c, .e p => some (.grun c p)
  | .gstop, c, .e p => some (.gstop c p)
  | .gwait, c, .e p => some (.gwait c p)
  | .gqry, c, .e p => some (.gqry c p)
  | .gframe, c, .e p => some (.gframe c p)
  | .lctx, c, .e p => some (.lctx c p)
  | .strmo, c, .e p => some (.strmo c p)
  | .strma, c, .e p => some (.strma c p)
  | .strmb, c, .e p => some (.strmb c p)
  | .strmc, c, .e p => some (.strmc c p)
  | .strmq, c, .e p => some (.strmq c p)
  | .bar, c, .s p => some (.bar c p)
  | .bara, c, .s p => some (.bara c p)
  | .barw, c, .s p => some (.barw c p)
  | .barx, c, .s p => some (.barx c p)
  | .stgfill, c, .s p => some (.stgfill c p)
  | .stgwait, c, .s p => some (.stgwait c p)
  | .stgfree, c, .s p => some (.stgfree c p)
  | .sleept, c, .s p => some (.sleept c p)
  | .tokw, c, .s p => some (.tokw c p)
  | .tokwF, c, .s p => some (.tokwF c p)
  | .waitx, c, .s p => some (.waitx c p)
  | .realign, c, .s p => some (.realign c p)
  | .trap, c, .s p => some (.trap c p)
  | .tret, c, .n => some (.tret c)
  | .srd, c, .s p => some (.srd c p)
  | .swr, c, .s p => some (.swr c p)
  | .yield, c, .n => some (.yield c)
  | .nopb, c, .n => some (.nopb c)
  | .bkpt, c, .s p => some (.bkpt c p)
  | .perfrd, c, .s p => some (.perfrd c p)
  | .spawn, c, .e p => some (.spawn c p)
  | _, _, _ => none

end Sys2Proof
end

