-- ==== Sys2Proof/Machine/Types.lean ====
section
/-! DEFINITION. The records that State is made of, part one: keyed tables, traps, fragments, tokens and
the block in flight. -/

namespace Sys2Proof.Machine

/-- A table keyed by numbers: a list of pairs, keys strictly rising, with no entry equal to the default
that an unlisted key reads as. Every sparse store of the machine has this form. -/
abbrev Tab (α : Type) := List (Nat × α)

/-- The trap codes of R311. -/
inductive TrapCode where
  | illegalMajor | illegalMinor | badHeader | reservedBits | engineRole | partialMask
  | align | xlateNotMapped | xlatePerm | dataPoison | bankConflict | missedPromise
  | barrierMismatch | chainOrder | accRange | resourceKind | codeIntegrity | stack
  | swTrap | gridConfig | stream | watchdog | bkpt | externalTimeout | splitOverflow | preemptNotice
  deriving DecidableEq, Repr

/-- The source of sr.trapcode[15:8] (R311). -/
inductive TrapSource where
  | globalMem | scratchpad | codeFetch | headerRead | engine
  deriving DecidableEq, Repr

/-- A trap with what its delivery needs: its code and source, sr.trapinfo, and the block at whose entry
it is taken. -/
structure PendTrap where
  code : TrapCode
  source : TrapSource
  info : BitVec 64
  blk : Nat
  deriving DecidableEq, Repr

/-- The states of a split-table entry's fragment (R75). -/
inductive FragState where
  | ready | inFlight | blocked | parked | trapPending
  deriving DecidableEq, Repr

/-- A group record (R75): its rejoin address, the call depth at which it was made, and its parent group
(`none`: the root group). -/
structure GroupRec where
  rejoin : Nat
  depth : Nat
  parent : Option Nat
  deriving DecidableEq, Repr

/-- A split-table entry (R75). `live` says that it holds a fragment. `group` is the entry of the group's
record, `none` for the root. `traps` are the traps pending on the fragment, `handler` marks the fragments
that run handler blocks (R313). `resume` is the cycle from which the STALL of its last block lets it enter the next (R70),
and `seen` marks the entries whose fragments have entered a block while this one was ready (R81). -/
structure SplitEntry where
  live : Bool := false
  mask : BitVec 128 := 0
  block : Nat := 0
  group : Option Nat := none
  stamp : Nat := 0
  ageing : Nat := 0
  state : FragState := .ready
  stack : List Nat := []
  traps : List PendTrap := []
  handler : Bool := false
  record : Option GroupRec := none
  resume : Nat := 0
  seen : BitVec 32 := 0
  deriving DecidableEq, Repr

/-- The token states of R181. -/
inductive TokState where
  | complete | pending | slow | late | failed | withdrawn | cancelled
  deriving DecidableEq, Repr

/-- A scoreboard token (R36, R181): `copy` marks a token set by a copy request, `promise` is P, `code`
and `addr` record a failure, `deferred` the view whose auto-publish is put off to a restore (R329), and `req` names the
request or producer that set it last. -/
structure SbTok where
  state : TokState := .complete
  copy : Bool := false
  promise : Nat := 0
  code : Option TrapCode := none
  addr : BitVec 57 := 0
  deferred : Option ViewRef := none
  req : Nat := 0
  deriving DecidableEq, Repr

/-- An arrival record (R264); `rejoin` says that a save aborted the warp's BAR after it, so that the arrival made again after the
restore only joins that generation (R325). -/
structure Arrival where
  flag : Bool := false
  gen : BitVec 32 := 0
  rejoin : Bool := false
  deriving DecidableEq, Repr

/-- The trap frame of R313. -/
structure TrapFrame where
  code : Option TrapCode := none
  source : TrapSource := .globalMem
  info : BitVec 64 := 0
  blk : Nat := 0
  mask : BitVec 128 := 0
  depth : Nat := 0
  entry : Nat := 0
  deriving DecidableEq, Repr

/-- The roles of R17. -/
inductive Role where
  | copy | matrix | vector | grid
  deriving DecidableEq, Repr

/-- A token that has reached a slot or a header write: one lane value per thread, and the cycle from
which it is there (the planned latency of its producer, R27). -/
structure Tok where
  lanes : List Lane
  ready : Nat
  deriving DecidableEq, Repr

/-- Where an atomic's value goes (R159): a register space (0 v, 1 k, 2 q), its number, the lane, and the
result's width and sign extension. -/
structure RegDest where
  space : Nat
  index : Nat
  lane : Nat
  width : Nat
  signed : Bool
  deriving DecidableEq, Repr

/-- A register lane that waits for an atomic's value (R159). -/
structure PendReg where
  id : Nat
  dest : RegDest
  deriving DecidableEq, Repr

/-- The read-modify-write operations of R170. -/
inductive AtomOp where
  | add | min | max | and | or | xor | exch
  deriving DecidableEq, Repr

/-- The vector operations of R171. -/
inductive VecOp where
  | or | and | add | max
  deriving DecidableEq, Repr

/-- What a released store or atomic does. -/
inductive ReqKind where
  | store
  | atom (op : AtomOp) (ty : Ty)
  | cas (ty : Ty)
  | vec (op : VecOp) (index : Bool)
  | claim (rel : Bool)
  | spawn
  deriving DecidableEq, Repr

/-- A store or atomic that a block in flight holds until its commit (R72): its LSID, the instruction that
made it, its lane, whether it goes to the scratchpad, its address (virtual, or window offset), its
physical address, its width in bytes and its operands; `pages` are the physical pages of a CLAIM, as translated at its
issue (R176). -/
structure HeldStore where
  lsid : Nat
  prod : Nat
  lane : Nat
  scratch : Bool
  kind : ReqKind
  va : Nat
  pa : Nat
  n : Nat
  data : Val
  cmp : Val
  pages : List Nat := []
  deriving DecidableEq, Repr

/-- A piece of an LDS that waits for its banks (R252): its instruction, its lane, its offset in the lane's value, and the window
bytes that it reads. -/
structure SpPiece where
  idx : Nat
  lane : Nat
  off : Nat
  addr : Nat
  n : Nat
  deriving DecidableEq, Repr

/-- What a block's terminator decided (R86). -/
inductive Term where
  | lanes (s : List Nat)
  | jump
  | call (dest : Nat)
  | ret
  | exit
  deriving DecidableEq, Repr

/-- The waits of R271 and R259 that an issued instruction can be in, and the reads of a WAITX: `homed` says that
writes to the line wake it, `nextRead` is 0 until the first read and then the cycle of the next one, `touched` that
such a write has come since. -/
inductive Wait where
  | barrier (b : Nat)
  | ring (r s : Nat) (eph : Bool) (phase : Bool)
  | tokens (mask : Nat) (force : Bool)
  | sleep (target : Nat)
  | word (addr pa : Nat) (wide homed : Bool) (cond : Nat) (val : Nat) (deadline : Option Nat) (nextRead : Nat)
      (touched : Bool)
  | realign (target : Nat) (issued : Nat)
  | grid (cond : Nat) (gen : Nat)
  deriving DecidableEq, Repr

/-- The internal conditions the watchdog names (R272). -/
inductive WaitKind where
  | none | barrier | ring | token | gwait | queue | external
  deriving DecidableEq, Repr

/-- The value of one lane of a load, as its pieces return (R158). -/
structure LoadLane where
  idx : Nat
  lane : Nat
  val : Val
  missing : Nat
  deriving DecidableEq, Repr

/-- A deferred stage flip (R269): ring, stage, which bit, and the scope's rank. -/
structure Flip where
  ring : Nat
  stage : Nat
  eph : Bool
  scope : Nat
  deriving DecidableEq, Repr

/-- A fault found in a block in flight, held until every earlier load has returned (R177). -/
structure HeldFault where
  idx : Nat
  lane : Nat
  trap : PendTrap
  deriving DecidableEq, Repr

/-- A read entry of a block header (R41): its space (0 v, 1 k, 2 q, 3 special), index and target. -/
structure ReadEntry where
  space : Nat
  index : Nat
  valid : Bool
  cons : Nat
  slot : Slot
  deriving DecidableEq, Repr

/-- A write entry of a block header (R42). -/
structure WriteEntry where
  space : Nat
  index : Nat
  prod : Nat
  deriving DecidableEq, Repr

/-- The prefetch descriptor (R44). -/
structure Prefetch where
  ridx : Nat
  kreg : Nat
  token : Nat
  bytes : Nat
  deriving DecidableEq, Repr

/-- A parsed block header (R39, R40): `scnt` is SCNT, `succ` the declared successor offsets in words. -/
structure Header where
  icnt : Nat
  hcnt : Nat
  scnt : Nat
  idem : Bool
  srmw : Bool
  rejoin : Int
  succ : List Int
  reads : List ReadEntry
  writes : List WriteEntry
  prefetch : Option Prefetch
  deriving DecidableEq, Repr

/-- The block a fragment has in flight (R64 to R74). `entered` is false while entry step 4 still waits.
`toks` holds delivered tokens by 4 × instruction + slot; `results` the tokens that header writes take;
`stores`, `flips` and `swrs` wait for the commit; `raised` and `clear` are the flags of R127; `late` says that
the late operand at `idx` is already counted (R69), `sbLoads` which token waits for which load or atomic,
`keeps` the slots that KEEP names, by instruction (R92), `spLoads` the pieces of its LDSs that wait for their banks (R252), and
`copies` the requests that its copy instructions sent (R183). -/
structure Flight where
  frag : Nat
  addr : Nat
  words : List IWord
  hdr : Header
  entered : Bool := true
  idx : Nat := 0
  turn : Nat := 0
  toks : Tab Tok := []
  results : Tab Tok := []
  loads : List LoadLane := []
  acq : Nat := 0
  entryFlags : BitVec 8 := 0
  raised : BitVec 8 := 0
  clear : BitVec 8 := 0
  stores : List HeldStore := []
  flips : List Flip := []
  swrs : List (Nat × BitVec 64) := []
  term : Option Term := none
  csys : Option (PendTrap × Nat) := none
  tret : Bool := false
  cinv : List (Nat × Nat) := []
  wait : Option Wait := none
  waitKind : WaitKind := .none
  fault : Option HeldFault := none
  late : Bool := false
  sbLoads : List (Nat × Nat) := []
  keeps : List (Nat × Nat) := []
  spLoads : List SpPiece := []
  copies : List Nat := []
  deriving DecidableEq, Repr

/-- An operand-buffer entry (R92): a mirrored v register (space 0) with its 128 lanes, or a k register
(space 1) with one value, and the poison marks. Most recently used first. -/
structure OpBufEnt where
  space : Nat
  index : Nat
  vals : Tab Word64
  poison : Tab Bool
  deriving DecidableEq, Repr

/-- A warp, or the Bridle control processor as unit 16 of its team with one lane (R88, R227). v and q
registers are keyed by 128 × number + lane. `tlast` is the latest commit cycle that released a store
(R157); `ct`, `atomics` and `hostOut` are the completion records of R152, `cinvs` the ranges whose CINV has not
completed with their commit cycles (R175), and `issuedAt` is one more than the last cycle in which it issued an instruction
(R272). -/
structure WUnit where
  role : Role := .vector
  v : Tab Word := []
  vPoison : Tab Bool := []
  k : Tab Word64 := []
  kPoison : Tab Bool := []
  q : Tab Bool := []
  qPoison : Tab Bool := []
  fflags : BitVec 8 := 0
  bkpten : BitVec 64 := BitVec.allOnes 64
  tm : Bool := false
  frame : TrapFrame := {}
  toks : Tab SbTok := []
  arrivals : Tab Arrival := []
  splits : Tab SplitEntry := []
  flight : Option Flight := none
  opBuf : List OpBufEnt := []
  ct : Nat := 0
  atomics : Nat := 0
  hostOut : Nat := 0
  tlast : Option Nat := none
  pendRegs : List PendReg := []
  flips : List Flip := []
  cinvs : List (Nat × Nat × Nat) := []
  ageing : Nat := 0
  issuedAt : Nat := 0
  done : Bool := false
  deriving DecidableEq, Repr

end Sys2Proof.Machine
end

