-- ==== Sys2Proof/Machine/OpTable.lean ====
section
/-! DEFINITION. The opcode table as data: for each mnemonic its encoding (R55), the types it admits,
the slots it uses, and what the decode check asks of its fields; and the small functions that read
that table. The rows are those of the tables of chapters 3 to 12. -/

namespace Sys2Proof.Machine

/-- The payload formats (R46 to R54). -/
inductive Fmt where
  | n | a | i | h | m | c | e | s
  deriving DecidableEq, Repr

/-- Which engine an instruction belongs to (R17). -/
inductive Engine where
  | none | copy | matrix | grid
  deriving DecidableEq, Repr

/-- What an entry says of the RM field (R99, R128): only zero, the directed modes, or RNA as well. -/
inductive RmRule where
  | zero | mode | rna
  deriving DecidableEq, Repr

/-- How an entry assigns AUX (R104, R105, R109, R110, R111, R112, R136, R137). -/
inductive AuxRule where
  | zero | any | field | scale | width | shfl | shflRot | redux | srcF | srcI | lgexp
  deriving DecidableEq, Repr

/-- When a slot is used: never, always, or when a mode bit of the payload says so (R217, R276). -/
inductive Use where
  | no | yes | opt
  deriving DecidableEq, Repr

/-- The width of a slot or of a result: that of TY, a fixed number of bits (0: whatever token arrives),
that of a conversion's source type (R136), PFETCH's address or offset (R174), or DRAIN's L (R224). -/
inductive SlotW where
  | ty
  | fix (n : Nat)
  | src
  | pfetch
  | org
  deriving DecidableEq, Repr

/-- One row of the opcode table. `pData` marks a P slot that carries data (R31); `noPm` forms require
PM = 0b00; `lsid` marks the stores and atomics of R38; `tgt` the forms whose targets may be valid;
`full` the queued matrix forms of R214; `lat` and `lat64` the planned latency in slots (R27). -/
structure OpInfo where
  maj : Nat
  min : Nat
  fmt : Fmt
  tys : List Ty
  useL : Use := .no
  useR : Use := .no
  pData : Bool := false
  noPm : Bool := false
  term : Bool := false
  lsid : Bool := false
  res : Bool := true
  tgt : Bool := true
  uOk : Bool := false
  rm : RmRule := .zero
  fsOk : Bool := false
  aux : AuxRule := .zero
  eng : Engine := .none
  full : Bool := false
  wL : SlotW := .ty
  wR : SlotW := .ty
  wP : SlotW := .ty
  wD : SlotW := .ty
  lat : Nat := 1
  lat64 : Nat := 1
  deriving DecidableEq, Repr

def tysA : List Ty := [.s32, .n32, .s64, .n64]
def tysAB : List Ty := [.s32, .n32, .s64, .n64, .b32]
def tysABB : List Ty := [.s32, .n32, .s64, .n64, .b32, .b128]
def tysH : List Ty := [.f32, .f16, .bf16]
def tysHD : List Ty := [.f32, .f16, .bf16, .f64]
def tysAll : List Ty := [.s32, .n32, .s64, .n64, .f32, .f16, .bf16, .f64, .lg6, .lg8, .s8, .n8, .f16x2, .bf16x2, .b32, .b128]
def tysMem : List Ty := [.s8, .n8, .lg6, .lg8, .f16, .bf16, .s32, .n32, .f32, .b32, .f16x2, .bf16x2, .s64, .n64, .f64, .b128]
def tysI32 : List Ty := [.s32, .n32]

/-- The row of each mnemonic. -/
def opInfo : Op → OpInfo
  | .nul => { maj := 0x00, min := 0, fmt := .n, tys := tysAll }
  | .succ => { maj := 0x01, min := 0, fmt := .n, tys := [.s32], useL := .yes, noPm := true, term := true, res := false, tgt := false, wL := .fix 32 }
  | .brc => { maj := 0x02, min := 0, fmt := .n, tys := [.s32], useL := .yes, noPm := true, term := true, res := false, tgt := false, wL := .fix 0 }
  | .jmps => { maj := 0x03, min := 0, fmt := .n, tys := [.s32], noPm := true, term := true, res := false, tgt := false }
  | .call => { maj := 0x04, min := 0, fmt := .c, tys := [.s32], noPm := true, term := true, res := false, tgt := false }
  | .calli => { maj := 0x05, min := 0, fmt := .c, tys := [.s32], noPm := true, term := true, res := false, tgt := false }
  | .ret => { maj := 0x06, min := 0, fmt := .n, tys := [.s32], noPm := true, term := true, res := false, tgt := false }
  | .exit => { maj := 0x07, min := 0, fmt := .n, tys := [.s32], noPm := true, term := true, res := false, tgt := false }
  | .voteAny => { maj := 0x08, min := 0, fmt := .n, tys := [.n32], useL := .yes, wL := .fix 0 }
  | .voteAll => { maj := 0x08, min := 1, fmt := .n, tys := [.n32], useL := .yes, wL := .fix 0 }
  | .voteBallot => { maj := 0x08, min := 2, fmt := .n, tys := [.b128], useL := .yes, wL := .fix 0 }
  | .voteCount => { maj := 0x08, min := 3, fmt := .n, tys := [.n32], useL := .yes, wL := .fix 0 }
  | .maskrd => { maj := 0x09, min := 0, fmt := .n, tys := [.b128] }
  | .mov => { maj := 0x0A, min := 0, fmt := .n, tys := tysAll, useL := .yes }
  | .add => { maj := 0x10, min := 0, fmt := .a, tys := tysA, useL := .yes, useR := .yes, uOk := true }
  | .sub => { maj := 0x11, min := 0, fmt := .a, tys := tysA, useL := .yes, useR := .yes, uOk := true }
  | .mul => { maj := 0x12, min := 0, fmt := .a, tys := tysA, useL := .yes, useR := .yes, uOk := true, lat := 2, lat64 := 2 }
  | .mulhi => { maj := 0x13, min := 0, fmt := .a, tys := tysA, useL := .yes, useR := .yes, uOk := true, lat := 2, lat64 := 2 }
  | .mad => { maj := 0x14, min := 0, fmt := .a, tys := tysA, useL := .yes, useR := .yes, pData := true, noPm := true, uOk := true, lat := 2, lat64 := 2 }
  | .add64 => { maj := 0x15, min := 0, fmt := .a, tys := tysI32, useL := .yes, useR := .yes, uOk := true, wL := .fix 64, wR := .fix 32, wD := .fix 64 }
  | .sub64 => { maj := 0x15, min := 1, fmt := .a, tys := tysI32, useL := .yes, useR := .yes, uOk := true, wL := .fix 64, wR := .fix 32, wD := .fix 64 }
  | .mad64 => { maj := 0x16, min := 0, fmt := .a, tys := tysI32, useL := .yes, useR := .yes, pData := true, noPm := true, uOk := true, lat := 2, lat64 := 2, wL := .fix 32, wR := .fix 32, wP := .fix 64, wD := .fix 64 }
  | .idiv => { maj := 0x17, min := 0, fmt := .a, tys := tysA, useL := .yes, useR := .yes, uOk := true, lat := 10, lat64 := 20 }
  | .irem => { maj := 0x17, min := 1, fmt := .a, tys := tysA, useL := .yes, useR := .yes, uOk := true, lat := 10, lat64 := 20 }
  | .min_ => { maj := 0x18, min := 0, fmt := .a, tys := tysA, useL := .yes, useR := .yes, uOk := true }
  | .max_ => { maj := 0x18, min := 1, fmt := .a, tys := tysA, useL := .yes, useR := .yes, uOk := true }
  | .abs_ => { maj := 0x19, min := 0, fmt := .a, tys := [.s32, .s64], useL := .yes, uOk := true }
  | .neg_ => { maj := 0x19, min := 1, fmt := .a, tys := [.s32, .s64], useL := .yes, uOk := true }
  | .and_ => { maj := 0x1A, min := 0, fmt := .a, tys := tysABB, useL := .yes, useR := .yes, uOk := true }
  | .or_ => { maj := 0x1A, min := 1, fmt := .a, tys := tysABB, useL := .yes, useR := .yes, uOk := true }
  | .xor_ => { maj := 0x1A, min := 2, fmt := .a, tys := tysABB, useL := .yes, useR := .yes, uOk := true }
  | .andn => { maj := 0x1A, min := 3, fmt := .a, tys := tysABB, useL := .yes, useR := .yes, uOk := true }
  | .not_ => { maj := 0x1A, min := 4, fmt := .a, tys := tysABB, useL := .yes, uOk := true }
  | .shl => { maj := 0x1B, min := 0, fmt := .a, tys := tysAB, useL := .yes, useR := .yes, uOk := true, wR := .fix 32 }
  | .shr => { maj := 0x1B, min := 1, fmt := .a, tys := tysAB, useL := .yes, useR := .yes, uOk := true, wR := .fix 32 }
  | .sar => { maj := 0x1B, min := 2, fmt := .a, tys := tysAB, useL := .yes, useR := .yes, uOk := true, wR := .fix 32 }
  | .rol => { maj := 0x1B, min := 3, fmt := .a, tys := tysAB, useL := .yes, useR := .yes, uOk := true, wR := .fix 32 }
  | .popc => { maj := 0x1C, min := 0, fmt := .a, tys := tysAB, useL := .yes, uOk := true }
  | .clz => { maj := 0x1C, min := 1, fmt := .a, tys := tysAB, useL := .yes, uOk := true }
  | .ctz => { maj := 0x1C, min := 2, fmt := .a, tys := tysAB, useL := .yes, uOk := true }
  | .brev => { maj := 0x1C, min := 3, fmt := .a, tys := tysAB, useL := .yes, uOk := true }
  | .bfx => { maj := 0x1D, min := 0, fmt := .a, tys := tysA, useL := .yes, uOk := true, aux := .field }
  | .bfi => { maj := 0x1E, min := 0, fmt := .a, tys := tysA, useL := .yes, pData := true, noPm := true, uOk := true, aux := .field }
  | .prmt => { maj := 0x1F, min := 0, fmt := .a, tys := [.b32], useL := .yes, useR := .yes, uOk := true, aux := .any }
  | .cmpEq => { maj := 0x20, min := 0, fmt := .a, tys := tysA, useL := .yes, useR := .yes, uOk := true, wD := .fix 32 }
  | .cmpNe => { maj := 0x20, min := 1, fmt := .a, tys := tysA, useL := .yes, useR := .yes, uOk := true, wD := .fix 32 }
  | .cmpLt => { maj := 0x20, min := 2, fmt := .a, tys := tysA, useL := .yes, useR := .yes, uOk := true, wD := .fix 32 }
  | .cmpLe => { maj := 0x20, min := 3, fmt := .a, tys := tysA, useL := .yes, useR := .yes, uOk := true, wD := .fix 32 }
  | .cmpGt => { maj := 0x20, min := 4, fmt := .a, tys := tysA, useL := .yes, useR := .yes, uOk := true, wD := .fix 32 }
  | .cmpGe => { maj := 0x20, min := 5, fmt := .a, tys := tysA, useL := .yes, useR := .yes, uOk := true, wD := .fix 32 }
  | .sel => { maj := 0x21, min := 0, fmt := .a, tys := tysAll, useL := .yes, useR := .yes, pData := true, noPm := true, uOk := true, wL := .fix 0 }
  | .movi => { maj := 0x22, min := 0, fmt := .i, tys := [.s32, .n32, .s64, .n64, .f32, .f64, .b32] }
  | .addhi => { maj := 0x23, min := 0, fmt := .h, tys := tysA, useL := .yes, uOk := true }
  | .lea => { maj := 0x24, min := 0, fmt := .a, tys := tysI32, useL := .yes, useR := .yes, uOk := true, aux := .scale, wL := .fix 64, wR := .fix 32, wD := .fix 64 }
  | .sext => { maj := 0x25, min := 0, fmt := .a, tys := tysA, useL := .yes, uOk := true, aux := .width }
  | .zext => { maj := 0x25, min := 1, fmt := .a, tys := tysA, useL := .yes, uOk := true, aux := .width }
  | .dp4 => { maj := 0x26, min := 0, fmt := .a, tys := [.s8, .n8], useL := .yes, useR := .yes, pData := true, noPm := true, uOk := true, lat := 2, lat64 := 2, wL := .fix 32, wR := .fix 32, wP := .fix 32, wD := .fix 32 }
  | .shflIdx => { maj := 0x27, min := 0, fmt := .a, tys := [.s32, .n32, .s64, .n64, .f32, .f16, .bf16, .f64, .lg6, .lg8, .s8, .n8, .f16x2, .bf16x2, .b32], useL := .yes, useR := .yes, aux := .shfl, lat := 2, lat64 := 2, wR := .fix 32 }
  | .shflRot => { maj := 0x27, min := 1, fmt := .a, tys := [.s32, .n32, .s64, .n64, .f32, .f16, .bf16, .f64, .lg6, .lg8, .s8, .n8, .f16x2, .bf16x2, .b32], useL := .yes, useR := .yes, aux := .shflRot, lat := 2, lat64 := 2, wR := .fix 32 }
  | .shflXor => { maj := 0x27, min := 2, fmt := .a, tys := [.s32, .n32, .s64, .n64, .f32, .f16, .bf16, .f64, .lg6, .lg8, .s8, .n8, .f16x2, .bf16x2, .b32], useL := .yes, useR := .yes, aux := .shfl, lat := 2, lat64 := 2, wR := .fix 32 }
  | .shflRev => { maj := 0x27, min := 3, fmt := .a, tys := [.s32, .n32, .s64, .n64, .f32, .f16, .bf16, .f64, .lg6, .lg8, .s8, .n8, .f16x2, .bf16x2, .b32], useL := .yes, useR := .yes, aux := .shfl, lat := 2, lat64 := 2, wR := .fix 32 }
  | .reduxAdd => { maj := 0x28, min := 0, fmt := .a, tys := tysA, useL := .yes, aux := .redux, lat := 4, lat64 := 4 }
  | .reduxMin => { maj := 0x28, min := 1, fmt := .a, tys := tysA, useL := .yes, aux := .redux, lat := 4, lat64 := 4 }
  | .reduxMax => { maj := 0x28, min := 2, fmt := .a, tys := tysA, useL := .yes, aux := .redux, lat := 4, lat64 := 4 }
  | .reduxAnd => { maj := 0x28, min := 3, fmt := .a, tys := tysAB, useL := .yes, aux := .redux, lat := 4, lat64 := 4 }
  | .reduxOr => { maj := 0x28, min := 4, fmt := .a, tys := tysAB, useL := .yes, aux := .redux, lat := 4, lat64 := 4 }
  | .reduxXor => { maj := 0x28, min := 5, fmt := .a, tys := tysAB, useL := .yes, aux := .redux, lat := 4, lat64 := 4 }
  | .fadd => { maj := 0x30, min := 0, fmt := .a, tys := tysH, useL := .yes, useR := .yes, uOk := true, fsOk := true, rm := .mode }
  | .fsub => { maj := 0x31, min := 0, fmt := .a, tys := tysH, useL := .yes, useR := .yes, uOk := true, fsOk := true, rm := .mode }
  | .fmul => { maj := 0x32, min := 0, fmt := .a, tys := tysH, useL := .yes, useR := .yes, uOk := true, fsOk := true, rm := .mode }
  | .ffma => { maj := 0x33, min := 0, fmt := .a, tys := tysH, useL := .yes, useR := .yes, pData := true, noPm := true, uOk := true, fsOk := true, rm := .mode, lat := 2, lat64 := 2 }
  | .fmin => { maj := 0x34, min := 0, fmt := .a, tys := tysHD, useL := .yes, useR := .yes, uOk := true, fsOk := true, lat64 := 4 }
  | .fmax => { maj := 0x34, min := 1, fmt := .a, tys := tysHD, useL := .yes, useR := .yes, uOk := true, fsOk := true, lat64 := 4 }
  | .fsgnCp => { maj := 0x35, min := 0, fmt := .a, tys := tysHD, useL := .yes, useR := .yes, uOk := true, fsOk := true }
  | .fsgnNeg => { maj := 0x35, min := 1, fmt := .a, tys := tysHD, useL := .yes, useR := .yes, uOk := true, fsOk := true }
  | .fsgnXor => { maj := 0x35, min := 2, fmt := .a, tys := tysHD, useL := .yes, useR := .yes, uOk := true, fsOk := true }
  | .fcmpEq => { maj := 0x36, min := 0, fmt := .a, tys := tysHD, useL := .yes, useR := .yes, uOk := true, fsOk := true, lat64 := 4, wD := .fix 32 }
  | .fcmpNe => { maj := 0x36, min := 1, fmt := .a, tys := tysHD, useL := .yes, useR := .yes, uOk := true, fsOk := true, lat64 := 4, wD := .fix 32 }
  | .fcmpLt => { maj := 0x36, min := 2, fmt := .a, tys := tysHD, useL := .yes, useR := .yes, uOk := true, fsOk := true, lat64 := 4, wD := .fix 32 }
  | .fcmpLe => { maj := 0x36, min := 3, fmt := .a, tys := tysHD, useL := .yes, useR := .yes, uOk := true, fsOk := true, lat64 := 4, wD := .fix 32 }
  | .fcmpGt => { maj := 0x36, min := 4, fmt := .a, tys := tysHD, useL := .yes, useR := .yes, uOk := true, fsOk := true, lat64 := 4, wD := .fix 32 }
  | .fcmpGe => { maj := 0x36, min := 5, fmt := .a, tys := tysHD, useL := .yes, useR := .yes, uOk := true, fsOk := true, lat64 := 4, wD := .fix 32 }
  | .fcmpUn => { maj := 0x36, min := 6, fmt := .a, tys := tysHD, useL := .yes, useR := .yes, uOk := true, fsOk := true, lat64 := 4, wD := .fix 32 }
  | .fclass => { maj := 0x37, min := 0, fmt := .a, tys := tysHD, useL := .yes, uOk := true, fsOk := true, wD := .fix 32 }
  | .fscale => { maj := 0x38, min := 0, fmt := .a, tys := tysHD, useL := .yes, useR := .yes, fsOk := true, rm := .mode, lat64 := 4, wR := .fix 32 }
  | .frnd => { maj := 0x39, min := 0, fmt := .a, tys := tysHD, useL := .yes, fsOk := true, rm := .rna, lat64 := 4 }
  | .frcp => { maj := 0x3A, min := 0, fmt := .a, tys := [.f32], useL := .yes, fsOk := true, lat := 4, lat64 := 4 }
  | .frsq => { maj := 0x3A, min := 1, fmt := .a, tys := [.f32], useL := .yes, fsOk := true, lat := 4, lat64 := 4 }
  | .fsqrt => { maj := 0x3A, min := 2, fmt := .a, tys := [.f32], useL := .yes, fsOk := true, rm := .mode, lat := 4, lat64 := 4 }
  | .fexp2 => { maj := 0x3B, min := 0, fmt := .a, tys := [.f32], useL := .yes, fsOk := true, lat := 4, lat64 := 4 }
  | .flog2 => { maj := 0x3B, min := 1, fmt := .a, tys := [.f32], useL := .yes, fsOk := true, lat := 4, lat64 := 4 }
  | .fsincos => { maj := 0x3C, min := 0, fmt := .a, tys := [.f32], useL := .yes, fsOk := true, lat := 4, lat64 := 4, wD := .fix 64 }
  | .ftanh => { maj := 0x3D, min := 0, fmt := .a, tys := [.f32], useL := .yes, fsOk := true, lat := 4, lat64 := 4 }
  | .hfma2 => { maj := 0x3E, min := 0, fmt := .a, tys := [.f16x2], useL := .yes, useR := .yes, pData := true, noPm := true, fsOk := true, rm := .mode, lat := 2, lat64 := 2 }
  | .bfma2 => { maj := 0x3F, min := 0, fmt := .a, tys := [.bf16x2], useL := .yes, useR := .yes, pData := true, noPm := true, fsOk := true, rm := .mode, lat := 2, lat64 := 2 }
  | .dadd => { maj := 0x40, min := 0, fmt := .a, tys := [.f64], useL := .yes, useR := .yes, fsOk := true, rm := .mode, lat := 4, lat64 := 4 }
  | .dmul => { maj := 0x41, min := 0, fmt := .a, tys := [.f64], useL := .yes, useR := .yes, fsOk := true, rm := .mode, lat := 4, lat64 := 4 }
  | .dfma => { maj := 0x42, min := 0, fmt := .a, tys := [.f64], useL := .yes, useR := .yes, pData := true, noPm := true, fsOk := true, rm := .mode, lat := 8, lat64 := 8 }
  | .fcvt => { maj := 0x43, min := 0, fmt := .a, tys := tysHD, useL := .yes, uOk := true, fsOk := true, rm := .rna, aux := .srcF, lat64 := 4, wL := .src }
  | .ftoi => { maj := 0x44, min := 0, fmt := .a, tys := [.s8, .n8, .s32, .n32, .s64, .n64], useL := .yes, uOk := true, fsOk := true, rm := .rna, aux := .srcF, lat64 := 4, wL := .src }
  | .itof => { maj := 0x45, min := 0, fmt := .a, tys := tysHD, useL := .yes, uOk := true, fsOk := true, rm := .rna, aux := .srcI, lat64 := 4, wL := .src }
  | .pack => { maj := 0x46, min := 0, fmt := .a, tys := [.f16x2, .bf16x2], useL := .yes, useR := .yes, fsOk := true, rm := .rna, wL := .fix 32, wR := .fix 32 }
  | .unpk => { maj := 0x47, min := 0, fmt := .a, tys := [.f16x2, .bf16x2], useL := .yes, fsOk := true, rm := .rna, wL := .fix 32, wD := .fix 64 }
  | .lgmul => { maj := 0x48, min := 0, fmt := .a, tys := [.lg6, .lg8], useL := .yes, useR := .yes, wL := .fix 8, wR := .fix 8, wD := .fix 32 }
  | .lgcvt => { maj := 0x49, min := 0, fmt := .a, tys := [.lg6, .lg8], useL := .yes, fsOk := true, lat := 2, lat64 := 2, wL := .fix 32, wD := .fix 32 }
  | .lgexp => { maj := 0x4A, min := 0, fmt := .a, tys := [.lg6, .lg8, .b32, .s64], useL := .yes, fsOk := true, rm := .mode, aux := .lgexp, lat := 2, lat64 := 2, wD := .fix 32 }
  | .lgdot => { maj := 0x4B, min := 0, fmt := .a, tys := [.lg6, .lg8, .b32], useL := .yes, useR := .yes, pData := true, noPm := true, lat := 2, lat64 := 2, wL := .fix 32, wR := .fix 32, wP := .fix 64, wD := .fix 64 }
  | .fflagsRd => { maj := 0x4C, min := 0, fmt := .n, tys := [.n32] }
  | .fflagsClr => { maj := 0x4C, min := 1, fmt := .n, tys := [.n32], useL := .yes, res := false, tgt := false, wL := .fix 32 }
  | .ld => { maj := 0x50, min := 0, fmt := .m, tys := tysMem, useL := .yes, lat := 12, lat64 := 12, wL := .fix 64 }
  | .st => { maj := 0x51, min := 0, fmt := .m, tys := tysMem, useL := .yes, useR := .yes, lsid := true, res := false, tgt := false, wL := .fix 64 }
  | .lds => { maj := 0x52, min := 0, fmt := .m, tys := tysMem, useL := .yes, lat := 4, lat64 := 4, wL := .fix 32 }
  | .sts => { maj := 0x53, min := 0, fmt := .m, tys := tysMem, useL := .yes, useR := .yes, lsid := true, res := false, tgt := false, wL := .fix 32 }
  | .ldc => { maj := 0x54, min := 0, fmt := .m, tys := tysMem, useL := .yes, lat := 12, lat64 := 12, wL := .fix 32 }
  | .atomAdd => { maj := 0x55, min := 0, fmt := .m, tys := [.s32, .n32, .s64, .n64, .f32], useL := .yes, useR := .yes, lsid := true, tgt := false, wL := .fix 64 }
  | .atomMin => { maj := 0x55, min := 1, fmt := .m, tys := tysA, useL := .yes, useR := .yes, lsid := true, tgt := false, wL := .fix 64 }
  | .atomMax => { maj := 0x55, min := 2, fmt := .m, tys := tysA, useL := .yes, useR := .yes, lsid := true, tgt := false, wL := .fix 64 }
  | .atomAnd => { maj := 0x55, min := 3, fmt := .m, tys := [.n32, .n64, .b32], useL := .yes, useR := .yes, lsid := true, tgt := false, wL := .fix 64 }
  | .atomOr => { maj := 0x55, min := 4, fmt := .m, tys := [.n32, .n64, .b32], useL := .yes, useR := .yes, lsid := true, tgt := false, wL := .fix 64 }
  | .atomXor => { maj := 0x55, min := 5, fmt := .m, tys := [.n32, .n64, .b32], useL := .yes, useR := .yes, lsid := true, tgt := false, wL := .fix 64 }
  | .atomExch => { maj := 0x55, min := 6, fmt := .m, tys := [.n32, .n64, .b32, .b128], useL := .yes, useR := .yes, lsid := true, tgt := false, wL := .fix 64 }
  | .atomcas => { maj := 0x56, min := 0, fmt := .m, tys := [.n32, .n64, .b128], useL := .yes, useR := .yes, pData := true, noPm := true, lsid := true, tgt := false, wL := .fix 64 }
  | .atomvOr => { maj := 0x57, min := 0, fmt := .m, tys := [.b128, .n64], useL := .yes, useR := .yes, lsid := true, tgt := false, wL := .fix 64, wD := .fix 32 }
  | .atomvAnd => { maj := 0x57, min := 1, fmt := .m, tys := [.b128, .n64], useL := .yes, useR := .yes, lsid := true, tgt := false, wL := .fix 64, wD := .fix 32 }
  | .atomvAdd => { maj := 0x57, min := 2, fmt := .m, tys := [.b128], useL := .yes, useR := .yes, lsid := true, tgt := false, wL := .fix 64, wD := .fix 32 }
  | .atomvMax => { maj := 0x57, min := 3, fmt := .m, tys := [.b128], useL := .yes, useR := .yes, lsid := true, tgt := false, wL := .fix 64, wD := .fix 32 }
  | .satomAdd => { maj := 0x58, min := 0, fmt := .m, tys := [.s32, .n32, .s64, .n64, .f32], useL := .yes, useR := .yes, lsid := true, tgt := false, wL := .fix 32 }
  | .satomMin => { maj := 0x58, min := 1, fmt := .m, tys := tysA, useL := .yes, useR := .yes, lsid := true, tgt := false, wL := .fix 32 }
  | .satomMax => { maj := 0x58, min := 2, fmt := .m, tys := tysA, useL := .yes, useR := .yes, lsid := true, tgt := false, wL := .fix 32 }
  | .satomAnd => { maj := 0x58, min := 3, fmt := .m, tys := [.n32, .n64, .b32], useL := .yes, useR := .yes, lsid := true, tgt := false, wL := .fix 32 }
  | .satomOr => { maj := 0x58, min := 4, fmt := .m, tys := [.n32, .n64, .b32], useL := .yes, useR := .yes, lsid := true, tgt := false, wL := .fix 32 }
  | .satomXor => { maj := 0x58, min := 5, fmt := .m, tys := [.n32, .n64, .b32], useL := .yes, useR := .yes, lsid := true, tgt := false, wL := .fix 32 }
  | .satomExch => { maj := 0x58, min := 6, fmt := .m, tys := [.n32, .n64, .b32], useL := .yes, useR := .yes, lsid := true, tgt := false, wL := .fix 32 }
  | .fenceAcq => { maj := 0x59, min := 0, fmt := .s, tys := [.s32], res := false, tgt := false }
  | .fenceRel => { maj := 0x59, min := 1, fmt := .s, tys := [.s32], res := false, tgt := false }
  | .fenceAr => { maj := 0x59, min := 2, fmt := .s, tys := [.s32], res := false, tgt := false }
  | .pfetch => { maj := 0x5A, min := 0, fmt := .m, tys := [.s32], useL := .yes, res := false, tgt := false, wL := .pfetch }
  | .cinv => { maj := 0x5B, min := 0, fmt := .m, tys := [.s32], useL := .yes, useR := .yes, res := false, tgt := false, wL := .fix 64, wR := .fix 32 }
  | .claim => { maj := 0x5C, min := 0, fmt := .m, tys := [.n32], useL := .yes, useR := .yes, lsid := true, tgt := false, wL := .fix 64, wR := .fix 32 }
  | .claimRel => { maj := 0x5C, min := 1, fmt := .m, tys := [.n32], useL := .yes, useR := .yes, lsid := true, tgt := false, wL := .fix 64, wR := .fix 32 }
  | .cpytLd => { maj := 0x60, min := 0, fmt := .e, tys := [.s32], useL := .yes, useR := .yes, res := false, tgt := false, eng := .copy, wL := .fix 128, wR := .fix 32 }
  | .cpytSt => { maj := 0x60, min := 1, fmt := .e, tys := [.s32], useL := .yes, useR := .yes, res := false, tgt := false, eng := .copy, wL := .fix 128, wR := .fix 32 }
  | .cpybLd => { maj := 0x61, min := 0, fmt := .e, tys := [.s32], useL := .yes, useR := .yes, res := false, tgt := false, eng := .copy, wL := .fix 64, wR := .fix 32 }
  | .cpybSt => { maj := 0x61, min := 1, fmt := .e, tys := [.s32], useL := .yes, useR := .yes, res := false, tgt := false, eng := .copy, wL := .fix 64, wR := .fix 32 }
  | .cpyg => { maj := 0x62, min := 0, fmt := .e, tys := [.s32], useL := .yes, useR := .yes, res := false, tgt := false, eng := .copy, wL := .fix 32, wR := .fix 32 }
  | .cpys => { maj := 0x62, min := 1, fmt := .e, tys := [.s32], useL := .yes, useR := .yes, res := false, tgt := false, eng := .copy, wL := .fix 32, wR := .fix 32 }
  | .cpyaccIn => { maj := 0x63, min := 0, fmt := .e, tys := [.s32], useL := .yes, res := false, tgt := false, eng := .copy, wL := .fix 32, wR := .fix 32 }
  | .cpyaccOut => { maj := 0x63, min := 1, fmt := .e, tys := [.s32], useL := .yes, res := false, tgt := false, eng := .copy, wL := .fix 32, wR := .fix 32 }
  | .publ => { maj := 0x64, min := 0, fmt := .e, tys := [.s32], res := false, tgt := false, eng := .copy }
  | .cpyrGet => { maj := 0x65, min := 0, fmt := .e, tys := [.s32], useL := .yes, useR := .yes, res := false, tgt := false, eng := .copy, wL := .fix 64, wR := .fix 64 }
  | .cpyrPut => { maj := 0x65, min := 1, fmt := .e, tys := [.s32], useL := .yes, useR := .yes, res := false, tgt := false, eng := .copy, wL := .fix 64, wR := .fix 64 }
  | .cred => { maj := 0x66, min := 0, fmt := .e, tys := [.s32], useL := .yes, res := false, tgt := false, eng := .copy, wL := .fix 64, wR := .fix 64 }
  | .tokq => { maj := 0x67, min := 0, fmt := .e, tys := [.b128], eng := .copy }
  | .cpycan => { maj := 0x67, min := 1, fmt := .e, tys := [.s32], res := false, tgt := false, eng := .copy }
  | .chb => { maj := 0x68, min := 0, fmt := .e, tys := [.s32], noPm := true, full := true, res := false, tgt := false, eng := .matrix }
  | .che => { maj := 0x69, min := 0, fmt := .e, tys := [.s32], noPm := true, full := true, res := false, tgt := false, eng := .matrix }
  | .mma => { maj := 0x6A, min := 0, fmt := .e, tys := [.s32], useL := .opt, noPm := true, full := true, res := false, tgt := false, eng := .matrix, wL := .fix 32 }
  | .wbld => { maj := 0x6B, min := 0, fmt := .e, tys := [.s32], useL := .opt, noPm := true, full := true, res := false, tgt := false, eng := .matrix, wL := .fix 32 }
  | .wbldT => { maj := 0x6B, min := 1, fmt := .e, tys := [.s32], useL := .opt, noPm := true, full := true, res := false, tgt := false, eng := .matrix, wL := .fix 32 }
  | .accz => { maj := 0x6C, min := 0, fmt := .e, tys := [.s32], noPm := true, full := true, res := false, tgt := false, eng := .matrix }
  | .accrd => { maj := 0x6D, min := 0, fmt := .e, tys := [.b32], useL := .opt, eng := .matrix, lat := 4, lat64 := 4, wL := .fix 32 }
  | .accwr => { maj := 0x6E, min := 0, fmt := .e, tys := [.b32], useL := .opt, useR := .yes, res := false, tgt := false, eng := .matrix, lat := 4, lat64 := 4, wL := .fix 32 }
  | .drain => { maj := 0x6F, min := 0, fmt := .e, tys := [.s32], useL := .opt, useR := .opt, noPm := true, full := true, res := false, tgt := false, eng := .matrix, wL := .org, wR := .fix 32 }
  | .accwrd => { maj := 0x70, min := 0, fmt := .e, tys := [.b128], useL := .opt, eng := .matrix, lat := 4, lat64 := 4, wL := .fix 32 }
  | .accwwr => { maj := 0x71, min := 0, fmt := .e, tys := [.b128], useL := .opt, useR := .yes, res := false, tgt := false, eng := .matrix, lat := 4, lat64 := 4, wL := .fix 32 }
  | .gcfg => { maj := 0x78, min := 0, fmt := .e, tys := [.s32], res := false, tgt := false, eng := .grid }
  | .grun => { maj := 0x79, min := 0, fmt := .e, tys := [.s32], res := false, tgt := false, eng := .grid }
  | .gstop => { maj := 0x7A, min := 0, fmt := .e, tys := [.s32], res := false, tgt := false, eng := .grid }
  | .gwait => { maj := 0x7B, min := 0, fmt := .e, tys := [.s32], res := false, tgt := false, eng := .grid }
  | .gqry => { maj := 0x7C, min := 0, fmt := .e, tys := [.n64], eng := .grid }
  | .gframe => { maj := 0x7D, min := 0, fmt := .e, tys := [.s32], res := false, tgt := false, eng := .grid }
  | .lctx => { maj := 0x7E, min := 0, fmt := .e, tys := [.s32], useL := .opt, res := false, tgt := false, eng := .grid, wL := .fix 32 }
  | .strmo => { maj := 0x7F, min := 0, fmt := .e, tys := [.s32], res := false, tgt := false, eng := .grid }
  | .strma => { maj := 0x80, min := 0, fmt := .e, tys := [.s32], res := false, tgt := false, eng := .grid }
  | .strmb => { maj := 0x81, min := 0, fmt := .e, tys := [.s32], useL := .yes, res := false, tgt := false, eng := .grid, wL := .fix 64 }
  | .strmc => { maj := 0x82, min := 0, fmt := .e, tys := [.s32], res := false, tgt := false, eng := .grid }
  | .strmq => { maj := 0x83, min := 0, fmt := .e, tys := [.n64], eng := .grid }
  | .bar => { maj := 0x88, min := 0, fmt := .s, tys := [.s32], res := false, tgt := false }
  | .bara => { maj := 0x89, min := 0, fmt := .s, tys := [.s32], res := false, tgt := false }
  | .barw => { maj := 0x8A, min := 0, fmt := .s, tys := [.s32], res := false, tgt := false }
  | .barx => { maj := 0x8B, min := 0, fmt := .s, tys := [.s32], useL := .opt, res := false, tgt := false, wL := .fix 64 }
  | .stgfill => { maj := 0x8C, min := 0, fmt := .s, tys := [.s32], res := false, tgt := false }
  | .stgwait => { maj := 0x8C, min := 1, fmt := .s, tys := [.s32], res := false, tgt := false }
  | .stgfree => { maj := 0x8C, min := 2, fmt := .s, tys := [.s32], res := false, tgt := false }
  | .sleept => { maj := 0x8D, min := 0, fmt := .s, tys := [.s32], useL := .opt, res := false, tgt := false, wL := .fix 64 }
  | .tokw => { maj := 0x8D, min := 1, fmt := .s, tys := [.s32], res := false, tgt := false }
  | .tokwF => { maj := 0x8D, min := 2, fmt := .s, tys := [.s32], res := false, tgt := false }
  | .waitx => { maj := 0x8E, min := 0, fmt := .s, tys := [.n64], useL := .yes, useR := .yes, wL := .fix 64, wR := .fix 64 }
  | .realign => { maj := 0x8F, min := 0, fmt := .s, tys := [.n64], useL := .yes, wL := .fix 64 }
  | .trap => { maj := 0x90, min := 0, fmt := .s, tys := [.s32], res := false, tgt := false }
  | .tret => { maj := 0x91, min := 0, fmt := .n, tys := [.s32], res := false, tgt := false }
  | .srd => { maj := 0x92, min := 0, fmt := .s, tys := [.n32, .n64, .b128] }
  | .swr => { maj := 0x93, min := 0, fmt := .s, tys := [.n64], useL := .yes, res := false, tgt := false, wL := .fix 64 }
  | .yield => { maj := 0x94, min := 0, fmt := .n, tys := [.s32], res := false, tgt := false }
  | .nopb => { maj := 0x94, min := 1, fmt := .n, tys := [.s32], res := false, tgt := false }
  | .bkpt => { maj := 0x95, min := 0, fmt := .s, tys := [.s32], res := false, tgt := false }
  | .perfrd => { maj := 0x96, min := 0, fmt := .s, tys := [.n64] }
  | .spawn => { maj := 0x97, min := 0, fmt := .e, tys := [.n64], useL := .yes, lsid := true, tgt := false, wL := .fix 64 }

def ops0 : List Op :=
  [.nul, .succ, .brc, .jmps, .call, .calli, .ret, .exit, .voteAny, .voteAll, .voteBallot, .voteCount, .maskrd, .mov, .add, .sub, .mul, .mulhi, .mad, .add64]

def ops1 : List Op :=
  [.sub64, .mad64, .idiv, .irem, .min_, .max_, .abs_, .neg_, .and_, .or_, .xor_, .andn, .not_, .shl, .shr, .sar, .rol, .popc, .clz, .ctz]

def ops2 : List Op :=
  [.brev, .bfx, .bfi, .prmt, .cmpEq, .cmpNe, .cmpLt, .cmpLe, .cmpGt, .cmpGe, .sel, .movi, .addhi, .lea, .sext, .zext, .dp4, .shflIdx, .shflRot, .shflXor]

def ops3 : List Op :=
  [.shflRev, .reduxAdd, .reduxMin, .reduxMax, .reduxAnd, .reduxOr, .reduxXor, .fadd, .fsub, .fmul, .ffma, .fmin, .fmax, .fsgnCp, .fsgnNeg, .fsgnXor, .fcmpEq, .fcmpNe, .fcmpLt, .fcmpLe]

def ops4 : List Op :=
  [.fcmpGt, .fcmpGe, .fcmpUn, .fclass, .fscale, .frnd, .frcp, .frsq, .fsqrt, .fexp2, .flog2, .fsincos, .ftanh, .hfma2, .bfma2, .dadd, .dmul, .dfma, .fcvt, .ftoi]

def ops5 : List Op :=
  [.itof, .pack, .unpk, .lgmul, .lgcvt, .lgexp, .lgdot, .fflagsRd, .fflagsClr, .ld, .st, .lds, .sts, .ldc, .atomAdd, .atomMin, .atomMax, .atomAnd, .atomOr, .atomXor]

def ops6 : List Op :=
  [.atomExch, .atomcas, .atomvOr, .atomvAnd, .atomvAdd, .atomvMax, .satomAdd, .satomMin, .satomMax, .satomAnd, .satomOr, .satomXor, .satomExch, .fenceAcq, .fenceRel, .fenceAr, .pfetch, .cinv, .claim, .claimRel]

def ops7 : List Op :=
  [.cpytLd, .cpytSt, .cpybLd, .cpybSt, .cpyg, .cpys, .cpyaccIn, .cpyaccOut, .publ, .cpyrGet, .cpyrPut, .cred, .tokq, .cpycan, .chb, .che, .mma, .wbld, .wbldT, .accz]

def ops8 : List Op :=
  [.accrd, .accwr, .drain, .accwrd, .accwwr, .gcfg, .grun, .gstop, .gwait, .gqry, .gframe, .lctx, .strmo, .strma, .strmb, .strmc, .strmq, .bar, .bara, .barw]

def ops9 : List Op :=
  [.barx, .stgfill, .stgwait, .stgfree, .sleept, .tokw, .tokwF, .waitx, .realign, .trap, .tret, .srd, .swr, .yield, .nopb, .bkpt, .perfrd, .spawn]

/-- Every mnemonic, in table order. -/
def allOps : List Op :=
  ops0 ++ ops1 ++ ops2 ++ ops3 ++ ops4 ++ ops5 ++ ops6 ++ ops7 ++ ops8 ++ ops9

/-! ## Types -/

/-- The code of a type (R29). -/
def tyCode : Ty → Nat
  | .s32 => 0 | .n32 => 1 | .s64 => 2 | .n64 => 3 | .f32 => 4 | .f16 => 5 | .bf16 => 6 | .f64 => 7
  | .lg6 => 8 | .lg8 => 9 | .s8 => 10 | .n8 => 11 | .f16x2 => 12 | .bf16x2 => 13 | .b32 => 14 | .b128 => 15

/-- The type of a code (R29); only the low four bits count. -/
def tyOfCode (n : Nat) : Ty :=
  match n % 16 with
  | 0 => .s32 | 1 => .n32 | 2 => .s64 | 3 => .n64 | 4 => .f32 | 5 => .f16 | 6 => .bf16 | 7 => .f64
  | 8 => .lg6 | 9 => .lg8 | 10 => .s8 | 11 => .n8 | 12 => .f16x2 | 13 => .bf16x2 | 14 => .b32 | _ => .b128

/-- The width of a type in bits (R113 to R115, R29). -/
def tyWidth : Ty → Nat
  | .s8 | .n8 | .lg6 | .lg8 => 8
  | .f16 | .bf16 => 16
  | .s32 | .n32 | .f32 | .f16x2 | .bf16x2 | .b32 => 32
  | .s64 | .n64 | .f64 => 64
  | .b128 => 128

/-- The s types, which ext() sign-extends (R101). -/
def tySigned : Ty → Bool
  | .s8 | .s32 | .s64 => true
  | _ => false

/-- Bytes of a WIDTH code (R50). -/
def widthBytes : Width → Nat
  | .w1 => 1 | .w2 => 2 | .w4 => 4 | .w8 => 8 | .w16 => 16 | .w32 => 32 | .w64 => 64

/-- Rank of a scope code (R51). -/
def scopeCode : Scope → Nat
  | .thread => 0 | .warp => 1 | .team => 2 | .core => 3 | .die => 4 | .package => 5 | .host => 6
  | .peer => 7 | .system => 8

/-- The width in bits of the special registers (R315); 0 for an unassigned number. -/
def sregWidth (n : Nat) : Nat :=
  match n with
  | 0 | 1 | 2 | 3 | 4 | 5 | 6 | 9 | 11 | 16 => 32
  | 7 | 10 | 17 | 18 | 19 => 64
  | 8 => 128
  | _ => 0

/-- A special-register number of the map of R315. -/
def sregAssigned (n : Nat) : Bool := sregWidth n != 0

/-! ## Slots -/

/-- Format A's immediate supplies the R slot (R47). -/
def payloadImm : Payload → Bool
  | .a p => p.imm
  | _ => false

/-- The AUX field, zero outside format A. -/
def payloadAux : Payload → Nat
  | .a p => p.aux.toNat
  | _ => 0

/-- U = 1 (R47, R49). -/
def payloadU : Payload → Bool
  | .a p => p.u
  | .h p => p.u
  | _ => false

/-- The FS field of formats A and E. -/
def payloadFs : Payload → Nat
  | .a p => p.fs.toNat
  | .e p => p.fs.toNat
  | _ => 0

/-- MODE bits of format E; bit 0 is payload bit 40 (R53). -/
def modeBit (p : FmtE) (n : Nat) : Bool := p.mode.getLsbD n

/-- The LOF bit, where an entry has one: MODE[41] of the matrix forms and LCTX (R217, R257), SUB[0] of
BARX (R276). SLEEPT takes L unless REL (R276). -/
def optL (o : Op) : Payload → Bool
  | .e p => modeBit p 1 || (o == .drain && modeBit p 2)
  | .s p => if o == .sleept then !p.sub.getLsbD 0 else p.sub.getLsbD 0
  | _ => false

/-- DRAIN's R slot, used only when ORG and LOF are both set (R224). -/
def optR (_ : Op) : Payload → Bool
  | .e p => modeBit p 1 && modeBit p 2
  | _ => false

/-- Whether an instruction uses a slot (R30, R31): a slot that an immediate supplies receives no token,
and P is used as data or as the predicate. -/
def usesSlot (o : Op) (c : Ctl) (pl : Payload) : Slot → Bool
  | .l => match (opInfo o).useL with
          | .no => false
          | .yes => true
          | .opt => optL o pl
  | .r => !payloadImm pl &&
          (match (opInfo o).useR with
           | .no => false
           | .yes => !(o == .lgdot && c.ty == .b32)
           | .opt => optR o pl)
  | .p => (opInfo o).pData || c.pm != .none

/-- The source type of a conversion, AUX[3:0] (R136). -/
def srcTy (pl : Payload) : Ty := tyOfCode (payloadAux pl)

/-- The bits a slot of an instruction holds (R95 and the entries of chapters 3 to 12); 0 for a slot that
takes whatever token arrives and tests every bit of it (R41). -/
def slotWidth (o : Op) (ty : Ty) (pl : Payload) (s : Slot) : Nat :=
  match (match s with
         | .l => (opInfo o).wL
         | .r => (opInfo o).wR
         | .p => (opInfo o).wP) with
  | .ty => tyWidth ty
  | .fix n => n
  | .src => tyWidth (srcTy pl)
  | .pfetch => match pl with
               | .m p => if p.width == .w1 then 64 else 32
               | _ => 64
  | .org => match pl with
            | .e p => if modeBit p 2 then 64 else 32
            | _ => 32

/-- The width a consumer slot asks of a header read (R41): predicates and the untyped slots take any
token. -/
def readWidth (o : Op) (ty : Ty) (pl : Payload) (s : Slot) : Nat :=
  match s with
  | .p => if (opInfo o).pData then slotWidth o ty pl .p else 0
  | _ => slotWidth o ty pl s

/-- The width of an instruction's result token (R95 and the entries). Narrow results stand in a 32-bit
token (R114). -/
def resWidth (o : Op) (ty : Ty) : Nat :=
  match (opInfo o).wD with
  | .fix n => n
  | _ => if tyWidth ty < 32 then 32 else tyWidth ty

/-- The types whose results are sign-extended on their way into a k register (R98). -/
def resSigned (ty : Ty) : Bool := ty == .s8 || ty == .s32

/-- The bits of a result that a k write takes and extends (R98): those of its type, 128 of a pair. -/
def kWidth (o : Op) (ty : Ty) : Nat :=
  match (opInfo o).wD with
  | .fix n => n
  | _ => tyWidth ty

/-- The number of 32-bit registers a value of `w` bits takes in v space (R90). -/
def vRegs (w : Nat) : Nat := if w ≤ 32 then 1 else if w ≤ 64 then 2 else 4

/-! ## The decode check of one word (R57, step 2) -/

/-- The WIDTH that TY fixes (R167). -/
def tyMemWidth (ty : Ty) : Width :=
  match tyWidth ty with
  | 8 => .w1
  | 16 => .w2
  | 32 => .w4
  | 64 => .w8
  | _ => .w16

/-- The vector atomics (R171). -/
def isAtomv : Op → Bool
  | .atomvOr | .atomvAnd | .atomvAdd | .atomvMax => true
  | _ => false

/-- The scratchpad atomics (R172). -/
def isSatom : Op → Bool
  | .satomAdd | .satomMin | .satomMax | .satomAnd | .satomOr | .satomXor | .satomExch => true
  | _ => false

/-- The global atomics of R170. -/
def isAtom : Op → Bool
  | .atomAdd | .atomMin | .atomMax | .atomAnd | .atomOr | .atomXor | .atomExch | .atomcas => true
  | _ => false

/-- The forms whose WIDTH is that of TY (R167). -/
def tyFixesWidth (o : Op) : Bool :=
  isAtom o || isSatom o ||
  (match o with
   | .ld | .st | .lds | .sts | .ldc => true
   | _ => false)

/-- A listed major and minor can still be an ILLEGAL_MINOR (R56, R165, R167, R171, R316). Of SRD the register number
decides, IMM40[8:0]. A WIDTH of 32 or 64 bytes outside ATOMV is one, PFETCH's mode too (R50, R57); its other values are
RESERVED_BITS (R174). -/
def minorOk (o : Op) (ty : Ty) (pl : Payload) : Bool :=
  (opInfo o).tys.contains ty &&
  (match pl with
   | .m p =>
     if isAtomv o then
       match p.width with
       | .w1 | .w2 | .w4 => false
       | .w8 | .w16 => true
       | .w32 | .w64 => ty != .b128
     else if tyFixesWidth o then p.width == tyMemWidth ty
     else p.width != .w32 && p.width != .w64
   | .s p =>
     if o == .srd then
       let w := sregWidth (p.imm40.toNat % 512)
       w == 0 || w == tyWidth ty
     else true
   | _ => true)

/-- The checks on AUX that R99 and R128 hand to the entries. -/
def auxOk (r : AuxRule) (ty : Ty) (aux : Nat) : Bool :=
  let w := tyWidth ty
  match r with
  | .zero => aux == 0
  | .any => true
  | .field => 1 ≤ aux % 256 && aux % 256 ≤ w && aux / 256 + aux % 256 ≤ w
  | .scale => aux ≤ 4
  | .width => 1 ≤ aux && aux ≤ w && aux < 128
  | .shfl => aux < 8
  | .shflRot => aux < 16
  | .redux => aux < 16
  | .srcF => aux == 4 || aux == 5 || aux == 6 || aux == 7
  | .srcI => aux == 10 || aux == 11 || aux == 0 || aux == 1 || aux == 2 || aux == 3
  | .lgexp => if ty == .lg6 || ty == .lg8 then aux == 0 else aux < 8

/-- The bits of IMM32 that an immediate may use: those of its type for the instructions of chapter 4 (R48, R99), those of
the R slot for those of chapter 5 (R128, R129). -/
def immBits (o : Op) (ty : Ty) (p : FmtA) : Nat :=
  if (opInfo o).maj < 0x30 then tyWidth ty else slotWidth o ty (.a p) .r

/-- The format A checks of R99 and R128, with R48 for the immediate. -/
def fmtAOk (o : Op) (ty : Ty) (p : FmtA) : Bool :=
  let i := opInfo o
  let rw := immBits o ty p
  (match p.rm with
   | .rne => true
   | .rna => i.rm == .rna
   | _ => i.rm == .mode || i.rm == .rna) &&
  (i.fsOk || p.fs == 0) &&
  (i.uOk || !p.u) &&
  (if p.imm then i.useR == .yes && o != .lgdot && rw != 128 && (rw ≥ 32 || p.imm32.toNat < 2 ^ rw)
   else p.imm32 == 0) &&
  auxOk i.aux ty p.aux.toNat

/-- The format M checks of R165 and the entries of chapter 6. -/
def fmtMOk (o : Op) (p : FmtM) : Bool :=
  let sc := scopeCode p.scope
  (match o with
   | .lds | .sts => sc ≤ 3 && p.cache == .normal && p.ridx == 0
   | .ldc => sc == 0 && p.cache == .normal
   | .pfetch => sc == 0 && (p.width == .w1 || p.width == .w2) && (p.width == .w2 || p.ridx == 0)
   | .cinv | .claim | .claimRel => sc == 0 && p.cache == .normal && p.width == .w1 && p.ridx == 0
   | _ => if isSatom o then sc ≤ 3 && p.ridx == 0 else p.ridx == 0)

/-- `x[hi:lo]` is zero. -/
def zeroBits (x hi lo : Nat) : Bool := x % 2 ^ (hi + 1) / 2 ^ lo == 0

/-- The format E checks of R189, R217, R257 and R309. R195 names no code for a CPYR whose byte count is 0: the
model takes RESERVED_BITS, at decode (log 47, DESIGN CHOICE). -/
def fmtEOk (o : Op) (p : FmtE) : Bool :=
  let imm := p.imm32.toNat
  let aux := p.aux8.toNat
  let mode := p.mode.toNat
  let noFs := p.fs == 0
  let noR := p.ridx == 0
  let copyHead := noFs && zeroBits mode 1 0 && (modeBit p 2 || zeroBits aux 7 4) &&
    (!modeBit p 4 || modeBit p 3)
  let noSub := zeroBits aux 3 0
  let noSh := !modeBit p 3
  match o with
  | .cpytLd | .cpytSt => copyHead && noSub && imm == 0
  | .cpybLd | .cpybSt => copyHead && noSub && imm != 0
  | .cpyg | .cpys => copyHead && noSub && zeroBits imm 31 12
  | .cpyaccIn => copyHead && noSub && noSh && noR && zeroBits imm 15 9 && zeroBits imm 31 25
  | .cpyaccOut => copyHead && noSub && noR && zeroBits imm 15 9 && zeroBits imm 31 25
  | .publ | .cpycan => copyHead && noSub && noSh && imm == 0
  | .cpyrGet => copyHead && noSub && (imm / 2 ^ 27 ≤ 11 || imm / 2 ^ 27 == 16 || imm / 2 ^ 27 == 17)
      && imm % 2 ^ 27 != 0
  | .cpyrPut => copyHead && noSub && noSh &&
      (imm / 2 ^ 27 ≤ 11 || imm / 2 ^ 27 == 16 || imm / 2 ^ 27 == 17) && imm % 2 ^ 27 != 0
  | .cred => copyHead && zeroBits aux 3 1 && imm / 2 ^ 24 < 64
  | .tokq => noFs && noR && mode == 0 && zeroBits aux 7 3 && imm == 0
  | .chb => noR && zeroBits mode 4 1 && aux == 0 && zeroBits imm 31 15
  | .che => noR && noFs && mode == 0 && aux == 0 && zeroBits imm 31 9
  | .mma => zeroBits mode 0 0 && zeroBits aux 7 4 && zeroBits imm 31 9
  | .wbld | .wbldT => zeroBits mode 4 2 && zeroBits mode 0 0 && zeroBits aux 7 4 && zeroBits imm 31 18
  | .accz => noR && noFs && mode == 0 && aux == 0 && zeroBits imm 15 9 && zeroBits imm 31 25
  | .accrd | .accwr => noR && noFs && zeroBits mode 4 2 && zeroBits mode 0 0 && aux == 0 &&
      zeroBits imm 31 9
  | .accwrd | .accwwr => noR && noFs && zeroBits mode 4 2 && zeroBits mode 0 0 && aux == 0 &&
      zeroBits imm 15 9 && zeroBits imm 31 23
  | .drain => zeroBits mode 0 0 && zeroBits aux 7 1 && zeroBits imm 15 15 &&
      (modeBit p 4 || zeroBits imm 31 16)
  | .gcfg => mode == 0 && zeroBits aux 7 2 && imm == 0
  | .grun => noR && noFs && mode == 0 && aux == 0 && imm == 0
  | .gstop => noR && noFs && zeroBits mode 4 2 && aux == 0 && imm == 0
  | .gwait => noR && noFs && mode == 0 && zeroBits aux 7 2 && imm == 0
  | .gqry => noR && noFs && mode == 0 && zeroBits aux 7 4 && imm == 0
  | .gframe => noR && noFs && zeroBits mode 4 2 && aux == 0 && zeroBits imm 31 16 &&
      (!modeBit p 1 || imm == 0)
  | .lctx => noR && noFs && zeroBits mode 4 2 && zeroBits aux 7 4 && (!modeBit p 1 || imm == 0)
  | .strmo => noFs && zeroBits mode 4 3 && zeroBits aux 7 3 && zeroBits imm 31 16 &&
      !(modeBit p 0 && imm / 2 ^ 14 % 2 == 1)
  | .strma | .strmb => noR && noFs && mode == 0 && zeroBits aux 7 3 && imm != 0
  | .strmc | .strmq => noR && noFs && mode == 0 && zeroBits aux 7 3 && imm == 0
  | _ => noR && noFs && mode == 0 && aux == 0 && imm == 0

/-- The format S checks of R173, R276 and R316. -/
def fmtSOk (o : Op) (p : FmtS) : Bool :=
  let imm := p.imm40.toNat
  let sc := scopeCode p.scope
  let noSc := sc == 0
  let noId := p.id == 0
  let noSub := p.sub == 0
  match o with
  | .fenceAcq | .fenceRel | .fenceAr => noId && noSub && imm == 0
  | .bar | .bara => 2 ≤ sc && noSub && imm ≤ 17
  | .barw => 2 ≤ sc && noSub && imm == 0
  | .barx => 2 ≤ sc && zeroBits p.sub.toNat 3 1 && zeroBits imm 7 5 && imm % 32 ≤ 17 &&
      (!p.sub.getLsbD 0 || imm / 256 == 0)
  | .stgfill | .stgfree => 2 ≤ sc && p.id.toNat < 8 && p.sub.toNat < 8 && imm == 0
  | .stgwait => 2 ≤ sc && p.id.toNat < 8 && p.sub.toNat < 8 && imm < 4
  | .sleept => noSc && noId && zeroBits p.sub.toNat 3 1 && (p.sub.getLsbD 0 || imm == 0)
  | .tokw | .tokwF => noSc && noId && noSub && imm < 256
  | .waitx => 6 ≤ sc && noId && zeroBits p.sub.toNat 3 3 && imm == 0
  | .realign => noSc && noId && noSub && imm == 0
  | .trap => noSc && noId && noSub && imm < 2 ^ 32
  | .srd => noSc && noId && noSub && sregAssigned imm
  | .swr => noSc && noId && noSub && (imm == 17 || imm == 19)
  | .bkpt => noSc && noId && noSub && imm < 64
  | .perfrd => noSc && noId && noSub && imm < 8
  | _ => false

/-- The format I check of MOVI (R108). -/
def fmtIOk (ty : Ty) (p : FmtI) : Bool := tyWidth ty == 64 || p.imm64.toNat < 2 ^ 32

/-- The format C check (R52, R86). -/
def fmtCOk (o : Op) (p : FmtC) : Bool :=
  if o == .call then p.ridx == 0 else p.ofs24 == 0

/-- No field of the word that R57 step 2 calls reserved holds a value the entry excludes, given that the
field itself could be read (the enumerations of R28, R47, R50 and R51). -/
def reservedOk (o : Op) (c : Ctl) (pl : Payload) : Bool :=
  let i := opInfo o
  (!i.noPm || c.pm == .none) &&
  (i.lsid || c.lsid == 0) &&
  (match pl with
   | .n => true
   | .a p => fmtAOk o c.ty p
   | .i p => fmtIOk c.ty p
   | .h _ => true
   | .m p => fmtMOk o p
   | .c p => fmtCOk o p
   | .e p => fmtEOk o p
   | .s p => fmtSOk o p)

/-- The format of a payload. -/
def payloadFmt : Payload → Fmt
  | .n => .n | .a _ => .a | .i _ => .i | .h _ => .h | .m _ => .m | .c _ => .c | .e _ => .e | .s _ => .s

end Sys2Proof.Machine
end

