-- ==== Sys2Proof/WellFormed.lean ====
section
/-! DEFINITION. Well-formed instructions: those that the decode check of R57, step 2, lets through as far
as ENGINE_ROLE. A step of the machine's own has no encoding and no check. -/

namespace Sys2Proof

open Machine

/-- The payload has the format of the instruction's major opcode (R55). -/
def wfFmt (o : Op) (p : Payload) : Bool := payloadFmt p == (opInfo o).fmt

/-- TY is admitted (R56). -/
def wfTy (o : Op) (c : Ctl) : Bool := (opInfo o).tys.contains c.ty

/-- PM is 0b00 where the entry forbids a predicate (R31, R35, R85). -/
def wfPm (o : Op) (c : Ctl) : Bool := !(opInfo o).noPm || c.pm == .none

/-- LSID is zero outside the stores and atomics (R38). -/
def wfLsid (o : Op) (c : Ctl) : Bool := (opInfo o).lsid || c.lsid == 0

/-- The whole check of a word. -/
def wfWord (o : Op) (c : Ctl) (p : Payload) : Bool :=
  wfFmt o p && minorOk o c.ty p && reservedOk o c p

/-- An instruction is well formed. -/
def Instr.wf (i : Instr) : Bool :=
  match i.view with
  | some (o, c, p) => wfWord o c p
  | none => true

end Sys2Proof
end

