-- ==== Sys2Proof/Decode.lean ====
section
/-! DEFINITION. The decoder of instruction words and of block headers, total on any bits and rejecting by
name, and the encoder, both written from the layouts of R28 and R39 to R54. -/

namespace Sys2Proof

open Machine

/-- Why a word is rejected at step 2 of R57, in the order of the checks. -/
inductive DecodeErr where
  | illegalMajor | illegalMinor | reservedBits | truncated
  deriving DecidableEq, Repr

/-! ## Fields -/

/-- The slot of a target's low two bits (R28). -/
def slotOfCode : Nat → Slot
  | 0 => .l
  | 1 => .r
  | _ => .p

def slotCode : Slot → BitVec 2
  | .l => 0
  | .r => 1
  | .p => 2

/-- A 9-bit target field: nothing where [8] is clear (R28). -/
def targetOf (b : BitVec 9) : Option Target :=
  if b.getLsbD 8 then some ⟨b.extractLsb' 2 6, slotOfCode (b.extractLsb' 0 2).toNat⟩ else none

/-- R35: no slot 0b11, and an invalid target is all zero. -/
def targetOk (b : BitVec 9) : Bool :=
  b.extractLsb' 0 2 != 3 && (b.getLsbD 8 || b == 0)

def targetBits : Option Target → BitVec 9
  | none => 0
  | some t => 1#1 ++ t.cons ++ slotCode t.slot

def pmOf : Nat → PredMode
  | 1 => .ifTrue
  | 2 => .ifFalse
  | _ => .none

def pmCode : PredMode → BitVec 2
  | .none => 0
  | .ifTrue => 1
  | .ifFalse => 2

def rmOf : Nat → RMode
  | 1 => .rz
  | 2 => .rd
  | 3 => .ru
  | 4 => .rna
  | 5 => .slot
  | _ => .rne

def rmCode : RMode → BitVec 3
  | .rne => 0
  | .rz => 1
  | .rd => 2
  | .ru => 3
  | .rna => 4
  | .slot => 5

def scopeOf : Nat → Scope
  | 1 => .warp
  | 2 => .team
  | 3 => .core
  | 4 => .die
  | 5 => .package
  | 6 => .host
  | 7 => .peer
  | 8 => .system
  | _ => .thread

def scopeBits (s : Scope) : BitVec 4 := BitVec.ofNat 4 (scopeCode s)

def cacheOf : Nat → CacheHint
  | 1 => .streaming
  | 2 => .bypass
  | _ => .normal

def cacheCode : CacheHint → BitVec 2
  | .normal => 0
  | .streaming => 1
  | .bypass => 2

def widthOf : Nat → Width
  | 1 => .w2
  | 2 => .w4
  | 3 => .w8
  | 4 => .w16
  | 5 => .w32
  | 6 => .w64
  | _ => .w1

def widthCode : Width → BitVec 3
  | .w1 => 0
  | .w2 => 1
  | .w4 => 2
  | .w8 => 3
  | .w16 => 4
  | .w32 => 5
  | .w64 => 6

/-- The common fields of a word (R28). -/
def ctlOf (w : IWord) : Ctl :=
  { tgt0 := targetOf (w.extractLsb' 103 9)
    tgt1 := targetOf (w.extractLsb' 94 9)
    pm := pmOf (w.extractLsb' 92 2).toNat
    ty := tyOfCode (w.extractLsb' 88 4).toNat
    lsid := w.extractLsb' 83 5
    stall := w.extractLsb' 79 4
    sbset := w.extractLsb' 75 4
    wait := w.extractLsb' 67 8
    keep := w.extractLsb' 65 2
    yld := w.getLsbD 64 }

/-- The reserved codes among the common fields (R35). -/
def ctlOk (w : IWord) : Bool :=
  targetOk (w.extractLsb' 103 9) && targetOk (w.extractLsb' 94 9) && w.extractLsb' 92 2 != 3

/-- The payload fields, read in the format of the major opcode (R46 to R54); reserved codes read as the
first code, and `payloadOk` rejects them. -/
def payloadOf (f : Fmt) (b : BitVec 64) : Payload :=
  match f with
  | .n => .n
  | .a => .a { u := b.getLsbD 63, rm := rmOf (b.extractLsb' 60 3).toNat, fs := b.extractLsb' 57 3,
               imm := b.getLsbD 56, imm32 := b.extractLsb' 24 32, aux := b.extractLsb' 8 16 }
  | .i => .i { imm64 := b }
  | .h => .h { u := b.getLsbD 63, imm20 := b.extractLsb' 0 20 }
  | .m => .m { scope := scopeOf (b.extractLsb' 60 4).toNat, cache := cacheOf (b.extractLsb' 58 2).toNat,
               width := widthOf (b.extractLsb' 55 3).toNat, ridx := b.extractLsb' 32 16,
               ofs12 := b.extractLsb' 0 12 }
  | .c => .c { ridx := b.extractLsb' 48 16, ofs24 := b.extractLsb' 0 24 }
  | .e => .e { ridx := b.extractLsb' 48 16, fs := b.extractLsb' 45 3, mode := b.extractLsb' 40 5,
               aux8 := b.extractLsb' 32 8, imm32 := b.extractLsb' 0 32 }
  | .s => .s { scope := scopeOf (b.extractLsb' 60 4).toNat, id := b.extractLsb' 56 4,
               sub := b.extractLsb' 52 4, imm40 := b.extractLsb' 0 40 }

/-- The zero bits and the reserved codes of a payload (R46 to R54). -/
def payloadOk (f : Fmt) (b : BitVec 64) : Bool :=
  match f with
  | .n => b == 0
  | .a => b.extractLsb' 61 2 != 3 && b.extractLsb' 0 8 == 0
  | .i => true
  | .h => b.extractLsb' 20 43 == 0
  | .m => (b.extractLsb' 60 4).toNat ≤ 8 && b.extractLsb' 58 2 != 3 && b.extractLsb' 55 3 != 7 &&
          b.extractLsb' 48 7 == 0 && b.extractLsb' 12 20 == 0
  | .c => b.extractLsb' 24 24 == 0
  | .e => true
  | .s => (b.extractLsb' 60 4).toNat ≤ 8 && b.extractLsb' 40 12 == 0

/-- WIDTH = 0b111 traps RESERVED_BITS and is no width (R50, R165). -/
def badWidth (f : Fmt) (b : BitVec 64) : Bool := f == .m && b.extractLsb' 55 3 == 7

/-! ## The decoder -/

/-- The mnemonic of a major and a minor (R55). -/
def opOf (maj min : Nat) : Option Op := allOps.find? (fun o => (opInfo o).maj == maj && (opInfo o).min == min)

/-- A major that R55 assigns. -/
def majorKnown (maj : Nat) : Bool := allOps.any (fun o => (opInfo o).maj == maj)

/-- The checks of step 2 after the opcode is known, in order: ILLEGAL_MINOR, RESERVED_BITS (R57). -/
def decodeAs (o : Op) (w : IWord) : Except DecodeErr Instr :=
  let c := ctlOf w
  let b := w.extractLsb' 0 64
  let f := (opInfo o).fmt
  let p := payloadOf f b
  if !(opInfo o).tys.contains c.ty || (!badWidth f b && !minorOk o c.ty p) then .error .illegalMinor
  else if !ctlOk w || !payloadOk f b || !reservedOk o c p then .error .reservedBits
  else match Op.build o c p with
    | some i => .ok i
    | none => .error .reservedBits

/-- The instruction of a word, or the first check that fails (R56, R57). -/
def decode (w : IWord) : Except DecodeErr Instr :=
  let maj := (w.extractLsb' 120 8).toNat
  match opOf maj (w.extractLsb' 112 8).toNat with
  | some o => decodeAs o w
  | none => if majorKnown maj then .error .illegalMinor else .error .illegalMajor

/-- A word from 16 bytes, least significant first (R5). -/
def wordOfBytes : List Byte → Nat
  | [] => 0
  | b :: bs => b.toNat + 256 * wordOfBytes bs

/-- The decoder on bytes: the instruction and the rest. -/
def decodeBytes (bs : List Byte) : Except DecodeErr (Instr × List Byte) :=
  if bs.length < 16 then .error .truncated
  else match decode (BitVec.ofNat 128 (wordOfBytes (bs.take 16))) with
    | .ok i => .ok (i, bs.drop 16)
    | .error e => .error e

/-- The instruction that the decoder reads from a word numbered as the opcode table numbers it: an
instruction is one 128-bit word, bit 0 the least significant (R28). -/
def decodeTableWord (_nbits w : Nat) : Option Instr := (decode (BitVec.ofNat 128 w)).toOption

/-! ## The encoder -/

def ctlBits (c : Ctl) : BitVec 48 :=
  targetBits c.tgt0 ++ targetBits c.tgt1 ++ pmCode c.pm ++ BitVec.ofNat 4 (tyCode c.ty) ++ c.lsid ++
    c.stall ++ c.sbset ++ c.wait ++ c.keep ++ BitVec.ofBool c.yld

def payloadBits : Payload → BitVec 64
  | .n => 0
  | .a p => BitVec.ofBool p.u ++ rmCode p.rm ++ p.fs ++ BitVec.ofBool p.imm ++ p.imm32 ++ p.aux ++ 0#8
  | .i p => p.imm64
  | .h p => BitVec.ofBool p.u ++ 0#43 ++ p.imm20
  | .m p => scopeBits p.scope ++ cacheCode p.cache ++ widthCode p.width ++ 0#7 ++ p.ridx ++ 0#20 ++ p.ofs12
  | .c p => p.ridx ++ 0#24 ++ p.ofs24
  | .e p => p.ridx ++ p.fs ++ p.mode ++ p.aux8 ++ p.imm32
  | .s p => scopeBits p.scope ++ p.id ++ p.sub ++ 0#12 ++ p.imm40

/-- The word of a mnemonic, its common fields and its payload (R28). -/
def encodeWord (o : Op) (c : Ctl) (p : Payload) : IWord :=
  BitVec.ofNat 8 (opInfo o).maj ++ BitVec.ofNat 8 (opInfo o).min ++ ctlBits c ++ payloadBits p

/-- The word of an instruction; a step of the machine's own has none. -/
def encode (i : Instr) : Option IWord :=
  match i.view with
  | some (o, c, p) => some (encodeWord o c p)
  | none => none

/-! ## Block headers (R39 to R44) -/

/-- A signed 24-bit word offset. -/
def sofs24 (b : BitVec 24) : Int := b.toInt

/-- The bits of the entry string: header words 1 to HCNT (R40). -/
def entryString (ws : List IWord) : Nat :=
  match ws with
  | [] => 0
  | w :: rest => w.toNat + 2 ^ 128 * entryString rest

/-- Bits [lo + n − 1 : lo] of a number. -/
def field (x lo n : Nat) : Nat := x / 2 ^ lo % 2 ^ n

/-- Instruction count of header word 0. -/
def hdrIcnt (w : IWord) : Nat := (w.extractLsb' 114 6).toNat + 1
/-- Header word count of header word 0. -/
def hdrHcnt (w : IWord) : Nat := (w.extractLsb' 111 3).toNat + 1
/-- Read entries. -/
def hdrRcnt (w : IWord) : Nat := (w.extractLsb' 107 4).toNat
/-- Write entries. -/
def hdrWcnt (w : IWord) : Nat := (w.extractLsb' 103 4).toNat
/-- Successor count minus one. -/
def hdrScnt (w : IWord) : Nat := (w.extractLsb' 101 2).toNat

/-- The total entry bits E (R40). -/
def hdrBits (w : IWord) : Nat :=
  20 * hdrRcnt w + 20 * hdrWcnt w + (if hdrScnt w = 3 then 24 else 0) + (if w.getLsbD 99 then 48 else 0)

/-- The first failing check of header word 0, bits 127 down to 0 (R57, step 1). -/
def hdrWord0Fail (w : IWord) : Option TrapCode :=
  if w.extractLsb' 120 8 != 0xF0 then some .badHeader
  else if hdrHcnt w > 5 || hdrHcnt w != 1 + (hdrBits w + 127) / 128 then some .badHeader
  else if hdrRcnt w > 12 then some .badHeader
  else if hdrWcnt w > 8 then some .badHeader
  else if w.extractLsb' 96 2 != 0 then some .reservedBits
  else if hdrScnt w < 1 && w.extractLsb' 24 24 != 0 then some .reservedBits
  else if hdrScnt w < 2 && w.extractLsb' 0 24 != 0 then some .reservedBits
  else none

/-- The string bit at which read entry k fails step 1: a TARGET with slot 0b11 (R41). -/
def readEntryFail (es k : Nat) : Option Nat :=
  if field es (20 * k) 2 = 3 then some (20 * k) else none

/-- The string bit at which the write entry at bit `lo` fails step 1: nonzero [8:6] (R42). -/
def writeEntryFail (es lo : Nat) : Option Nat :=
  if field es (lo + 6) 3 ≠ 0 then some (lo + 6) else none

/-- The first failing bit of the entry string; every failure there is RESERVED_BITS (R57, step 1). -/
def entryStringFail (w : IWord) (es : Nat) : Option Nat :=
  match (List.range (hdrRcnt w)).findSome? (readEntryFail es) with
  | some b => some b
  | none =>
    match (List.range (hdrWcnt w)).findSome? (fun k => writeEntryFail es (20 * (hdrRcnt w + k))) with
    | some b => some b
    | none => if es / 2 ^ hdrBits w ≠ 0 then some (hdrBits w) else none

/-- A read entry of the string (R41). -/
def readEntryAt (es k : Nat) : ReadEntry :=
  let e := field es (20 * k) 20
  { space := field e 18 2, index := field e 9 9, valid := field e 8 1 = 1, cons := field e 2 6,
    slot := slotOfCode (field e 0 2) }

/-- A write entry of the string (R42). -/
def writeEntryAt (es lo : Nat) : WriteEntry :=
  let e := field es lo 20
  { space := field e 18 2, index := field e 9 9, prod := field e 0 6 }

/-- The prefetch descriptor (R44). -/
def prefetchAt (es lo : Nat) : Prefetch :=
  let e := field es lo 48
  { ridx := field e 32 16, kreg := field e 26 6, token := field e 23 3, bytes := field e 0 23 }

/-- The header as parsed, with no check (R39 to R44). -/
def headerOf (w : IWord) (es : Nat) : Header :=
  let r := hdrRcnt w
  let n := hdrWcnt w
  let after := 20 * (r + n)
  let sc := hdrScnt w
  { icnt := hdrIcnt w
    hcnt := hdrHcnt w
    scnt := sc
    idem := w.getLsbD 100
    srmw := w.getLsbD 98
    rejoin := sofs24 (w.extractLsb' 72 24)
    succ := ([sofs24 (w.extractLsb' 48 24), sofs24 (w.extractLsb' 24 24), sofs24 (w.extractLsb' 0 24),
              sofs24 (BitVec.ofNat 24 (field es after 24))]).take (sc + 1)
    reads := (List.range r).map (readEntryAt es)
    writes := (List.range n).map (fun k => writeEntryAt es (20 * (r + k)))
    prefetch := if w.getLsbD 99 then some (prefetchAt es (after + (if sc = 3 then 24 else 0))) else none }

/-- Step 1 of the decode check over the header words (R57): the header, or the trap and the index of the
word that it names. -/
def parseHeader (w : IWord) (rest : List IWord) : Except (TrapCode × Nat) Header :=
  match hdrWord0Fail w with
  | some t => .error (t, 0)
  | none =>
    let es := entryString (rest.take (hdrHcnt w - 1))
    match entryStringFail w es with
    | some b => .error (.reservedBits, 1 + b / 128)
    | none => .ok (headerOf w es)

end Sys2Proof
end

