-- ==== Sys2Proof/Config.lean ====
section
/-! DEFINITION. What an implementation fixes and the specification does not say: free values. Each is an
opaque constant with no body, so no proof can see what it is. Log entries: notes/assumptions/. -/

namespace Sys2Proof.Config

/-- A value the specification leaves open, one for each count of State's free counter (log 2). -/
opaque freeVal : Nat → Val

/-- A length of time the specification leaves open: the slack of a copy engine's promise (R181, log 3). -/
opaque freeTime : Nat → Nat

/-- What FRCP delivers for an ordinary operand; R134 lets implementations differ within the bound of
R133. The model keeps the bound (log 4). -/
opaque frcp : BitVec 32 → BitVec 32
/-- As `frcp`, for FRSQ. -/
opaque frsq : BitVec 32 → BitVec 32
/-- As `frcp`, for FEXP2. -/
opaque fexp2 : BitVec 32 → BitVec 32
/-- As `frcp`, for FLOG2. -/
opaque flog2 : BitVec 32 → BitVec 32
/-- As `frcp`, for the sine of FSINCOS. -/
opaque fsin : BitVec 32 → BitVec 32
/-- As `frcp`, for the cosine of FSINCOS. -/
opaque fcos : BitVec 32 → BitVec 32
/-- As `frcp`, for FTANH. -/
opaque ftanh : BitVec 32 → BitVec 32

/-- SHAKE256 with a 32-byte output (R359), an uninterpreted function here (log 5). -/
opaque shake256 : List Byte → BitVec 256
/-- SHAKE256 with the 64-byte output that signatures cover (R359). -/
opaque shake256x64 : List Byte → BitVec 512
/-- The device's public identity key, 1,793 bytes on the part (R340). -/
opaque idKey : List Byte
/-- The device's own Falcon-1024 signature over a digest (R350). -/
opaque falconSign : BitVec 512 → List Byte
/-- Whether a signature that is not the device's own verifies under a public key. -/
opaque falconOther : List Byte → BitVec 512 → List Byte → Bool
/-- Whether a Falcon-1024 signature over a digest verifies under a public key (R350): what the device signs verifies under its
identity key. -/
def falconVerify (key : List Byte) (digest : BitVec 512) (sig : List Byte) : Bool :=
  (key == idKey && sig == falconSign digest) || falconOther key digest sig
/-- Whether a signed firmware image verifies (R350); the specification gives neither its layout nor its key. -/
opaque firmwareVerify : List Byte → Bool
/-- Where in the device registers the placement table lies (R21), in units of 2 KiB; the specification gives no address. -/
opaque placeTable : Nat
/-- The scan tag of the part (R330). -/
opaque scanTag : BitVec 64
/-- The length in bytes of the part's grid scan chain (R330). -/
opaque scanLength : Nat

end Sys2Proof.Config
end

