-- ==== Sys2Proof/Machine/Bits.lean ====
section
/-! DEFINITION. The integer, logic and bit-field functions of chapter 4 on one lane, and the helpers of
R62 that they use. A value is the 128-bit content of one lane; only the low bits of its width count. -/

namespace Sys2Proof.Machine

/-- zext(x, w). -/
def zx (w : Nat) (x : Val) : Nat := x.toNat % 2 ^ w

/-- sext(x, w) of a number. -/
def sxNat (w n : Nat) : Int :=
  let m := n % 2 ^ w
  if m < 2 ^ (w - 1) then (m : Int) else (m : Int) - 2 ^ w

/-- sext(x, w). -/
def sx (w : Nat) (x : Val) : Int := sxNat w x.toNat

/-- wrap(i, w), as the low bits of a lane. -/
def wrapI (w : Nat) (i : Int) : Val := BitVec.ofNat 128 (i % 2 ^ w).toNat

/-- A number wrapped to w bits. -/
def wrapN (w n : Nat) : Val := BitVec.ofNat 128 (n % 2 ^ w)

/-- sat(x, lo, hi). -/
def satI (lo hi x : Int) : Int := if x < lo then lo else if hi < x then hi else x

/-- ext(x, w): sext for the s types, zext for the others (R101). -/
def ext (ty : Ty) (w : Nat) (x : Val) : Int := if tySigned ty then sx w x else zx w x

/-- 1 or 0. -/
def bool32 (b : Bool) : Val := if b then 1 else 0

/-! ## Arithmetic (R101, R102) -/

def fAdd (ty : Ty) (l r : Val) : Val := wrapI (tyWidth ty) (ext ty (tyWidth ty) l + ext ty (tyWidth ty) r)
def fSub (ty : Ty) (l r : Val) : Val := wrapI (tyWidth ty) (ext ty (tyWidth ty) l - ext ty (tyWidth ty) r)
def fMul (ty : Ty) (l r : Val) : Val := wrapI (tyWidth ty) (ext ty (tyWidth ty) l * ext ty (tyWidth ty) r)
/-- floor(a × b / 2^w): Lean's `/` on Int rounds down for a positive divisor. -/
def fMulhi (ty : Ty) (l r : Val) : Val :=
  wrapI (tyWidth ty) (ext ty (tyWidth ty) l * ext ty (tyWidth ty) r / 2 ^ tyWidth ty)
def fMad (ty : Ty) (l r p : Val) : Val :=
  let w := tyWidth ty
  wrapI w (ext ty w l * ext ty w r + ext ty w p)
def fAdd64 (ty : Ty) (l r : Val) : Val := wrapI 64 (zx 64 l + ext ty 32 r)
def fSub64 (ty : Ty) (l r : Val) : Val := wrapI 64 (zx 64 l - ext ty 32 r)
def fMad64 (ty : Ty) (l r p : Val) : Val := wrapI 64 (ext ty 32 l * ext ty 32 r + zx 64 p)
def fIdiv (ty : Ty) (l r : Val) : Val :=
  let w := tyWidth ty
  let b := ext ty w r
  if b = 0 then wrapI w (-1) else wrapI w (Int.tdiv (ext ty w l) b)
def fIrem (ty : Ty) (l r : Val) : Val :=
  let w := tyWidth ty
  let b := ext ty w r
  if b = 0 then wrapI w (ext ty w l) else wrapI w (Int.tmod (ext ty w l) b)
def fMin (ty : Ty) (l r : Val) : Val :=
  let w := tyWidth ty
  let a := ext ty w l
  let b := ext ty w r
  wrapI w (if a ≤ b then a else b)
def fMax (ty : Ty) (l r : Val) : Val :=
  let w := tyWidth ty
  let a := ext ty w l
  let b := ext ty w r
  wrapI w (if a ≥ b then a else b)
def fAbs (ty : Ty) (l : Val) : Val := wrapI (tyWidth ty) ((ext ty (tyWidth ty) l).natAbs : Int)
def fNeg (ty : Ty) (l : Val) : Val := wrapI (tyWidth ty) (-(ext ty (tyWidth ty) l))

/-! ## Logic, shifts and counts (R103) -/

def maskW (w : Nat) (x : Val) : Val := wrapN w x.toNat
def fAnd (ty : Ty) (l r : Val) : Val := maskW (tyWidth ty) (l &&& r)
def fOr (ty : Ty) (l r : Val) : Val := maskW (tyWidth ty) (l ||| r)
def fXor (ty : Ty) (l r : Val) : Val := maskW (tyWidth ty) (l ^^^ r)
def fAndn (ty : Ty) (l r : Val) : Val := maskW (tyWidth ty) (l &&& ~~~r)
def fNot (ty : Ty) (l : Val) : Val := maskW (tyWidth ty) (~~~l)
def fShl (ty : Ty) (l r : Val) : Val :=
  let w := tyWidth ty
  let n := zx 32 r
  if n < w then wrapN w (zx w l * 2 ^ n) else 0
def fShr (ty : Ty) (l r : Val) : Val :=
  let w := tyWidth ty
  let n := zx 32 r
  if n < w then wrapN w (zx w l / 2 ^ n) else 0
def fSar (ty : Ty) (l r : Val) : Val :=
  let w := tyWidth ty
  let n := zx 32 r
  if n < w then wrapI w (sx w l / 2 ^ n) else wrapI w (if sx w l < 0 then -1 else 0)
def fRol (ty : Ty) (l r : Val) : Val :=
  let w := tyWidth ty
  let m := zx 32 r % w
  wrapN w (zx w l * 2 ^ m + zx w l / 2 ^ (w - m))

/-- The set bits among the low `w`. -/
def popcount (x : Nat) : Nat → Nat
  | 0 => 0
  | w + 1 => (if x.testBit w then 1 else 0) + popcount x w

/-- Leading zeros of a w-bit number. -/
def leadZeros (x : Nat) : Nat → Nat
  | 0 => 0
  | w + 1 => if x.testBit w then 0 else 1 + leadZeros x w

/-- Trailing zeros of a w-bit number, counted up from bit `i`. -/
def trailZeros (x : Nat) : Nat → Nat → Nat
  | 0, _ => 0
  | w + 1, i => if x.testBit i then 0 else 1 + trailZeros x w (i + 1)

/-- The low w bits in reverse order. -/
def revBits (x : Nat) : Nat → Nat
  | 0 => 0
  | w + 1 => revBits (x / 2) w + x % 2 * 2 ^ w

def fPopc (ty : Ty) (l : Val) : Val := BitVec.ofNat 128 (popcount (zx (tyWidth ty) l) (tyWidth ty))
def fClz (ty : Ty) (l : Val) : Val := BitVec.ofNat 128 (leadZeros (zx (tyWidth ty) l) (tyWidth ty))
def fCtz (ty : Ty) (l : Val) : Val := BitVec.ofNat 128 (trailZeros (zx (tyWidth ty) l) (tyWidth ty) 0)
def fBrev (ty : Ty) (l : Val) : Val := BitVec.ofNat 128 (revBits (zx (tyWidth ty) l) (tyWidth ty))

/-! ## Bit fields and bytes (R104, R105) -/

/-- bits(x, hi, lo). -/
def bitsN (x hi lo : Nat) : Nat := x / 2 ^ lo % 2 ^ (hi + 1 - lo)

def fBfx (ty : Ty) (aux : Nat) (l : Val) : Val :=
  let pos := aux / 256
  let len := aux % 256
  let f := bitsN (zx (tyWidth ty) l) (pos + len - 1) pos
  wrapI (tyWidth ty) (if tySigned ty then sxNat len f else f)

def fBfi (ty : Ty) (aux : Nat) (l p : Val) : Val :=
  let w := tyWidth ty
  let pos := aux / 256
  let len := aux % 256
  let x := zx w l
  wrapN w (x - bitsN x (pos + len - 1) pos * 2 ^ pos + p.toNat % 2 ^ len * 2 ^ pos)

/-- Byte n of the pair L:R. -/
def prmtSrc (l r : Nat) (n : Nat) : Nat := if n < 4 then l / 256 ^ n % 256 else r / 256 ^ (n - 4) % 256

/-- Result byte i. -/
def prmtByte (l r aux i : Nat) : Nat :=
  let b := prmtSrc l r (aux / 8 ^ i % 8)
  if aux.testBit (12 + i) then (if 128 ≤ b then 255 else 0) else b

def fPrmt (aux : Nat) (l r : Val) : Val :=
  let a := zx 32 l
  let b := zx 32 r
  wrapN 32 (prmtByte a b aux 0 + 256 * (prmtByte a b aux 1 + 256 * (prmtByte a b aux 2 + 256 * prmtByte a b aux 3)))

/-! ## Compare, addresses, widening (R106 to R110) -/

/-- The relations of CMP, by minor. -/
inductive Rel where
  | eq | ne | lt | le | gt | ge
  deriving DecidableEq, Repr

def relI (k : Rel) (a b : Int) : Bool :=
  match k with
  | .eq => a == b
  | .ne => a != b
  | .lt => a < b
  | .le => a ≤ b
  | .gt => b < a
  | .ge => b ≤ a

def fCmp (k : Rel) (ty : Ty) (l r : Val) : Val :=
  bool32 (relI k (ext ty (tyWidth ty) l) (ext ty (tyWidth ty) r))
def fSel (ty : Ty) (l r p : Val) : Val := maskW (tyWidth ty) (if l ≠ 0 then r else p)
def fMovi (ty : Ty) (imm : BitVec 64) : Val := wrapN (tyWidth ty) imm.toNat
def fAddhi (ty : Ty) (imm : BitVec 20) (l : Val) : Val :=
  wrapI (tyWidth ty) (ext ty (tyWidth ty) l + imm.toInt * 4096)
def fLea (ty : Ty) (scale : Nat) (l r : Val) : Val := wrapI 64 (zx 64 l + ext ty 32 r * 2 ^ scale)
def fSext (ty : Ty) (n : Nat) (l : Val) : Val := wrapI (tyWidth ty) (sxNat n (zx (tyWidth ty) l))
def fZext (ty : Ty) (n : Nat) (l : Val) : Val := wrapN (tyWidth ty) (zx (tyWidth ty) l % 2 ^ n)

/-- Byte i of a DP4 operand. -/
def dpByte (ty : Ty) (x : Val) (i : Nat) : Int :=
  let b := x.toNat / 256 ^ i % 256
  if tySigned ty then sxNat 8 b else b

def fDp4 (ty : Ty) (l r p : Val) : Val :=
  wrapI 32 (zx 32 p + (dpByte ty l 0 * dpByte ty r 0 + dpByte ty l 1 * dpByte ty r 1 +
    dpByte ty l 2 * dpByte ty r 2 + dpByte ty l 3 * dpByte ty r 3))

/-! ## Cross-lane (R111, R112) -/

/-- The SHFL minors. -/
inductive ShflKind where
  | idx | rot | xor | rev
  deriving DecidableEq, Repr

/-- The source lane of lane l with index r, in segments of 2^G lanes; `none`: no source. -/
def shflSrc (k : ShflKind) (aux l : Nat) (r : Val) : Option Nat :=
  let s := 2 ^ (aux % 8)
  let base := l - l % s
  let o := l % s
  match k with
  | .idx => some (base + zx 32 r % s)
  | .rot =>
    let t : Int := o + sx 32 r
    if aux.testBit 3 && (t < 0 || (s : Int) ≤ t) then none else some (base + (t % s).toNat)
  | .xor => some (base + (o ^^^ (zx 32 r % s)))
  | .rev => some (base + ((s - 1 - o + zx 32 r) % s))

/-- The REDUX combinations. -/
inductive ReduxKind where
  | add | min | max | and | or | xor
  deriving DecidableEq, Repr

/-- Identity of a combination. -/
def reduxId (k : ReduxKind) (ty : Ty) : Val :=
  let w := tyWidth ty
  match k with
  | .add | .or | .xor => 0
  | .and => wrapI w (-1)
  | .min => if tySigned ty then wrapN w (2 ^ (w - 1) - 1) else wrapI w (-1)
  | .max => if tySigned ty then wrapN w (2 ^ (w - 1)) else 0

/-- One combination. -/
def reduxOp (k : ReduxKind) (ty : Ty) (a b : Val) : Val :=
  match k with
  | .add => fAdd ty a b
  | .min => fMin ty a b
  | .max => fMax ty a b
  | .and => fAnd ty a b
  | .or => fOr ty a b
  | .xor => fXor ty a b

end Sys2Proof.Machine
end

