-- ==== Sys2Proof/Machine/EngineTypes.lean ====
section
/-! DEFINITION. The records that State is made of, part two: memory requests, the copy, matrix and grid
engines, and the structures that describe work. -/

namespace Sys2Proof.Machine

/-! ## Memory -/

/-- A memory type (R142). -/
inductive MemType where
  | cached | uncacheable | device
  deriving DecidableEq, Repr

/-- A translation held in a TLB (R144): the tenant, the 64 KiB page numbers, and the leaf's rights. -/
structure TlbEnt where
  vf : Nat
  vpage : Nat
  ppage : Nat
  rd : Bool
  wr : Bool
  ex : Bool
  mt : MemType
  deriving DecidableEq, Repr

/-- Where a released store or atomic stands (R148, R151, R159). -/
inductive ReqPhase where
  | released | forwarded | applied
  deriving DecidableEq, Repr

/-- A store or atomic handed to the memory system (R72, R148): one lane and one single-copy-atomic piece
of it. `t` is the commit cycle; `old` and `gwct` are what the home returns; `lost` and `poison` mark the
outcomes of R161. A SPAWN or CLAIM keeps its operands in `va`, `n` and `data`, a CLAIM its physical pages in `pages`.
`order` names requests of one unit that are performed in the order of their release whatever their homes: the pieces of a
split store (R158), and the groups of one stream engine (R249); those of one `event` are performed as one event (R248). `sb` is the
token that the instruction of an atomic set (R36). -/
structure MemReq where
  id : Nat
  vf : Nat
  team : Nat
  unit : Nat
  die : Nat
  core : Nat
  t : Nat
  kind : ReqKind
  va : Nat
  pa : Nat
  n : Nat
  data : Val
  cmp : Val
  pages : List Nat := []
  order : Option (Nat × Nat) := none
  event : Option Nat := none
  sb : Option Nat := none
  dests : List RegDest := []
  phase : ReqPhase := .released
  old : Val := 0
  gwct : Nat := 0
  poison : Bool := false
  deriving DecidableEq, Repr

/-- A load piece waiting for its home (R149): `kept` holds the bytes that R149 shields from stores of
the die that R148 makes invisible to this load; `hint` is where L1 takes the line (R168), and the pieces of one `event` are read as
one event (R248). -/
structure LoadReq where
  id : Nat
  vf : Nat
  team : Nat
  unit : Nat
  die : Nat
  core : Nat
  issued : Nat
  idx : Nat
  lane : Nat
  off : Nat
  va : Nat
  pa : Nat
  n : Nat
  cached : Bool
  hint : CacheHint := .normal
  kept : Tab Byte := []
  event : Option Nat := none
  deriving DecidableEq, Repr

/-- A die's leased copy of a 128-byte line (R147). -/
structure LineCopy where
  line : Nat
  bytes : List Byte
  expiry : Nat
  deriving DecidableEq, Repr

/-- A compute die (R11): its leased copies, its second-level TLB and the thermal clamp (R353). -/
structure Die where
  copies : List LineCopy := []
  tlb : List TlbEnt := []
  throttled : Bool := false
  deriving DecidableEq, Repr

/-- An STS released in this cycle, which other warps of the core do not see before the next (R162): the
byte it replaced. -/
structure LateSts where
  t : Nat
  team : Nat
  unit : Nat
  addr : Nat
  old : Byte
  deriving DecidableEq, Repr

/-- A released scratchpad atomic waiting for its bank window (R162); `addr` is its window offset, and `sb` the token that its
instruction set (R36). -/
structure SatomReq where
  id : Nat
  team : Nat
  unit : Nat
  op : AtomOp
  ty : Ty
  addr : Nat
  n : Nat
  data : Val
  dests : List RegDest
  sb : Option Nat := none
  deriving DecidableEq, Repr

/-! ## Resource entries and views -/

/-- The kinds of R286. -/
inductive ResKind where
  | empty | buffer | tensor | shape | code | const | gridimg
  deriving DecidableEq, Repr

/-- A resource entry as read (R286). Fields that a kind does not have are zero. -/
structure ResEntry where
  kind : ResKind := .empty
  sp : Bool := false
  shadow : Bool := false
  base : Nat := 0
  size : Nat := 0
  alt : Nat := 0
  esize : Nat := 0
  rank : Nat := 0
  box : List Nat := []
  dim : List Nat := []
  stride : List Nat := []
  estride : Nat := 0
  ofs : Nat := 0
  rstride : Nat := 0
  rows : Nat := 0
  cols : Nat := 0
  obj : Nat := 0
  deriving DecidableEq, Repr

/-- The three items of a view (R184), whether a publish is deferred (R326), and the bytes of completed
but unpublished requests by team and barrier (R186, R188). -/
structure ViewSt where
  bit : Bool := false
  count : Nat := 0
  dirty : Bool := false
  deferred : Bool := false
  unpub : List (Nat × Nat × Nat) := []
  deriving DecidableEq, Repr

/-- A scratchpad view of a team: its resource index, base and half size (R184). -/
structure SpView where
  ridx : Nat
  base : Nat
  size : Nat
  st : ViewSt := {}
  deriving DecidableEq, Repr

/-- A tenant's global view record (R184), keyed by the primary base. -/
structure GView where
  base : Nat
  alt : Nat
  size : Nat
  st : ViewSt := {}
  deriving DecidableEq, Repr

/-! ## The copy engine -/

/-- The copy requests of §7.7. -/
inductive CopyKind where
  | tileLd | tileSt | bufLd | bufSt | gather | scatter | accIn | accOut | publ | cancel | get | put | cred
  deriving DecidableEq, Repr

/-- Where a copy request stands: running, handed to the firmware (R187), its last byte landed, or a PUBL
waiting for its GWCT. -/
inductive CopyPhase where
  | running | slow | landed | published
  deriving DecidableEq, Repr

/-- A request in a core's copy queue (R178 to R198). `coords`, `sp`, `ofs`, `count`, `row`, `remote` and
`target` are the operands of its form; `list` the row indices of CPYG and CPYS once read; `landed` the
pieces already moved; `kept` the window bytes, by place in the core, as they stood before STS of its own block (R183), and
`got` the entries of the list read so far (R252); `counted` the bytes already taken from the barrier, and `owed` the completion time and
length of each global write whose bytes are still to be taken (R188); `fault` what the slow path met (R187); `remote` is also a CRED's group, `lg` its kind. -/
structure CopyReq where
  id : Nat
  vf : Nat
  team : Nat
  unit : Nat
  kind : CopyKind
  sb : Option Nat
  ap : Bool
  sh : Bool
  bv : Option Nat
  res : ResEntry
  ridx : Nat
  coords : List Int := []
  sp : Nat := 0
  ofs : Nat := 0
  count : Nat := 0
  row : Nat := 0
  remote : Nat := 0
  target : Nat := 0
  lg : Bool := false
  list : Option (List Nat) := none
  view : Option ViewRef := none
  issued : Nat := 0
  promise : Nat := 0
  phase : CopyPhase := .running
  landed : List Nat := []
  counted : Nat := 0
  owed : List (Nat × Nat) := []
  gwct : Nat := 0
  fault : Option (TrapCode × Nat) := none
  kept : Tab Byte := []
  got : List (Nat × Nat) := []
  deriving DecidableEq, Repr

/-! ## The matrix engine -/

/-- An open chain (R209): its area, its slot, its owner and its count of MMAs. -/
structure Chain where
  base : Nat
  m : Nat
  n : Nat
  slot : Nat
  owner : Nat
  mmas : Nat := 0
  deriving DecidableEq, Repr

/-- A weight-buffer tile (R205). `issued` counts it as loaded for the issue checks; `elems` are B's elements as
its last completed WBLD stored them, by 128 × k + j. -/
structure Tile where
  ub : Nat := 0
  units : Nat := 0
  k : Nat := 0
  n : Nat := 0
  efmt : Ty := .s32
  sexp : Int := 0
  flush : Bool := false
  issued : Bool := false
  elems : Tab Word := []
  deriving DecidableEq, Repr

/-- A format slot (R122). -/
structure FmtSlot where
  dmult : Word := 0
  dkeep : Nat := 0
  wexp : Int := 0
  sexp : Int := 0
  flush : Bool := false
  rmode : RMode := .rne
  efmt : Ty := .s32
  deriving DecidableEq, Repr

/-- The queued matrix instructions of R214. -/
inductive MatKind where
  | chb (init : Bool)
  | che
  | mma (na nb ad : Bool) (tile : Nat)
  | wbld (transposed : Bool) (tile : Nat)
  | accz
  | drain (res drp intIn : Bool)
  deriving DecidableEq, Repr

/-- An entry of the matrix queue (R214): rows are `row` to `row + rows` − 1; `w` is the chain's window exponent and
`bsexp` the tile's scale; `old` the values, newest first, that each aligned 4-byte piece of `shape` (or of DRAIN's residual) has held since the issue,
by window offset / 4 (R202); `feed` is the number of feed intervals an MMA has left (R199), `ready` the first cycle of its
completion (R216), `reached` the banks that its next reads have reached (R252), and `written` how many elements a DRAIN has
written, which raised `raised`. -/
structure MatOp where
  id : Nat
  team : Nat
  unit : Nat
  kind : MatKind
  sb : Option Nat
  slot : FmtSlot
  shape : ResEntry := {}
  shape2 : ResEntry := {}
  lo : Nat := 0
  row : Nat := 0
  rows : Nat := 0
  m : Nat := 0
  n : Nat := 0
  k : Nat := 0
  ub : Nat := 0
  units : Nat := 0
  w : Int := 0
  bsexp : Int := 0
  org : Nat := 0
  old : Tab (List Word) := []
  reached : BitVec 32 := 0
  written : Nat := 0
  raised : BitVec 8 := 0
  started : Bool := false
  feed : Nat := 0
  ready : Nat := 0
  deriving DecidableEq, Repr

/-- The matrix engine of a core (R199 to R216): the accumulator store by 128 × row + column, the overflow
marks by (row div 4) × 128 + column, tiles, open chains, the queue, and the ramp limiter, of which `idle` says that no interval has
been fed since L last became 4 by itself (R201). -/
structure Matrix where
  acc : Tab Word := []
  marks : Tab Bool := []
  tiles : Tab Tile := []
  chains : List Chain := []
  queue : List MatOp := []
  rampL : Nat := 4
  used : Nat := 0
  bubbleRun : Nat := 0
  idle : Bool := true
  windowAt : Nat := 0
  holder : Option Nat := none
  deriving DecidableEq, Repr

/-! ## The grid and the stream engines -/

/-- The tile kinds of R231. -/
inductive TileKind where
  | off | ag | cp | rd
  deriving DecidableEq, Repr

/-- A tile record of an image (R234). -/
structure TileRec where
  kind : TileKind
  region : Nat
  consts : List Word
  ops : List Word
  deriving DecidableEq, Repr

/-- A region descriptor (R233). -/
structure RegDesc where
  frame : Nat
  page : Nat
  ctx : Nat
  stg : Nat
  ii : Nat
  deriving DecidableEq, Repr

/-- A bank grant (R235). -/
structure Grant where
  slot : Nat
  bank : Nat
  eng : Nat
  rmw : Bool
  region : Nat
  deriving DecidableEq, Repr

/-- A checked configuration image with its generation, first team page and configuration slot; `id` and `sb` are
the GCFG's token (R258). -/
structure GridImage where
  gen : Nat
  p0 : Nat
  pcnt : Nat
  regions : List RegDesc
  tiles : List TileRec
  grants : List Grant
  slot : FmtSlot
  id : Nat
  sb : Option Nat
  deriving DecidableEq, Repr

/-- An image being staged, not yet read and checked (R236). -/
structure Staging where
  gen : Nat
  res : ResEntry
  p0 : Nat
  slot : FmtSlot
  id : Nat
  sb : Option Nat
  deriving DecidableEq, Repr

/-- A loop context (R242), keyed by 4 × page + context; `begun` and `completed` place its region in the
states of R260, `freezing` says that its last cycle froze, `cur` is its slot in the cycle last run, and `ranAt` one more than
the last cycle in which it fired its slot. -/
structure LoopCtx where
  slot : Nat := 0
  iter : BitVec 32 := 0
  remaining : Nat := 0
  valid : BitVec 16 := 0
  fc : Nat := 0
  hold : Bool := false
  running : Bool := false
  begun : Bool := false
  completed : Bool := false
  freezing : Bool := false
  cur : Nat := 0
  ranAt : Nat := 0
  deriving DecidableEq, Repr

/-- A group of four lanes. -/
abbrev Group := List Word

/-- A grid tile at run time (R229): physical registers by 4 × entry + lane, the latch, the latch of the cycle
before and of the region's cycle before (read through the edge ports, R230, R244), RB, accumulators, and the
four input queues, each group with the cycle from which it is readable, and the inputs read in the current
interval. -/
structure TileSt where
  regs : Tab Word := []
  latch : Group := [0, 0, 0, 0]
  prev : Group := [0, 0, 0, 0]
  held : Group := [0, 0, 0, 0]
  rb : Nat := 0
  accs : List Word64 := [0, 0, 0, 0]
  ins : Tab (List (Nat × Group)) := []
  readIns : List Nat := []
  deriving DecidableEq, Repr

/-- The stream commands of R263. -/
inductive StreamCmdKind where
  | open (store : Bool) (w : Nat) (res : ResEntry) (req : Option Nat) (rpl : Option (Nat × Nat))
  | permits
  | drive (start : Nat) (stride : Int)
  | close
  deriving DecidableEq, Repr

/-- A queued stream command: its identifier, generation and token, the groups still to issue, those issued, and
the latest GWCT of its writes. -/
structure StreamCmd where
  id : Nat
  gen : Nat
  kind : StreamCmdKind
  sb : Option Nat
  left : Nat
  done : Nat := 0
  gwct : Nat := 0
  deriving DecidableEq, Repr

/-- A stream engine's open binding (R247); `entered` counts the groups since the open. -/
structure StreamOpen where
  store : Bool
  w : Nat
  res : ResEntry
  req : Option Nat
  rpl : Option (Nat × Nat)
  gen : Nat
  entered : Nat := 0
  deriving DecidableEq, Repr

/-- A group that has entered an engine and not finished (R249): its command, whether a tile made it, its reply
input, the lanes of a load with the pieces still to come, the writes of a store still to be applied, and the
cycle in which it entered. -/
structure StreamGroup where
  id : Nat
  cmd : Nat
  gen : Nat
  byTile : Bool
  store : Bool
  sp : Bool
  rpl : Option (Nat × Nat)
  data : Group
  missing : Nat
  reqs : List Nat
  entered : Nat
  deriving DecidableEq, Repr

/-- A stream engine (R246 to R253). -/
structure StreamEng where
  cmds : List StreamCmd := []
  opened : Option StreamOpen := none
  groups : List StreamGroup := []
  dropped : Nat := 0
  faulted : Bool := false
  deriving DecidableEq, Repr

/-- What a configuration command does (R258, R261, R262). -/
inductive GridCmdKind where
  | run
  | frame (add unl : Bool) (n : Nat)
  | lctx (add : Bool) (ctx : Nat) (count : Nat)
  deriving DecidableEq, Repr

/-- A configuration command waiting for its generation (R255). -/
structure GridCmd where
  id : Nat
  gen : Nat
  kind : GridCmdKind
  sb : Option Nat
  deriving DecidableEq, Repr

/-- The grid of a core (R226 to R263): `gen` is the current generation, `past` those that have been active.
`halting` and `stopping` take effect at the end of the cycle, `stopFrame` is a GSTOP that waits for the next
release, `stops` the generations and tokens of GSTOPs in progress, `budget` the frame budget (`none`: unlimited), `lastCycle` one
more than the last cycle run, `firedAt` one more than the last in which an operation fired, and `bankUse` the banks
used in a cycle with their engine and region. -/
structure Grid where
  holder : Option Nat := none
  gen : Nat := 0
  active : Option GridImage := none
  staging : Option Staging := none
  staged : Option GridImage := none
  past : List Nat := []
  halted : Bool := false
  stopped : Bool := false
  halting : Bool := false
  stopping : Bool := false
  stopFrame : Bool := false
  stops : List (Nat × Nat × Option Nat) := []
  budget : Option Nat := none
  ctxs : Tab LoopCtx := []
  tiles : Tab TileSt := []
  engs : Tab StreamEng := []
  cmds : List GridCmd := []
  lastCycle : Nat := 0
  firedAt : Nat := 0
  bankUse : List (Nat × Nat × Nat × Nat) := []
  deriving DecidableEq, Repr

/-! ## Cores and teams -/

/-- A decoded block in a block cache (R65, R66), most recently used first. -/
structure BlockEnt where
  addr : Nat
  full : Bool
  words : List IWord
  deriving DecidableEq, Repr

/-- A named barrier (R264); `arrivedAt` is one more than the cycle of the last arrival, which unit `arrivedBy` made (the model's own
fields, for the order of R266). -/
structure Barrier where
  g : BitVec 32 := 0
  cv : Bool := false
  c : Nat := 0
  a : Nat := 0
  p : BitVec 40 := 0
  arrivedAt : Nat := 0
  arrivedBy : Nat := 0
  deriving DecidableEq, Repr

/-- A logical core's engines and stores (R13). Scratchpad bytes are keyed by their place in the core's
512 KiB. `counters` are those of R321, `slots` the cycle from which each quarter may issue again (R14, R80), and `yields`, by
32 × team + warp, the slots of its quarter that a warp leaves to others (YLD, R36; YIELD, R320), and `paths` the cycle from
which each quarter's FP64 path (0 to 3, R129) and transcendental unit (4 to 7, R133) is free; `l1` are the lines of the L1
data cache (R13, R147), most recently used first. -/
structure Core where
  scratch : Tab Byte := []
  spPoison : Tab Bool := []
  lateSts : List LateSts := []
  satoms : List SatomReq := []
  blocks : List BlockEnt := []
  tlb : List TlbEnt := []
  l1 : List Nat := []
  counters : Tab Word64 := []
  slots : Tab Nat := []
  yields : Tab Nat := []
  paths : Tab Nat := []
  copyQ : List CopyReq := []
  mat : Matrix := {}
  grid : Grid := {}
  deriving DecidableEq, Repr

/-- A launch record's fields (R283); `vranges` are the base and the size of each scratchpad view of `views`, as the check
of the record read them (R184, R284). -/
structure LaunchRec where
  entry : Nat := 0
  bentry : Nat := 0
  teams : Nat := 0
  warps : Nat := 0
  ncopy : Nat := 0
  nmat : Nat := 0
  gpages : Nat := 0
  regs : Nat := 0
  spad : Nat := 0
  lastn : Nat := 0
  thresh : Nat := 0
  views : List Nat := []
  vranges : List (Nat × Nat) := []
  idem : Bool := false
  defer : Nat := 0
  rcount : Nat := 0
  rtab : Nat := 0
  region : Nat := 0
  seed : BitVec 64 := 0
  done : Nat := 0
  slots : List FmtSlot := []
  deriving DecidableEq, Repr

/-- A team on a core (R16, R285, R299): its launch, its place, the values of HTAB, WDOG and XTO that were
effective at its placement (R289), its barriers, rings, views, and its warps and Bridle as units 0 to 16.
`slot` is the recording slot of its region (R304) and `rtop` the number of its root region (R308).
`since` is the cycle up to which its core time is charged (R291); `wd` the watchdog's count (R272);
`preempt` a request's reason and time (R322); `term` a termination's status and reason (R292); `objs` the
code objects whose blocks it has entered (R334); `saving` says that a save has begun (R324), `waiver` that it
no longer waits for barriers (R325), `image` where its image is being written and its length (R324, R328), and `retired` that only
the completion records of its warps still matter (R300). -/
structure Team where
  vf : Nat
  seq : Nat
  num : Nat
  rnum : Nat
  lrec : LaunchRec
  core : Nat
  spBase : Nat
  spBytes : Nat
  pages : List Nat
  htab : Nat
  wdog : Nat
  xto : Nat
  slot : Nat
  rtop : Nat
  units : Tab WUnit := []
  bars : Tab Barrier := []
  fph : Tab Bool := []
  eph : Tab Bool := []
  views : List SpView := []
  wd : Nat := 0
  since : Nat := 0
  preempt : Option (Nat × Nat) := none
  term : Option (Nat × Nat) := none
  objs : List Nat := []
  saving : Bool := false
  waiver : Bool := false
  image : Option (Nat × Nat) := none
  retired : Bool := false
  trapsFirst : Bool := false
  deriving DecidableEq, Repr

end Sys2Proof.Machine
end

