-- ==== Sys2Proof/Machine/Float.lean ====
section
/-! DEFINITION. Floating-point values, the one rounding of R62, and the arithmetic of chapter 5 on one
lane. A finite value is an exact dyadic, sign × m × 2^e. -/

namespace Sys2Proof.Machine

/-! ## Flags (R126) -/

abbrev Flags := BitVec 8
def flNV : Flags := 1
def flDZ : Flags := 2
def flOF : Flags := 4
def flUF : Flags := 8
def flNX : Flags := 16
def flLSAT : Flags := 32
def flLOV : Flags := 64
def flCHOV : Flags := 128

/-- A lane's result with the flags that it raises. -/
abbrev FRes := Val × Flags

/-! ## Formats (R113) -/

/-- An IEEE format: exponent and fraction bits. -/
structure FFmt where
  eb : Nat
  fb : Nat
  deriving DecidableEq, Repr

def fmt64 : FFmt := ⟨11, 52⟩
def fmt32 : FFmt := ⟨8, 23⟩
def fmt16 : FFmt := ⟨5, 10⟩
def fmtB16 : FFmt := ⟨8, 7⟩

/-- The format of a type; packed types give that of their elements. -/
def fmtOf : Ty → FFmt
  | .f64 => fmt64
  | .f16 | .f16x2 => fmt16
  | .bf16 | .bf16x2 => fmtB16
  | _ => fmt32

def fBias (f : FFmt) : Nat := 2 ^ (f.eb - 1) - 1
/-- The exponent of a subnormal's last bit. -/
def fEmin (f : FFmt) : Int := 1 - (fBias f : Int) - (f.fb : Int)
/-- The sign bit, all exponent bits, the canonical NaN, infinity and the largest finite value. -/
def fSignBit (f : FFmt) (s : Bool) : Nat := if s then 2 ^ (f.eb + f.fb) else 0
def fInfBits (f : FFmt) (s : Bool) : Nat := fSignBit f s + (2 ^ f.eb - 1) * 2 ^ f.fb
def fNaN (f : FFmt) : Nat := (2 ^ f.eb - 1) * 2 ^ f.fb + 2 ^ (f.fb - 1)
def fMaxBits (f : FFmt) (s : Bool) : Nat := fInfBits f s - 1

/-- A floating-point value. -/
inductive FV where
  | nan (sig : Bool)
  | inf (s : Bool)
  | fin (s : Bool) (m : Nat) (e : Int)
  deriving DecidableEq, Repr

/-- The value of a pattern, with no flush. -/
def fDecode (f : FFmt) (x : Nat) : FV :=
  let s := x.testBit (f.eb + f.fb)
  let ex := x / 2 ^ f.fb % 2 ^ f.eb
  let fr := x % 2 ^ f.fb
  if ex = 2 ^ f.eb - 1 then (if fr = 0 then .inf s else .nan (fr < 2 ^ (f.fb - 1)))
  else if ex = 0 then .fin s fr (fEmin f)
  else .fin s (2 ^ f.fb + fr) (fEmin f + ex - 1)

/-- in(): as `fDecode`, with subnormals read as zero under FLUSH (R124). -/
def fIn (f : FFmt) (flush : Bool) (x : Nat) : FV :=
  match fDecode f x with
  | .fin s m e => if flush && m < 2 ^ f.fb then .fin s 0 e else .fin s m e
  | v => v

/-- A signalling NaN raises NV (R125). -/
def sigNV : FV → Flags
  | .nan true => flNV
  | _ => 0

/-! ## Rounding (R62, R124, R125) -/

/-- The mode an instruction rounds by: RM, or the slot's, where RNA counts only if the entry names it. -/
def modeOf (rm : RMode) (slot : FmtSlot) (rna : Bool) : RMode :=
  match rm with
  | .slot => if slot.rmode == .rna && !rna then .rne else slot.rmode
  | m => m

/-- m × 2^−sh rounded to an integer by mode, with whether it is inexact. -/
def rndShift (mode : RMode) (s : Bool) (m : Nat) (sh : Int) : Nat × Bool :=
  if sh ≤ 0 then (m * 2 ^ (-sh).toNat, false)
  else
    let k := sh.toNat
    let n := m / 2 ^ k
    let r := m % 2 ^ k
    let half := 2 ^ (k - 1)
    let up := match mode with
      | .rz => false
      | .rd => s && r != 0
      | .ru => !s && r != 0
      | .rna => half ≤ r
      | _ => half < r || (r == half && n % 2 == 1)
    (if up then n + 1 else n, r != 0)

/-- round(x, fmt, m) of a nonzero finite value (R62), with the flags of R125. -/
def roundFin (f : FFmt) (mode : RMode) (flush s : Bool) (m : Nat) (e : Int) : Nat × Flags :=
  let top := e + (Nat.log2 m : Int)
  let (n, inx) := rndShift mode s m (top - f.fb - e)
  let (n, top) := if n = 2 ^ (f.fb + 1) then (n / 2, top + 1) else (n, top)
  if (fBias f : Int) < top then
    let big := match mode with
      | .rz => false
      | .rd => s
      | .ru => !s
      | _ => true
    (if big then fInfBits f s else fMaxBits f s, flOF ||| flNX)
  else if 1 - (fBias f : Int) ≤ top then
    (fSignBit f s + (top + fBias f).toNat * 2 ^ f.fb + (n - 2 ^ f.fb), if inx then flNX else 0)
  else if flush then (fSignBit f s, flUF ||| flNX)
  else
    let (n, inx) := rndShift mode s m (fEmin f - e)
    (fSignBit f s + n, if inx then flUF ||| flNX else 0)

/-- The pattern of a value in a format, rounded once. -/
def fRound (f : FFmt) (mode : RMode) (flush : Bool) : FV → Nat × Flags
  | .nan _ => (fNaN f, 0)
  | .inf s => (fInfBits f s, 0)
  | .fin s m e => if m = 0 then (fSignBit f s, 0) else roundFin f mode flush s m e

/-! ## Exact arithmetic on values -/

def signed (s : Bool) (m : Nat) : Int := if s then -(m : Int) else m

/-- The exact sum (R125); `rd`: an exact zero sum of opposite signs is −0. -/
def fvAdd (rd : Bool) (a b : FV) : FV × Flags :=
  match a, b with
  | .nan p, b => (.nan false, (if p then flNV else 0) ||| sigNV b)
  | .inf _, .nan q => (.nan false, if q then flNV else 0)
  | .fin _ _ _, .nan q => (.nan false, if q then flNV else 0)
  | .inf s, .inf t => if s = t then (.inf s, 0) else (.nan false, flNV)
  | .inf s, .fin _ _ _ => (.inf s, 0)
  | .fin _ _ _, .inf t => (.inf t, 0)
  | .fin s m e, .fin t n k =>
    if m = 0 && n = 0 then (.fin (if s = t then s else rd) 0 0, 0)
    else
      let b := min e k
      let x := signed s (m * 2 ^ (e - b).toNat) + signed t (n * 2 ^ (k - b).toNat)
      (.fin (if x = 0 then rd else x < 0) x.natAbs b, 0)

/-- The exact product. -/
def fvMul (a b : FV) : FV × Flags :=
  match a, b with
  | .nan p, b => (.nan false, (if p then flNV else 0) ||| sigNV b)
  | .inf _, .nan q => (.nan false, if q then flNV else 0)
  | .fin _ _ _, .nan q => (.nan false, if q then flNV else 0)
  | .inf s, .inf t => (.inf (s != t), 0)
  | .inf s, .fin t n _ => if n = 0 then (.nan false, flNV) else (.inf (s != t), 0)
  | .fin s m _, .inf t => if m = 0 then (.nan false, flNV) else (.inf (s != t), 0)
  | .fin s m e, .fin t n k => (.fin (s != t) (m * n) (e + k), 0)

def fvNeg : FV → FV
  | .nan p => .nan p
  | .inf s => .inf (!s)
  | .fin s m e => .fin (!s) m e

/-- Rounds an exact result and joins its flags. -/
def fOut (f : FFmt) (mode : RMode) (flush : Bool) (r : FV × Flags) : FRes :=
  let (n, fl) := fRound f mode flush r.1
  (BitVec.ofNat 128 n, fl ||| r.2)

/-! ## Arithmetic (R130) -/

def fFadd (f : FFmt) (m : RMode) (fz : Bool) (l r : Nat) : FRes :=
  fOut f m fz (fvAdd (m == .rd) (fIn f fz l) (fIn f fz r))
def fFsub (f : FFmt) (m : RMode) (fz : Bool) (l r : Nat) : FRes :=
  fOut f m fz (fvAdd (m == .rd) (fIn f fz l) (fvNeg (fIn f fz r)))
def fFmul (f : FFmt) (m : RMode) (fz : Bool) (l r : Nat) : FRes := fOut f m fz (fvMul (fIn f fz l) (fIn f fz r))
/-- One rounding of the exact x × y + z. -/
def fFfma (f : FFmt) (m : RMode) (fz : Bool) (l r p : Nat) : FRes :=
  let q := fvMul (fIn f fz l) (fIn f fz r)
  let t := fvAdd (m == .rd) q.1 (fIn f fz p)
  fOut f m fz (t.1, t.2 ||| q.2)

/-- x × 2^n; an exponent beyond every format's range acts as one just beyond it. -/
def fvScale (v : FV) (n : Int) : FV :=
  match v with
  | .fin s m e => .fin s m (e + satI (-8000) 8000 n)
  | v => v

def fFscale (f : FFmt) (m : RMode) (fz : Bool) (l r : Nat) : FRes :=
  let x := fIn f fz l
  fOut f m fz (fvScale x (sxNat 32 r), sigNV x)

/-- A finite value rounded to an integer, with whether that is inexact. -/
def fvInt (mode : RMode) (s : Bool) (m : Nat) (e : Int) : Nat × Bool := rndShift mode s m (-e)

def fFrnd (f : FFmt) (m : RMode) (fz : Bool) (l : Nat) : FRes :=
  let x := fIn f fz l
  match x with
  | .fin s k e => fOut f m fz (.fin s (fvInt m s k e).1 0, 0)
  | v => fOut f m fz (v, sigNV v)

/-! ## Minimum, sign, comparison, class (R131, R132) -/

/-- x < y of two values that are no NaN. -/
def fvLt (a b : FV) : Bool :=
  match a, b with
  | .inf s, .inf t => s && !t
  | .inf s, _ => s
  | _, .inf t => !t
  | .fin s m e, .fin t n k =>
    let b := min e k
    signed s (m * 2 ^ (e - b).toNat) < signed t (n * 2 ^ (k - b).toNat)
  | _, _ => false

def fvIsNaN : FV → Bool
  | .nan _ => true
  | _ => false

def fvSign : FV → Bool
  | .fin s _ _ => s
  | .inf s => s
  | _ => false

/-- FMIN (`big` false) and FMAX. -/
def fFminmax (f : FFmt) (fz big : Bool) (l r : Nat) : FRes :=
  let x := fIn f fz l
  let y := fIn f fz r
  let v :=
    if fvIsNaN x then y
    else if fvIsNaN y then x
    else if fvLt x y then (if big then y else x)
    else if fvLt y x then (if big then x else y)
    else if big then (if fvSign x then y else x)
    else (if fvSign x then x else y)
  fOut f .rne false (v, sigNV x ||| sigNV y)

/-- The FSGN minors. -/
inductive SgnKind where
  | cp | neg | xor
  deriving DecidableEq, Repr

def fFsgn (f : FFmt) (k : SgnKind) (l r : Nat) : Val :=
  let w := f.eb + f.fb + 1
  let a := l % 2 ^ w
  if fvIsNaN (fDecode f a) then BitVec.ofNat 128 (fNaN f)
  else
    let sl := a.testBit (w - 1)
    let sr := r.testBit (w - 1)
    let s := match k with
      | .cp => sr
      | .neg => !sr
      | .xor => sl != sr
    BitVec.ofNat 128 (a % 2 ^ (w - 1) + fSignBit f s)

/-- The FCMP minors. -/
inductive FRel where
  | eq | ne | lt | le | gt | ge | un
  deriving DecidableEq, Repr

def fFcmp (f : FFmt) (fz : Bool) (k : FRel) (l r : Nat) : FRes :=
  let x := fIn f fz l
  let y := fIn f fz r
  if fvIsNaN x || fvIsNaN y then
    let quiet := k == .eq || k == .ne || k == .un
    (bool32 (k == .ne || k == .un), if quiet then sigNV x ||| sigNV y else flNV)
  else
    let lt := fvLt x y
    let gt := fvLt y x
    (bool32 (match k with
      | .eq => !lt && !gt
      | .ne => lt || gt
      | .lt => lt
      | .le => !gt
      | .gt => gt
      | .ge => !lt
      | .un => false), 0)

def fFclass (f : FFmt) (l : Nat) : Val :=
  let n : Nat := match fDecode f l with
    | .inf true => 0
    | .inf false => 7
    | .nan true => 8
    | .nan false => 9
    | .fin s m _ =>
      if m = 0 then (if s then 3 else 4)
      else if m < 2 ^ f.fb then (if s then 2 else 5)
      else (if s then 1 else 6)
  BitVec.ofNat 128 (2 ^ n)

/-! ## Conversions (R136) -/

def fFcvt (src dst : FFmt) (m : RMode) (fz : Bool) (l : Nat) : FRes :=
  let x := fIn src fz l
  fOut dst m fz (x, sigNV x)

/-- The range of an integer type. -/
def tyMinI (ty : Ty) : Int := if tySigned ty then -(2 ^ (tyWidth ty - 1)) else 0
def tyMaxI (ty : Ty) : Int := if tySigned ty then 2 ^ (tyWidth ty - 1) - 1 else 2 ^ tyWidth ty - 1

/-- Results of the 8-bit types fill a 32-bit token, sign-extended for s8 (R136). -/
def intToken (ty : Ty) (i : Int) : Val := wrapI (if tyWidth ty < 32 then 32 else tyWidth ty) i

def fFtoi (src : FFmt) (ty : Ty) (m : RMode) (fz : Bool) (l : Nat) : FRes :=
  match fIn src fz l with
  | .nan _ => (0, flNV)
  | .inf s => (intToken ty (if s then tyMinI ty else tyMaxI ty), flNV)
  | .fin s k e =>
    let (n, inx) := fvInt m s k e
    let r := signed s n
    if r < tyMinI ty then (intToken ty (tyMinI ty), flNV)
    else if tyMaxI ty < r then (intToken ty (tyMaxI ty), flNV)
    else (intToken ty r, if inx then flNX else 0)

def fItof (src : Ty) (dst : FFmt) (m : RMode) (fz : Bool) (l : Val) : FRes :=
  let i := ext src (tyWidth src) l
  fOut dst m fz (.fin (i < 0) i.natAbs 0, 0)

def fPack (e : FFmt) (m : RMode) (fz : Bool) (l r : Nat) : FRes :=
  let a := fFcvt fmt32 e m fz l
  let b := fFcvt fmt32 e m fz r
  (BitVec.ofNat 128 (a.1.toNat + 2 ^ 16 * b.1.toNat), a.2 ||| b.2)

def fUnpk (e : FFmt) (fz : Bool) (l : Nat) : FRes :=
  let a := fFcvt e fmt32 .rne fz (l % 2 ^ 16)
  let b := fFcvt e fmt32 .rne fz (l / 2 ^ 16 % 2 ^ 16)
  (BitVec.ofNat 128 (a.1.toNat + 2 ^ 32 * b.1.toNat), a.2 ||| b.2)

/-- FFMA on each element of a pair (R135). -/
def fFma2 (e : FFmt) (m : RMode) (fz : Bool) (l r p : Nat) : FRes :=
  let a := fFfma e m fz (l % 2 ^ 16) (r % 2 ^ 16) (p % 2 ^ 16)
  let b := fFfma e m fz (l / 2 ^ 16 % 2 ^ 16) (r / 2 ^ 16 % 2 ^ 16) (p / 2 ^ 16 % 2 ^ 16)
  (BitVec.ofNat 128 (a.1.toNat + 2 ^ 16 * b.1.toNat), a.2 ||| b.2)

/-! ## Roots and transcendental functions (R133, R134) -/

/-- floor(√n), bit by bit. -/
def isqrtGo (n : Nat) : Nat → Nat → Nat
  | 0, r => r
  | k + 1, r => if (r + 2 ^ k) * (r + 2 ^ k) ≤ n then isqrtGo n k (r + 2 ^ k) else isqrtGo n k r

def isqrt (n : Nat) : Nat := isqrtGo n (Nat.log2 n / 2 + 1) 0

def fFsqrt (m : RMode) (fz : Bool) (l : Nat) : FRes :=
  match fIn fmt32 fz l with
  | .nan p => (BitVec.ofNat 128 (fNaN fmt32), if p then flNV else 0)
  | .inf s => if s then (BitVec.ofNat 128 (fNaN fmt32), flNV) else (BitVec.ofNat 128 (fInfBits fmt32 false), 0)
  | .fin s k e =>
    if k = 0 then (BitVec.ofNat 128 (fSignBit fmt32 s), 0)
    else if s then (BitVec.ofNat 128 (fNaN fmt32), flNV)
    else
      let odd := (e % 2).toNat
      let x := k * 2 ^ (64 + odd)
      let r := isqrt x
      let e' := (e - odd - 64) / 2
      fOut fmt32 m fz (.fin false (2 * r + (if r * r = x then 0 else 1)) (e' - 1), 0)

/-- The spacing of f32 values at the magnitude m × 2^e, as an exponent (R133). -/
def ulpExp (m : Nat) (e : Int) : Int := max (e + Nat.log2 m - 23) (-149)

/-- |a − b| as a dyadic against n × 2^u: |a − b| ≤ n × 2^u − slack, the slack being 2^−40 of the bound. -/
def within (a b : Int × Int) (n : Nat) (u : Int) : Bool :=
  let lo := min (min a.2 b.2) (u - 40)
  let d := (a.1 * 2 ^ (a.2 - lo).toNat - b.1 * 2 ^ (b.2 - lo).toNat).natAbs
  d ≤ (n * 2 ^ (u - lo).toNat - n * 2 ^ (u - 40 - lo).toNat : Nat)

/-- A result known as the dyadic s × m × 2^e to within 2^−64 of itself: what the implementation delivers if
that lies within the bound (n ulp, or 2^u where `abs` gives a larger absolute bound), else the nearest
value (R133, R134; log 4). `exact` says that the delivered bits equal the function's value. A result beyond
the finite range, and FLUSH, are as in round(). -/
def approx (cand : BitVec 32) (fz s : Bool) (m : Nat) (e : Int) (n : Nat) (abs : Option Int)
    (exact : Int → Int → Bool) : FRes :=
  let near := roundFin fmt32 .rne fz s m e
  let u := ulpExp m e
  let bound : Nat × Int := match abs with
    | some a => if u + Nat.log2 n < a then (1, a) else (n, u)
    | none => (n, u)
  match fDecode fmt32 cand.toNat with
  | .fin t k j =>
    if near.2 &&& flOF != 0 then (BitVec.ofNat 128 near.1, near.2)
    else if !within (signed t k, j) (signed s m, e) bound.1 bound.2 then
      (BitVec.ofNat 128 near.1, near.2)
    else if fz && k != 0 && k < 2 ^ 23 then (BitVec.ofNat 128 (fSignBit fmt32 t), flUF ||| flNX)
    else if exact (signed t k) j then (BitVec.ofNat 128 cand.toNat, 0)
    else if k < 2 ^ 23 then (BitVec.ofNat 128 cand.toNat, flUF ||| flNX)
    else (BitVec.ofNat 128 cand.toNat, flNX)
  | _ => (BitVec.ofNat 128 near.1, near.2)

def never : Int → Int → Bool := fun _ _ => false

def fFrcp (fz : Bool) (l : Nat) : FRes :=
  match fIn fmt32 fz l with
  | .nan p => (BitVec.ofNat 128 (fNaN fmt32), if p then flNV else 0)
  | .inf s => (BitVec.ofNat 128 (fSignBit fmt32 s), 0)
  | .fin s k e =>
    if k = 0 then (BitVec.ofNat 128 (fInfBits fmt32 s), flDZ)
    else
      let q := 2 ^ 128 / k
      let m := if q * k = 2 ^ 128 then 2 * q else 2 * q + 1
      approx (Config.frcp (BitVec.ofNat 32 l)) fz s m (-e - 129) 1 none
        (fun c j => j + e ≤ 0 && c * signed s k == 2 ^ (-(j + e)).toNat)

def fFrsq (fz : Bool) (l : Nat) : FRes :=
  match fIn fmt32 fz l with
  | .nan p => (BitVec.ofNat 128 (fNaN fmt32), if p then flNV else 0)
  | .inf s => if s then (BitVec.ofNat 128 (fNaN fmt32), flNV) else (0, 0)
  | .fin s k e =>
    if k = 0 then (BitVec.ofNat 128 (fInfBits fmt32 s), flDZ)
    else if s then (BitVec.ofNat 128 (fNaN fmt32), flNV)
    else
      let odd := (e % 2).toNat
      let x := 2 ^ 200 / (k * 2 ^ odd)
      let r := isqrt x
      let ex := r * r * (k * 2 ^ odd) = 2 ^ 200
      let e' := -((e - odd) / 2) - 100
      approx (Config.frsq (BitVec.ofNat 32 l)) fz false (if ex then 2 * r else 2 * r + 1) (e' - 1) 1 none
        (fun c j => 2 * j + e ≤ 0 && 0 < c && c * c * k == 2 ^ (-(2 * j + e)).toNat)

/-- Fixed point with 100 fraction bits: ln 2, π. -/
def fixOne : Nat := 2 ^ 100
def fixLn2 : Nat := 878668439483319573618263538048
def fixPi : Nat := 3982441812995697363688351113952

/-- e^x for 0 ≤ x < 1 in fixed point, by its series. -/
def fixExpGo (x : Nat) : Nat → Nat → Nat → Nat
  | 0, _, _ => 0
  | n + 1, k, term => term + fixExpGo x n (k + 1) (term * x / fixOne / (k + 1))

def fixExp (x : Nat) : Nat := fixExpGo x 40 0 fixOne

/-- 2 × atanh(z) for 0 ≤ z ≤ 1/3 in fixed point. -/
def fixAtanhGo (z2 : Nat) : Nat → Nat → Nat → Nat
  | 0, _, _ => 0
  | n + 1, k, p => p / (2 * k + 1) + fixAtanhGo z2 n (k + 1) (p * z2 / fixOne)

/-- log2 of y, 1 ≤ y < 2, in fixed point. -/
def fixLog2 (y : Nat) : Nat :=
  let z := (y - fixOne) * fixOne / (y + fixOne)
  2 * fixAtanhGo (z * z / fixOne) 36 0 z * fixOne / fixLn2

/-- The series of sin (`k` starting at 1) and cos (`k` at 0) of x, with alternating signs. -/
def fixSinGo (x2 : Nat) : Nat → Nat → Nat → Bool → Int
  | 0, _, _, _ => 0
  | n + 1, k, term, neg =>
    signed neg term + fixSinGo x2 n (k + 2) (term * x2 / fixOne / ((k + 1) * (k + 2))) (!neg)

/-- sin(πt) and cos(πt) for 0 ≤ t < 1/2, t in fixed point. -/
def fixSin (t : Nat) : Nat := let x := t * fixPi / fixOne; (fixSinGo (x * x / fixOne) 24 1 x false).toNat
def fixCos (t : Nat) : Nat := let x := t * fixPi / fixOne; (fixSinGo (x * x / fixOne) 24 0 fixOne false).toNat

/-- The dyadic m × 2^e in fixed point, rounded down; e is at most 0 or the value is small. -/
def toFix (m : Nat) (e : Int) : Nat :=
  let sh := e + 100
  if 0 ≤ sh then m * 2 ^ sh.toNat else m / 2 ^ (-sh).toNat

/-- FEXP2 (R133, R134). 2^n is exact for an integer n from −149, where f32 can represent it; below that the result is an ordinary
one within the bound. +∞ gives +∞ exactly, which is no overflow, and raises no flag: the column "OF, NX when x ≥ 128" is read
as the finite x (R125; log 43, DEDUCED). -/
def fFexp2 (fz : Bool) (l : Nat) : FRes :=
  match fIn fmt32 fz l with
  | .nan p => (BitVec.ofNat 128 (fNaN fmt32), if p then flNV else 0)
  | .inf s => (if s then 0 else BitVec.ofNat 128 (fInfBits fmt32 false), 0)
  | .fin s k e =>
    let e := if k = 0 then 0 else e
    let power := fun (n : Int) =>
      if n < -149 then approx (Config.fexp2 (BitVec.ofNat 32 l)) fz false 2 (n - 1) 2 none never
      else fOut fmt32 .rne fz (.fin false 1 n, 0)
    if 10 < e then power (if s then -8000 else 8000)
    else if k % 2 ^ (-e).toNat = 0 then
      power (satI (-8000) 8000 (signed s (if 0 ≤ e then k * 2 ^ e.toNat else k / 2 ^ (-e).toNat)))
    else
      let ip := k / 2 ^ (-e).toNat
      let fr := toFix (k % 2 ^ (-e).toNat) e
      let n : Int := satI (-8000) 8000 (if s then -(ip : Int) - 1 else ip)
      let g := if s then fixOne - fr else fr
      let y := fixExp (g * fixLn2 / fixOne)
      approx (Config.fexp2 (BitVec.ofNat 32 l)) fz false (2 * y + 1) (n - 101) 2 none never

def fFlog2 (fz : Bool) (l : Nat) : FRes :=
  match fIn fmt32 fz l with
  | .nan p => (BitVec.ofNat 128 (fNaN fmt32), if p then flNV else 0)
  | .inf s => if s then (BitVec.ofNat 128 (fNaN fmt32), flNV) else (BitVec.ofNat 128 (fInfBits fmt32 false), 0)
  | .fin s k e =>
    if k = 0 then (BitVec.ofNat 128 (fInfBits fmt32 true), flDZ)
    else if s then (BitVec.ofNat 128 (fNaN fmt32), flNV)
    else
      let n : Int := e + Nat.log2 k
      if k = 2 ^ Nat.log2 k then fOut fmt32 .rne fz (.fin (n < 0) n.natAbs 0, 0)
      else
        let y := toFix k (-(Nat.log2 k : Int))
        let v : Int := n * fixOne + fixLog2 y
        let nearOne := n = 0 || n = -1
        approx (Config.flog2 (BitVec.ofNat 32 l)) fz (v < 0) (2 * v.natAbs + 1) (-101) 2
          (if nearOne then some (-22) else none) never

/-- sin(πx) and cos(πx) of |x| = k × 2^e, with no integer or half-integer: magnitudes and signs. -/
def sincosPi (s : Bool) (k : Nat) (e : Int) : (Bool × Nat) × (Bool × Nat) :=
  let d := (-e).toNat
  let t := k % 2 ^ (d + 1)
  let quad := t * 2 / 2 ^ d
  let r := toFix (t * 2 % 2 ^ d) (e - 1)
  let a := fixSin r
  let b := fixCos r
  match quad with
  | 0 => ((s, a), (false, b))
  | 1 => ((s, b), (true, a))
  | 2 => ((!s, a), (true, b))
  | _ => ((!s, b), (false, a))

def fFsincos (fz : Bool) (l : Nat) : FRes :=
  let pair := fun (a b : Nat) => BitVec.ofNat 128 (a + 2 ^ 32 * b)
  let one := fun (s : Bool) => fSignBit fmt32 s + 0x3F800000
  match fIn fmt32 fz l with
  | .nan p => (pair (fNaN fmt32) (fNaN fmt32), if p then flNV else 0)
  | .inf _ => (pair (fNaN fmt32) (fNaN fmt32), flNV)
  | .fin s k e =>
    let e := if k = 0 then 0 else e
    let d := (-e).toNat
    if k % 2 ^ d = 0 then
      let odd := if 0 < e then false else k / 2 ^ d % 2 == 1
      (pair (fSignBit fmt32 s) (one odd), 0)
    else if k * 2 % 2 ^ d = 0 then
      let odd := k / 2 ^ d % 2 == 1
      (pair (one (s != odd)) 0, 0)
    else
      let (a, b) := sincosPi s k e
      let x := BitVec.ofNat 32 l
      let ra := approx (Config.fsin x) fz a.1 (2 * a.2 + 1) (-101) 1 (some (-22)) never
      let rb := approx (Config.fcos x) fz b.1 (2 * b.2 + 1) (-101) 1 (some (-22)) never
      (pair ra.1.toNat rb.1.toNat, ra.2 ||| rb.2)

def fFtanh (fz : Bool) (l : Nat) : FRes :=
  match fIn fmt32 fz l with
  | .nan p => (BitVec.ofNat 128 (fNaN fmt32), if p then flNV else 0)
  | .inf s => (BitVec.ofNat 128 (fSignBit fmt32 s + 0x3F800000), 0)
  | .fin s k e =>
    if k = 0 then (BitVec.ofNat 128 (fSignBit fmt32 s), 0)
    else
      let x := BitVec.ofNat 32 l
      let top := e + Nat.log2 k
      if top < -30 then approx (Config.ftanh x) fz s (2 ^ 70 * k - 1) (e - 70) 2 (some (-22)) never
      else if 5 < top then approx (Config.ftanh x) fz s (2 ^ 70 - 1) (-70) 2 (some (-22)) never
      else
        let y := 2 * toFix k e
        let n := y / fixLn2
        let g := fixOne * fixOne / fixExp (y % fixLn2) / 2 ^ n
        approx (Config.ftanh x) fz s (2 * ((fixOne - g) * fixOne / (fixOne + g)) + 1) (-101) 2 (some (-22)) never

end Sys2Proof.Machine
end

