-- ==== Sys2Proof/Machine/State.lean ====
section
/-! DEFINITION. The state of the package: everything the specification gives the machine, as plain data,
and the state after reset. -/

namespace Sys2Proof.Machine

/-! ## Tenancy, the host link and the management processor -/

/-- Where one team of a launch stands (R300, R323, R324). -/
inductive TeamStatus where
  | unplaced | placed (team : Nat) | saved | retired
  deriving DecidableEq, Repr

/-- An accepted launch in the ready store (R295): its sequence number, record, region, the status of each
team by number, the first team number never placed, and the outcome its done word will report (R301); `after` is the GWCT that the
host's writes before the acceptance had reached (R299). -/
structure Launch where
  seq : Nat
  lrec : LaunchRec
  rnum : Nat
  next : Nat := 0
  teams : Tab TeamStatus := []
  status : Nat := 0
  reason : Nat := 0
  gwct : Nat := 0
  after : Nat := 0
  deriving DecidableEq, Repr

/-- A code page installed by the loader (R368): its physical page, hash and verified bit. -/
structure CodePage where
  vpage : Nat
  ppage : Nat
  hash : BitVec 256
  verified : Bool := false
  deriving DecidableEq, Repr

/-- A loaded code object (R365): its number, its image's range, its code segments as start and end
addresses, its code pages, and whether it is revoked (R334). -/
structure CodeObj where
  num : Nat
  base : Nat
  size : Nat
  segs : List (Nat × Nat)
  pages : List CodePage
  revoked : Bool := false
  deriving DecidableEq, Repr

/-- The states of a TDISP interface (R341). -/
inductive TdState where
  | configUnlocked | configLocked | run | error
  deriving DecidableEq, Repr

/-- The answers to TDISP requests (R341, R343). -/
inductive TdAnswer where
  | error | done | state (t : TdState) | report (fields : List Nat) (digest : BitVec 256) (sig : List Byte)
  deriving DecidableEq, Repr

/-- The TDISP requests (R341); `bound` says that IDE_KM has bound a stream to the VF (log 46). -/
inductive TdReq where
  | state (vf : Nat)
  | lock (vf : Nat) (bound : Bool)
  | report (vf : Nat)
  | start (vf : Nat)
  | stop (vf : Nat)
  deriving DecidableEq, Repr

/-- A team saved in a context image (R324): the image's physical address and length, the team's handle, and what the image's
sections do not hold or leave to the part (log 11): the team's place in its launch and the model's own fields, a holder's weight
buffer, and the scan chain's contents. `publishes` are the requests whose auto-publish is deferred to the restore (R324), `owed` the
bytes, by barrier, that publishes of other teams have settled since the save (R188). -/
structure SavedTeam where
  addr : Nat
  size : Nat
  id : Nat
  team : Team
  mat : Option Matrix
  grid : Option Grid
  publishes : List CopyReq
  owed : List (Nat × Nat) := []
  deriving DecidableEq, Repr

/-- A region to scan (R294): whether another wake came meanwhile, the LTAIL up to which its records are taken (`none`:
not read yet, or a conditional node still to be evaluated, R293), and whether the scan stopped at a full ready store
(R295). -/
structure Scan where
  rnum : Nat
  again : Bool := false
  upTo : Option Nat := none
  hold : Bool := false
  deriving DecidableEq, Repr

/-- A virtual function, or the PF as tenant 0, and its tenant (R302, R337, R340): `bits` and `older` are
the access bitmaps of the current and the previous slice by 2^48 × slot + physical unit (R304), `roots` the
cycles of core time of each root region in the slice (R308), `report` the contents of the interface report as
LOCK_INTERFACE froze them (R343). `rebound` says that the VF is reached through the other host port (R336), `frdue`
holds the GWCTs of the fault records that are written and that FRHEAD does not count yet (R339), and `ovfAt` is one more than the last
cycle in which hardware set OVF (R9). -/
structure Tenant where
  cfg : TenantCfg := ⟨0, 0, 100, 0, 0, [], [], []⟩
  bound : Bool := false
  enabled : Bool := false
  ready : List Launch := []
  nextSeq : BitVec 32 := 0
  scans : List Scan := []
  gviews : List GView := []
  bits : Tab Bool := []
  older : Tab Bool := []
  roots : Tab Nat := []
  saved : List SavedTeam := []
  keys : Tab (List Byte) := []
  objs : List CodeObj := []
  nextObj : Nat := 1
  frbase : BitVec 64 := 0
  frctl : BitVec 32 := 0
  frhead : BitVec 32 := 0
  frdue : List Nat := []
  frtail : BitVec 32 := 0
  ovf : Bool := false
  ovfAt : Nat := 0
  tdisp : TdState := .configUnlocked
  report : List Nat × BitVec 256 := ([], 0)
  rebound : Bool := false
  resetting : Bool := false
  deriving DecidableEq, Repr

/-- Where a partition stands in the steps of R306: in a slice, pre-empting the outgoing tenant's teams (steps 2 to 4,
which BURNISHER_RUN ends), or demoting its pages (step 5). -/
inductive SwitchStep where
  | slice | preempt | demote
  deriving DecidableEq, Repr

/-- A partition (R302): its core groups and tier-1 allocation, the tenant that holds the slice and since
when, the step of a switch in progress with the next tenant, and whose working set is being promoted. -/
structure Partition where
  id : Nat := 0
  groups : List Nat := []
  tier1 : List (Nat × Nat) := []
  current : Option Nat := none
  since : Nat := 0
  step : SwitchStep := .slice
  next : Option Nat := none
  promoting : Option Nat := none
  deriving DecidableEq, Repr

/-- A physical 64 KiB page that a die has claimed (R163). -/
structure Claim where
  vf : Nat
  die : Nat
  page : Nat
  deriving DecidableEq, Repr

/-- A CRED whose team was saved while its instance was in flight (R196, R327): the request, its core, and the
end of the instance. -/
structure CredInst where
  copy : CopyReq
  core : Nat
  outcome : Option TokState := none
  deriving DecidableEq, Repr

/-- A selective IDE stream that is bound to a VF (R341): its host port, the VF, and the free value that stands for its key. -/
structure IdeStream where
  port : Nat
  vf : Nat
  key : Nat
  deriving DecidableEq, Repr

/-- The mailbox and the boot status of the PF (R340, R349). `cmd` and `rpl` are MBCMD and MBRPL by byte,
`run` the copy of the command block that a command works on, `out` its reply to come and `after` the GWCT that its release waits for
(R365); `lostAt` and `doneAt` are as `ovfAt` for LOST and DONE (R9). -/
structure Mailbox where
  cmd : Tab Byte := []
  rpl : Tab Byte := []
  run : Tab Byte := []
  out : Tab Byte := []
  after : Nat := 0
  last : Nat := 0
  lost : Bool := false
  done : Bool := false
  busy : Bool := false
  lostAt : Nat := 0
  doneAt : Nat := 0
  deriving DecidableEq, Repr

/-- The modes of R349. -/
inductive BootMode where
  | booting | full | halter | held
  deriving DecidableEq, Repr

/-- The boot status (R347, R349): `holdUntil` ends the 10 ms of held reset after a failed start, `tests` are what the parts answer
to the start in progress, `cdie` is Halter mode's compute die, `piles` the piles of tier 1. `cxl` are the sizes in GiB of the CXL
memory behind IO0 and IO1, and `cxlUse` says which of them the firmware has added to tier 2 (R345). -/
structure Boot where
  mode : BootMode := .booting
  stage : Nat := 0
  starts : Nat := 0
  reason : Nat := 0
  t2 : BitVec 2 := 0
  holdUntil : Option Nat := none
  powered : Bool := true
  tests : Option StartTests := none
  cdie : Nat := 0
  piles : Nat := 8
  cxl : List Nat := []
  cxlUse : BitVec 2 := 0
  deriving DecidableEq, Repr

/-! ## The machine -/

/-- What the next step does (the model's own field, log 1): a word issues on a unit, or one of the machine's
own steps takes place, or a unit reads the next 16-byte piece of the resource entry or launch record at an address. With nothing
chosen a cycle passes. -/
inductive Choice where
  | issue (team unit : Nat)
  | event (i : Instr)
  | readPiece (team unit addr : Nat)
  deriving DecidableEq, Repr

/-- The pieces of 16 bytes of the entry or record at an address that a unit has read so far in a cycle (R287, R310; the model's own
field, log 1). -/
structure PieceRead where
  owner : Nat × Nat
  addr : Nat
  cycle : Nat
  pieces : List Nat
  deriving DecidableEq, Repr

/-- The package. `agenda` (which party moves next), `issuer` (the unit that the word in hand issues on), `seen`, `free` (the counter
of free values), `nextId` and `nextTeam` (handles) are the model's own. `ioLast` is the GWCT of the last posted write of each
source (R153); `hub` are the lines of the hub cache (R11), most recently used first; `ofs`, `lat` and `rr` are the time-zone table
(R273), `lat` and `rr` by 16 × from + to, and `fuseLat` and `fuseOfs` the fused values that every reset copies; `retiredCores` are
physical cores out of use by 64 × die + core (R24); `ports` the lanes of scale-out ports 0 to 11 and `hostLanes` those of the two
host ports, of which `hostCxl` says those that trained as CXL (R336, R344, R346); `vfBar` is the VF BAR's base and `vfMse` VF MSE of
the SR-IOV capability (R342), and `ide` are the selective IDE streams in use (R341); `msix` the vectors signalled to the host and
`tdAnswers` the TDISP answers, newest first, `tdStop` the VF whose STOP_INTERFACE waits for its reset, and `tdWaiting` the requests
that arrived since (R341, R342); `cxlWindow` is the base and size of the device-memory window and `cxlData` what the
last read through it returned (R344). -/
structure State where
  ptc : Nat := 0
  agenda : List Choice := []
  issuer : Nat × Nat := (0, 0)
  seen : Option PieceRead := none
  free : Nat := 0
  nextId : Nat := 0
  nextTeam : Nat := 0
  mem : List Host.Cell := []
  memPoison : Tab Bool := []
  reqs : List MemReq := []
  loads : List LoadReq := []
  ioLast : Tab Nat := []
  hub : List Nat := []
  dies : Tab Die := []
  cores : Tab Core := []
  teams : Tab Team := []
  tenants : Tab Tenant := []
  parts : Tab Partition := []
  claims : List Claim := []
  creds : List CredInst := []
  place : Tab (BitVec 32) := []
  retiredCores : List Nat := []
  ofs : Tab Int := []
  lat : Tab (BitVec 8) := []
  rr : Tab Bool := []
  fuseLat : Tab (BitVec 8) := []
  fuseOfs : Tab Int := []
  staged : Option Layout := none
  boot : Boot := {}
  mbox : Mailbox := {}
  fwActive : List Byte := []
  fwNext : Option (List Byte) := none
  ports : Tab Nat := []
  hostLanes : Tab Nat := []
  hostCxl : Tab Bool := []
  vfBar : Nat := 0
  vfMse : Bool := false
  ide : List IdeStream := []
  currentCap : Bool := false
  msix : List (Nat × Nat) := []
  tdAnswers : List (Nat × TdAnswer) := []
  tdStop : Option Nat := none
  tdWaiting : List TdReq := []
  cxlData : List Byte := []
  cxlWindow : Nat × Nat := (0, 0)
  deriving DecidableEq, Repr

/-! ## Stops -/

/-- Why the machine stops with a fault. -/
inductive Fault where
  /-- A host's posted write named a physical address outside the map of R143 ("Addresses outside these ranges are not part of the
  map"), or a CXL.mem access bytes outside the window of R344. Raised by these two only. Safe: the specification gives such an
  access no effect (log 33). -/
  | physicalHole
  deriving DecidableEq, Repr

/-- Why the machine refuses to go on. -/
inductive Refusal where
  /-- The instruction has no meaning yet. Raised by the dispatch. Safe: the machine stops. -/
  | notModelled (mnemonic : String)
  /-- An access reached a device register of the package (R143) other than the time-zone table of R273 and the place entries of
  R21; the specification names no such register. Raised by loads, stores, copies, the reads of WAITX and the host's posted writes
  where they reach it. Safe: the machine stops. -/
  | deviceRegister
  deriving DecidableEq, Repr

/-! ## Reset -/

/-- The fused latency from one die to another after reset: 1 cycle, 0 to itself (R273; the values are the
model's choice, log 6). Dies 0 to 10. -/
def resetLat : Tab (BitVec 8) :=
  ((List.range 176).filter (fun k => k % 16 < 11 && k / 16 != k % 16)).map (fun k => (k, 1))

/-- The machine right after reset (R349: MODE 0, STAGE 0): nothing placed, memory with nothing listed, and
every register at zero but those that R315, R264 and R273 give otherwise; what the model chose are logs 6, 7 and 35. -/
def State.reset : State := { lat := resetLat, fuseLat := resetLat }

/-- What a step answers. -/
abbrev Result := Host.Outcome State Fault Refusal

end Sys2Proof.Machine
end

