-- ==== Sys2Proof/Machine/Tabs.lean ====
section
/-! DEFINITION. Keyed tables and memory: reading and writing, always in canonical form (keys strictly
rising, no entry equal to what an unlisted key reads as). -/

namespace Sys2Proof.Machine

/-- What a key reads as. -/
def tabGet {α : Type} (d : α) : Tab α → Nat → α
  | [], _ => d
  | (j, v) :: t, k => if k = j then v else tabGet d t k

/-- A table with one key changed; the default removes the entry. -/
def tabSet {α : Type} [DecidableEq α] (d : α) : Tab α → Nat → α → Tab α
  | [], k, v => if v = d then [] else [(k, v)]
  | (j, w) :: t, k, v =>
    if k < j then (if v = d then (j, w) :: t else (k, v) :: (j, w) :: t)
    else if k = j then (if v = d then t else (k, v) :: t)
    else (j, w) :: tabSet d t k v

/-- The entry of a key, in a table where a key may be absent. -/
def tabFind {α : Type} : Tab α → Nat → Option α
  | [], _ => none
  | (j, v) :: t, k => if k = j then some v else tabFind t k

/-- A table with one entry present. -/
def tabPut {α : Type} : Tab α → Nat → α → Tab α
  | [], k, v => [(k, v)]
  | (j, w) :: t, k, v =>
    if k < j then (k, v) :: (j, w) :: t
    else if k = j then (k, v) :: t
    else (j, w) :: tabPut t k v

/-- A table with one entry gone. -/
def tabErase {α : Type} (t : Tab α) (k : Nat) : Tab α := t.filter (fun e => e.1 != k)

/-- Every present entry changed in place. -/
def tabMap {α : Type} (f : Nat → α → α) (t : Tab α) : Tab α := t.map (fun e => (e.1, f e.1 e.2))

/-- Every entry of a table with a default changed; entries that become the default go. -/
def tabMapD {α : Type} [DecidableEq α] (d : α) (f : Nat → α → α) (t : Tab α) : Tab α :=
  (tabMap f t).filter (fun e => e.2 != d)

/-- The table with an entry for each key below `n`. -/
def tabBuild {α : Type} [DecidableEq α] (d : α) (n : Nat) (f : Nat → α) : Tab α :=
  (List.range n).filterMap (fun i => if f i = d then none else some (i, f i))

/-- The canonical form: keys strictly rising and no default entry. -/
def tabWf {α : Type} [DecidableEq α] (d : α) : Tab α → Bool
  | [] => true
  | (k, v) :: t => v != d && t.all (fun e => k < e.1) && tabWf d t

/-- Keys strictly rising, for tables in which a key may be absent. -/
def tabSorted {α : Type} : Tab α → Bool
  | [] => true
  | (k, _) :: t => t.all (fun e => k < e.1) && tabSorted t

/-! ## Memory -/

/-- What a byte of memory that nothing has written reads as (log 7: zero, DESIGN CHOICE). -/
def memDefault : Byte := 0

/-- The canonical form of memory. -/
def Memory.wf (m : List (Nat × Byte)) : Bool := tabWf memDefault m

/-- One byte. -/
def memByte (m : List (Nat × Byte)) (a : Nat) : Byte := tabGet memDefault m a

/-- One byte written. -/
def memSetByte (m : List (Nat × Byte)) (a : Nat) (b : Byte) : List (Nat × Byte) := tabSet memDefault m a b

/-- `n` bytes from `a` as a little-endian number (R5). -/
def tabNum (m : Tab Byte) (a : Nat) : Nat → Nat
  | 0 => 0
  | n + 1 => (tabGet 0 m a).toNat + 256 * tabNum m (a + 1) n

/-- `n` bytes of `v` written from `a`, least significant first (R5). -/
def tabSetNum (m : Tab Byte) (a : Nat) : Nat → Nat → Tab Byte
  | 0, _ => m
  | n + 1, v => tabSet 0 (tabSetNum m (a + 1) n (v / 256)) a (BitVec.ofNat 8 v)

/-- `n` bytes from `a` of memory, little-endian. -/
def memNum (m : List (Nat × Byte)) (a n : Nat) : Nat := tabNum m a n

/-- `n` bytes of memory written. -/
def memSetNum (m : List (Nat × Byte)) (a n v : Nat) : List (Nat × Byte) := tabSetNum m a n v

/-- A list of bytes as a little-endian number. -/
def bytesNum : List Byte → Nat
  | [] => 0
  | b :: bs => b.toNat + 256 * bytesNum bs

/-- The `n` low bytes of a number, least significant first. -/
def numBytes : Nat → Nat → List Byte
  | 0, _ => []
  | n + 1, v => BitVec.ofNat 8 v :: numBytes n (v / 256)

/-- The bytes of a range of memory. -/
def memBytes (m : List (Nat × Byte)) (a n : Nat) : List Byte := numBytes n (memNum m a n)

/-- A list of bytes written from `a`. -/
def memSetBytes (m : List (Nat × Byte)) (a : Nat) (bs : List Byte) : List (Nat × Byte) :=
  memSetNum m a bs.length (bytesNum bs)

end Sys2Proof.Machine
end

