-- ==== Sys2Proof/Machine/Access.lean ====
section
/-! DEFINITION. Named reads and updates of the parts of State: teams, units, cores, dies, tenants, time,
counters and scoreboard tokens. Every other file goes through these. -/

namespace Sys2Proof.Machine

/-! ## Parts of the state -/

def getTeam (s : State) (t : Nat) : Option Team := tabFind s.teams t
def putTeam (s : State) (t : Nat) (T : Team) : State := { s with teams := tabPut s.teams t T }
def updTeam (s : State) (t : Nat) (f : Team → Team) : State :=
  match getTeam s t with
  | some T => putTeam s t (f T)
  | none => s

def getUnit (s : State) (t u : Nat) : Option WUnit := (getTeam s t).bind (fun T => tabFind T.units u)
def updUnit (s : State) (t u : Nat) (f : WUnit → WUnit) : State :=
  updTeam s t (fun T => match tabFind T.units u with
    | some w => { T with units := tabPut T.units u (f w) }
    | none => T)

/-- Every unit of a team changed. -/
def updUnits (s : State) (t : Nat) (f : Nat → WUnit → WUnit) : State :=
  updTeam s t (fun T => { T with units := tabMap f T.units })

def updFlight (s : State) (t u : Nat) (f : Flight → Flight) : State :=
  updUnit s t u (fun w => { w with flight := w.flight.map f })

def getCore (s : State) (c : Nat) : Core := tabGet {} s.cores c
def updCore (s : State) (c : Nat) (f : Core → Core) : State :=
  { s with cores := tabSet {} s.cores c (f (getCore s c)) }

def getDie (s : State) (d : Nat) : Die := tabGet {} s.dies d
def updDie (s : State) (d : Nat) (f : Die → Die) : State :=
  { s with dies := tabSet {} s.dies d (f (getDie s d)) }

def getTenant (s : State) (vf : Nat) : Tenant := tabGet {} s.tenants vf
def updTenant (s : State) (vf : Nat) (f : Tenant → Tenant) : State :=
  { s with tenants := tabSet {} s.tenants vf (f (getTenant s vf)) }

def getPart (s : State) (p : Nat) : Option Partition := tabFind s.parts p
def updPart (s : State) (p : Nat) (f : Partition → Partition) : State :=
  match getPart s p with
  | some P => { s with parts := tabPut s.parts p (f P) }
  | none => s

/-- The logical die of a logical core (R19). -/
def dieOf (core : Nat) : Nat := core / 36

/-- The core groups of a partition as logical cores that are in service (R19, R21). -/
def partCores (s : State) (P : Partition) : List Nat :=
  (List.range 288).filter (fun c => P.groups.contains (c / 4) && (tabGet 0 s.place c).getLsbD 31)

/-- Logical cores of a tenant's partition, sr.ncores (R315). -/
def ncores (s : State) (vf : Nat) : Nat :=
  match getPart s (getTenant s vf).cfg.part with
  | some P => (partCores s P).length
  | none => 0

/-! ## Time (R62, R273) -/

/-- The hub's count, a 64-bit counter. -/
def hubPtc (s : State) : Nat := s.ptc % 2 ^ 64

/-- The physical die of a logical one: in Halter mode logical die 0 is the compute die in service (R20, R348). -/
def physDie (s : State) (d : Nat) : Nat := if s.boot.mode == .halter && d == 0 then s.boot.cdie else d

/-- ptc() on a die: the hub's counter and the die's fixed offset; 0 before the die's counter starts. -/
def diePtc (s : State) (d : Nat) : Nat := ((s.ptc : Int) + tabGet 0 s.ofs (physDie s d)).toNat

/-- A fresh value of the free counter (log 2). -/
def freshFree (s : State) : State × Nat := ({ s with free := s.free + 1 }, s.free)

/-- A fresh identifier of a request. -/
def freshId (s : State) : State × Nat := ({ s with nextId := s.nextId + 1 }, s.nextId)

/-! ## Counters (R321) -/

def bump (s : State) (core ctr n : Nat) : State :=
  updCore s core (fun c =>
    { c with counters := tabSet 0 c.counters ctr (tabGet 0 c.counters ctr + BitVec.ofNat 64 n) })

/-! ## Scoreboard tokens (R36, R181) -/

def getTok (w : WUnit) (sb : Nat) : SbTok := tabGet {} w.toks sb
def setTok (w : WUnit) (sb : Nat) (k : SbTok) : WUnit := { w with toks := tabSet {} w.toks sb k }

/-- A token is busy: not completed (R36, R181). A token that an ordinary instruction set completes with
the result, at `promise`. -/
def tokBusy (now : Nat) (k : SbTok) : Bool :=
  match k.state with
  | .pending | .slow | .late => true
  | .complete => !k.copy && now < k.promise
  | .failed | .withdrawn | .cancelled => false

/-- The token number that SBSET names, if valid. -/
def sbOf (c : Ctl) : Option Nat := if c.sbset.getLsbD 3 then some (c.sbset.extractLsb' 0 3).toNat else none

/-- Completes a unit's token if request `req` set it last. -/
def completeTok (s : State) (t u : Nat) (sb : Option Nat) (req : Nat) (st : TokState) : State :=
  match sb with
  | none => s
  | some b => updUnit s t u (fun w =>
      if (getTok w b).req = req && tokBusy 0 (getTok w b) then
        setTok w b { (getTok w b) with state := st } else w)

/-! ## Units -/

/-- Lanes of a unit: 128 on a warp, 1 on the Bridle (R88). -/
def laneCount (u : Nat) : Nat := if u = 16 then 1 else 128

/-- Cycles of an issue slot: eight on a warp, one on the Bridle (R7, R14). -/
def slotCycles (u : Nat) : Nat := if u = 16 then 1 else 8

/-- The v bound of a unit (R43, R88). -/
def vBound (T : Team) (u : Nat) : Nat := if u = 16 then 128 else T.lrec.regs

def getSplit (w : WUnit) (i : Nat) : SplitEntry := tabGet {} w.splits i
def setSplit (w : WUnit) (i : Nat) (e : SplitEntry) : WUnit := { w with splits := tabSet {} w.splits i e }

/-- The lowest lane of a mask. -/
def lowLane (m : BitVec 128) : Nat := ((List.range 128).find? (fun i => m.getLsbD i)).getD 128

/-! ## Registers (R88 to R90) -/

def vKey (r lane : Nat) : Nat := 128 * r + lane
def getV (w : WUnit) (r lane : Nat) : Word := tabGet 0 w.v (vKey r lane)
def getK (w : WUnit) (r : Nat) : Word64 := tabGet 0 w.k r
def getQ (w : WUnit) (r lane : Nat) : Bool := tabGet false w.q (vKey r lane)
def setV (w : WUnit) (r lane : Nat) (x : Word) : WUnit :=
  { w with v := tabSet 0 w.v (vKey r lane) x, vPoison := tabSet false w.vPoison (vKey r lane) false }
def setK (w : WUnit) (r : Nat) (x : Word64) : WUnit :=
  { w with k := tabSet 0 w.k r x, kPoison := tabSet false w.kPoison r false }
def setQ (w : WUnit) (r lane : Nat) (x : Bool) : WUnit :=
  { w with q := tabSet false w.q (vKey r lane) x, qPoison := tabSet false w.qPoison (vKey r lane) false }

/-- A value of `width` bits written to one lane of v space, 32 bits to a register (R90). -/
def setVs (w : WUnit) (r lane width : Nat) (x : Val) : WUnit :=
  (List.range (vRegs width)).foldl (fun w i => setV w (r + i) lane (BitVec.ofNat 32 (x.toNat / 2 ^ (32 * i)))) w

/-- A value written to k space: a narrow one is extended, sign-extended where `signed` (R98); 128 bits take
a pair. -/
def setKs (w : WUnit) (r width : Nat) (signed : Bool) (x : Val) : WUnit :=
  if 64 < width then setK (setK w r (BitVec.ofNat 64 x.toNat)) (r + 1) (BitVec.ofNat 64 (x.toNat / 2 ^ 64))
  else setK w r (if signed then BitVec.ofInt 64 (sx width x) else BitVec.ofNat 64 (zx width x))

/-- Marks the registers of a value as poisoned in one lane (R74). -/
def poisonReg (w : WUnit) (d : RegDest) : WUnit :=
  if d.space = 1 then
    let t := (List.range (if 64 < d.width then 2 else 1)).foldl
      (fun t i => tabSet false t (d.index + i) true) w.kPoison
    { w with kPoison := t }
  else if d.space = 2 then { w with qPoison := tabSet false w.qPoison (vKey d.index d.lane) true }
  else
    let t := (List.range (vRegs d.width)).foldl
      (fun t i => tabSet false t (vKey (d.index + i) d.lane) true) w.vPoison
    { w with vPoison := t }

/-- Writes a register lane that waited for an atomic (R159). -/
def writeReg (w : WUnit) (d : RegDest) (x : Val) : WUnit :=
  if d.space = 1 then setKs w d.index d.width d.signed x
  else if d.space = 2 then setQ w d.index d.lane (zx d.width x != 0)
  else setVs w d.index d.lane d.width x

/-- The operand buffer's copies brought up to date with the register file (R93). -/
def syncBuf (w : WUnit) : WUnit :=
  { w with opBuf := w.opBuf.map (fun e =>
      if e.space = 1 then
        { e with vals := tabSet 0 [] 0 (getK w e.index), poison := tabSet false [] 0 (tabGet false w.kPoison e.index) }
      else
        { e with vals := (w.v.filter (fun x => x.1 / 128 == e.index)).map (fun x => (x.1 % 128, x.2.setWidth 64)),
                 poison := (w.vPoison.filter (fun x => x.1 / 128 == e.index)).map (fun x => (x.1 % 128, x.2)) }) }

end Sys2Proof.Machine
end

