-- ==== Sys2Proof/Machine/Memory.lean ====
section
/-! DEFINITION. Memory: the physical map, translation, single-copy-atomic pieces, views, homes, leases,
visibility on a die, poison and the scratchpad (chapter 6, R184). -/

namespace Sys2Proof.Machine

/-! ## The physical map (R143) -/

/-- What a physical address reaches. -/
inductive PaKind where
  | tier1 | tier2 | cxl | device | host | hole
  deriving DecidableEq, Repr

/-- R143, with tier 1 as large as the piles that trained (R348), the halves of tier 2 that are present (R347, R349), and as much
CXL memory from the start of each half of its range as is behind the I/O die (R345; its place in the half is log 46's). -/
def paKind (s : State) (pa : Nat) : PaKind :=
  if pa < s.boot.piles * 2 ^ 36 then .tier1
  else if 0x20000000000 ≤ pa && pa < 0x30000000000 && s.boot.t2.getLsbD 0 then .tier2
  else if 0x30000000000 ≤ pa && pa < 0x40000000000 && s.boot.t2.getLsbD 1 then .tier2
  else if 0x100000000000 ≤ pa && pa < 0x100000000000 + s.boot.cxl.getD 0 0 * 2 ^ 30 then .cxl
  else if 0x180000000000 ≤ pa && pa < 0x180000000000 + s.boot.cxl.getD 1 0 * 2 ^ 30 then .cxl
  else if 0x40000000000000 ≤ pa && pa < 0x40010000000000 then .device
  else if 0x100000000000000 ≤ pa && pa < 0x200000000000000 then .host
  else .hole

/-- The place of the byte behind a physical address: bit 55 of a host address only selects the I/O die, and the bytes of host memory
are the same through either (R143). -/
def cellOf (pa : Nat) : Nat := if pa / 2 ^ 56 = 1 then 2 ^ 56 + pa % 2 ^ 55 else pa

/-- The I/O die through which a host address is reached: IO0 or IO1 (R143). -/
def hostIo (pa : Nat) : Nat := 9 + pa / 2 ^ 55 % 2

/-- A line homed at the hub or at a claiming die (R146). -/
def homedPa (s : State) (pa : Nat) : Bool :=
  match paKind s pa with
  | .tier1 | .tier2 | .cxl => true
  | _ => false

/-! ## Poison marks (R161) -/

def granulePoisoned (s : State) (g : Nat) : Bool := tabGet false s.memPoison g

/-- The granules of a range. -/
def granules (pa n : Nat) : List Nat :=
  if n = 0 then [] else (List.range ((pa + n - 1) / 32 + 1 - pa / 32)).map (fun i => pa / 32 + i)

def rangePoisoned (s : State) (pa n : Nat) : Bool := (granules pa n).any (granulePoisoned s)

/-! ## Translation (R141 to R145) -/

/-- R141: bits [63:57] all equal bit 56. -/
def canonical (va : Nat) : Bool := va / 2 ^ 56 % 2 ^ 8 == 0 || va / 2 ^ 56 % 2 ^ 8 == 255

def mtOf (n : Nat) : Option MemType :=
  match n with
  | 0 => some .cached
  | 1 => some .uncacheable
  | 2 => some .device
  | _ => none

/-- The leaf of an entry at a level, for the 64 KiB page that holds `va` (R142). -/
def leafOf (s : State) (vf va lvl e : Nat) : Except TrapCode TlbEnt :=
  let base := e / 2 ^ 16 % 2 ^ 41 * 2 ^ 16
  let size := match lvl with
    | 0 => 2 ^ 16
    | 1 => 2 ^ 21
    | _ => 2 ^ 30
  match mtOf (e / 2 ^ 57 % 4) with
  | none => .error .xlateNotMapped
  | some mt =>
    if base % size != 0 || paKind s base == .hole then .error .xlateNotMapped
    else .ok { vf := vf, vpage := va % 2 ^ 57 / 2 ^ 16, ppage := (base + va % size) / 2 ^ 16,
               rd := e.testBit 3, wr := e.testBit 4, ex := e.testBit 5, mt := mt }

/-- A walk from the table at `base` of a level down (R141, R142). R142 does not say what a poisoned entry gives: the walk ends in
XLATE_NOTMAPPED (log 44, DESIGN CHOICE). -/
def walkFrom (s : State) (vf va : Nat) : Nat → Nat → Except TrapCode TlbEnt
  | 0, base =>
    let a := cellOf base + 8 * (va / 2 ^ 16 % 32)
    let e := memNum s.mem a 8
    if rangePoisoned s a 8 || !e.testBit 0 || e / 2 ^ 59 != 0 || e / 2 ^ 6 % 2 ^ 10 != 0 || e.testBit 1 then
      .error .xlateNotMapped
    else leafOf s vf va 0 e
  | lvl + 1, base =>
    let a := cellOf base + 8 * (va / 2 ^ (21 + 9 * lvl) % 512)
    let e := memNum s.mem a 8
    if rangePoisoned s a 8 || !e.testBit 0 || e / 2 ^ 59 != 0 || e / 2 ^ 6 % 2 ^ 10 != 0 || e.testBit 1 then
      .error .xlateNotMapped
    else if e.testBit 2 then (if 2 ≤ lvl then .error .xlateNotMapped else leafOf s vf va (lvl + 1) e)
    else
      let next := e / 2 ^ 16 % 2 ^ 41 * 2 ^ 16
      if paKind s next == .hole then .error .xlateNotMapped else walkFrom s vf va lvl next

/-- The hub's own walk of a tenant's tables. -/
def walk (s : State) (vf va : Nat) : Except TrapCode TlbEnt :=
  if canonical va then walkFrom s vf va 4 (getTenant s vf).cfg.root else .error .xlateNotMapped

/-- The valid entries of a table of `n` bytes: the byte that holds V is nonzero, so memory lists it. -/
def validEntries (s : State) (base n : Nat) : List Nat :=
  let b := cellOf base
  (s.mem.filter (fun c => b ≤ c.1 && c.1 < b + n && (c.1 - b) % 8 == 0 && c.2.getLsbD 0)).map (fun c => memNum s.mem c.1 8)

/-- The leaves under a table (R141): each one's level, first 64 KiB page and pages. -/
def leavesFrom (s : State) : Nat → Nat → List (Nat × Nat × Nat)
  | 0, base => (validEntries s base 256).map (fun e => (0, e / 2 ^ 16 % 2 ^ 41, 1))
  | lvl + 1, base => (validEntries s base 4096).flatMap (fun e =>
    let p := e / 2 ^ 16 % 2 ^ 41
    if e.testBit 2 then [(lvl + 1, p, 2 ^ (5 + 9 * lvl))] else leavesFrom s lvl (p * 2 ^ 16))

/-- The leaves of a tenant. -/
def leaves (s : State) (vf : Nat) : List (Nat × Nat × Nat) := leavesFrom s 4 (getTenant s vf).cfg.root

/-- A page belongs to a list of runs (R302). -/
def inRuns (l : List (Nat × Nat)) (p : Nat) : Bool := l.any (fun r => r.1 ≤ p && p < r.1 + r.2)

/-- The bytes of a list of runs. -/
def runBytes (l : List (Nat × Nat)) : Nat := 2 ^ 16 * (l.map Prod.snd).sum

/-- Two stretches of `n` and `k` from `a` and `b` meet. -/
def spansMeet (a n b k : Nat) : Bool := a < b + k && b < a + n

def tlbFind (l : List TlbEnt) (vf va : Nat) : Option TlbEnt :=
  l.find? (fun e => e.vf == vf && e.vpage == va % 2 ^ 57 / 2 ^ 16)

/-- What a core's translation finds: its first-level TLB's entry, its die's, or a walk's (R144). -/
def transl (s : State) (core vf va : Nat) : Except TrapCode TlbEnt :=
  if !canonical va then .error .xlateNotMapped
  else match tlbFind (getCore s core).tlb vf va with
  | some e => .ok e
  | none => match tlbFind (getDie s (dieOf core)).tlb vf va with
    | some e => .ok e
    | none => walk s vf va

/-- Translation for a core: its first-level TLB, its die's TLB, then a walk; a failed walk is not cached
(R144). A first-level miss counts (R321). The most recent 96 and 8,192 entries are held (log 8). -/
def translate (s : State) (core vf va : Nat) : State × Except TrapCode TlbEnt :=
  if !canonical va then (s, .error .xlateNotMapped)
  else match tlbFind (getCore s core).tlb vf va with
  | some e => (s, .ok e)
  | none =>
    let s := bump s core 4 1
    let d := dieOf core
    match tlbFind (getDie s d).tlb vf va with
    | some e => (updCore s core (fun c => { c with tlb := (e :: c.tlb).take 96 }), .ok e)
    | none =>
      match walk s vf va with
      | .ok e =>
        let s := updCore s core (fun c => { c with tlb := (e :: c.tlb).take 96 })
        (updDie s d (fun x => { x with tlb := (e :: x.tlb).take 8192 }), .ok e)
      | .error c => (s, .error c)

/-- The physical address of a virtual one on a page. -/
def leafPa (e : TlbEnt) (va : Nat) : Nat := e.ppage * 2 ^ 16 + va % 2 ^ 16

/-- What an access needs (R145). -/
inductive Need where
  | rd | rw | ex | atom | claim
  deriving DecidableEq, Repr

/-- R145 for a page. -/
def permitted (need : Need) (e : TlbEnt) : Bool :=
  match need with
  | .rd => e.rd
  | .rw => e.rd && e.wr
  | .ex => e.rd && e.ex && e.mt == .cached
  | .atom => e.rd && e.wr && e.mt != .device
  | .claim => e.rd && e.wr && e.mt == .cached

/-! ## Pieces (R158) -/

/-- The largest size among 1, 2, 4, 8 and 16 that fits the remaining bytes and the alignment. -/
def pieceSize (a rem : Nat) : Nat :=
  if 16 ≤ rem && a % 16 == 0 then 16
  else if 8 ≤ rem && a % 8 == 0 then 8
  else if 4 ≤ rem && a % 4 == 0 then 4
  else if 2 ≤ rem && a % 2 == 0 then 2
  else 1

/-- The pieces of an access with their offsets: (offset, size), ascending; `fuel` bounds their number. -/
def piecesGo (a n : Nat) : Nat → Nat → List (Nat × Nat)
  | 0, _ => []
  | fuel + 1, off =>
    if n ≤ off then [] else (off, pieceSize (a + off) (n - off)) :: piecesGo a n fuel (off + pieceSize (a + off) (n - off))

def pieces (a n : Nat) : List (Nat × Nat) := piecesGo a n n 0

/-- One piece of a checked access: its offset, size, virtual and physical address, and memory type. -/
structure Piece where
  off : Nat
  n : Nat
  va : Nat
  pa : Nat
  mt : MemType
  deriving DecidableEq, Repr

/-- Every piece of an access translated. -/
def translatePieces (s : State) (core vf va : Nat) (ps : List (Nat × Nat)) :
    State × List (Nat × Nat × Except TrapCode TlbEnt) :=
  ps.foldl (fun (acc : State × List (Nat × Nat × Except TrapCode TlbEnt)) p =>
    let r := translate acc.1 core vf ((va + p.1) % 2 ^ 64)
    (r.1, acc.2 ++ [(p.1, p.2, r.2)])) (s, [])

/-- The first trap among translated pieces in the order of R177, or the pieces. -/
def settlePieces (va : Nat) (need : Need) (misaligned : Bool)
    (l : List (Nat × Nat × Except TrapCode TlbEnt)) : Except TrapCode (List Piece) :=
  if misaligned && l.any (fun p => match p.2.2 with | .ok e => e.mt != .cached | .error _ => false) then
    .error .align
  else if l.any (fun p => match p.2.2 with | .ok _ => false | .error _ => true) then .error .xlateNotMapped
  else if l.any (fun p => match p.2.2 with | .ok e => !permitted need e | .error _ => false) then
    .error .xlatePerm
  else .ok (l.filterMap (fun p => match p.2.2 with
    | .ok e => some ⟨p.1, p.2.1, (va + p.1) % 2 ^ 64, leafPa e (va + p.1), e.mt⟩
    | .error _ => none))

/-- The checks of one lane's global access (R158, R177): its pieces, or the trap. An access that may not be
split (`whole`: an atomic) traps ALIGN when it is misaligned. -/
def checkAccess (s : State) (core vf va n : Nat) (need : Need) (whole : Bool) :
    State × Except TrapCode (List Piece) :=
  if whole && va % n != 0 then (s, .error .align)
  else
    let ps := if whole then [(0, n)] else pieces va n
    let r := translatePieces s core vf va ps
    (r.1, settlePieces va need (va % n != 0) r.2)

/-- The checks of an access that is one event whatever its alignment (R248, R310), of `n` bytes at a multiple of `al` or not; one
that crosses a page has pieces, which are performed together. -/
def checkOne (s : State) (core vf va n al : Nat) (need : Need) : State × Except TrapCode (List Piece) :=
  let r := translatePieces s core vf va (if va % 2 ^ 16 + n ≤ 2 ^ 16 then [(0, n)] else pieces va n)
  (r.1, settlePieces va need (va % al != 0) r.2)

/-! ## Views (R184) -/

/-- The backing that a primary-range address of a global view resolves to. -/
def viewAddr (s : State) (vf va : Nat) : Nat :=
  match (getTenant s vf).gviews.find? (fun g => g.base ≤ va && va < g.base + g.size) with
  | some g => if g.st.bit then va - g.base + g.alt else va
  | none => va

/-- Where the home finds the bytes of an access: the page's own, or those of the view's alternate backing. R184 does not say which
page's rights an access needs that the bit sends to ALT, nor what it finds where ALT is not mapped: BASE's rights count, and the
access falls back to BASE's bytes (log 47, DESIGN CHOICE). -/
def homeAddr (s : State) (vf va pa : Nat) : Nat :=
  let v := viewAddr s vf va
  if v = va then cellOf pa
  else match walk s vf v with
    | .ok e => cellOf (leafPa e v)
    | .error _ => cellOf pa

/-- The scratchpad view of a team that an offset falls in. -/
def spViewAt (T : Team) (off : Nat) : Option SpView := T.views.find? (fun v => v.base ≤ off && off < v.base + 2 * v.size)

/-- A window offset of a team with the halves of its scratchpad views resolved: the primary addresses reach the
visible half and those above them the hidden one (R184). -/
def spView (T : Team) (off : Nat) : Nat :=
  match spViewAt T off with
  | some v => if !v.st.bit then off else if off < v.base + v.size then off + v.size else off - v.size
  | none => off

/-- The hidden half's byte of a visible offset of a view, for the copies that write it (R184). -/
def spHidden (T : Team) (off : Nat) : Nat :=
  match spViewAt T off with
  | some v => spView T (off + v.size)
  | none => off

/-- The home addresses of the bytes of an access, as runs of (offset, length, address): more than one where a view's range begins
or ends inside it (R184). -/
def homeSegs (s : State) (vf va pa n : Nat) : List (Nat × Nat × Nat) :=
  if (getTenant s vf).gviews.isEmpty then [(0, n, cellOf pa)]
  else (List.range n).foldl (fun l i =>
    let a := homeAddr s vf (va + i) (pa + i)
    match l.getLast? with
    | some g => if g.2.2 + g.2.1 = a then l.dropLast ++ [(g.1, g.2.1 + 1, g.2.2)] else l ++ [(i, 1, a)]
    | none => [(i, 1, a)]) []

/-- A range that an access finds at its homes is poisoned (R161). -/
def accessPoisoned (s : State) (vf va pa n : Nat) : Bool := (homeSegs s vf va pa n).any (fun g => rangePoisoned s g.2.2 g.2.1)

/-- `n` bytes of an access as its homes hold them. -/
def accessNum (s : State) (vf va pa n : Nat) : Nat :=
  (homeSegs s vf va pa n).foldl (fun x g => x + 256 ^ g.1 * memNum s.mem g.2.2 g.2.1) 0

/-! ## The scratchpad (R140, R162) -/

/-- The unit number of requests that return to no unit, and of those of the stream engines. -/
def noUnit : Nat := 99
def gridUnit : Nat := 98

/-- The core's byte of a window offset, with views resolved. -/
def spAddr (T : Team) (off : Nat) : Nat := T.spBase + spView T off

/-- A byte as a unit of a team sees it in this cycle: an STS that another unit released in it does not show
yet (R162). -/
def spByte (s : State) (t u core a : Nat) : Byte :=
  let c := getCore s core
  match c.lateSts.find? (fun l => l.t == s.ptc && l.addr == a && !(l.team == t && l.unit == u)) with
  | some l => l.old
  | none => tabGet 0 c.scratch a

/-- `n` bytes from a window offset as a number. -/
def spNum (s : State) (t u : Nat) (T : Team) (off : Nat) : Nat → Nat
  | 0 => 0
  | n + 1 => (spByte s t u T.core (spAddr T off)).toNat + 256 * spNum s t u T (off + 1) n

/-- Whether a byte of a window range is poisoned (R335). -/
def spPoisoned (s : State) (T : Team) (off n : Nat) : Bool :=
  (List.range n).any (fun i => tabGet false (getCore s T.core).spPoison (spAddr T (off + i) / 32))

/-- One byte of a core's scratchpad written. -/
def spSet (c : Core) (a : Nat) (b : Byte) : Core := { c with scratch := tabSet 0 c.scratch a b }

/-- `n` bytes written at raw core addresses given per byte. -/
def spWrite (s : State) (core : Nat) (addr : Nat → Nat) (bytes : List Byte) : State :=
  updCore s core (fun c => (bytes.zipIdx).foldl (fun c b => spSet c (addr b.2) b.1) c)

/-- A byte of the scratchpad that a copy keeps from before an STS of its own block is written anew (R183). -/
def dropSpKept (c : Core) (a : Nat) : Core :=
  if c.copyQ.all (fun r => r.kept.isEmpty) then c
  else { c with copyQ := c.copyQ.map (fun r => { r with kept := r.kept.filter (fun k => k.1 != a) }) }

/-- Byte `i` of a store of `n` bytes, at `a`, lies in a granule that the store covers. -/
def spWhole (a i n : Nat) : Bool := i + 32 ≤ n + a % 32 && a % 32 ≤ i

/-- A store of `n` bytes drops on poison: a granule is poisoned and only partly covered (R161). -/
def spDrops (s : State) (core : Nat) (addr : Nat → Nat) (n : Nat) : Bool :=
  (List.range n).any (fun i => tabGet false (getCore s core).spPoison (addr i / 32) && !spWhole (addr i) i n)

/-- Bytes stored at the core's bytes that `addr` gives, by a unit of a team: where `late`, what they replace stays visible to
other units for this cycle (R162); a granule that is poisoned and only partly covered keeps its bytes. -/
def spStoreAt (s : State) (late : Bool) (t u core : Nat) (addr : Nat → Nat) (bytes : List Byte) : State :=
  updCore s core (fun c => (bytes.zipIdx).foldl (fun c b =>
    let a := addr b.2
    let whole := spWhole a b.2 bytes.length
    if tabGet false c.spPoison (a / 32) && !whole then c
    else
      { spSet (dropSpKept c a) a b.1 with
        spPoison := if whole then tabSet false c.spPoison (a / 32) false else c.spPoison,
        lateSts := if late then c.lateSts ++ [⟨s.ptc, t, u, a, tabGet 0 c.scratch a⟩]
          else c.lateSts.filter (fun l => l.addr != a) }) c)

/-! ## Homes, leases and completion times (R146, R147, R151, R163) -/

/-- The die that has claimed the page of an address, if any (R163). -/
def claimedBy (s : State) (pa : Nat) : Option Nat := (s.claims.find? (fun c => c.page == pa / 2 ^ 16)).map Claim.die

/-- The latest lease on lines `lo` to `hi` held, unexpired now, by a die other than `die`. -/
def leaseMax (s : State) (die lo hi : Nat) : Nat :=
  s.dies.foldl (fun m d =>
    if d.1 = die then m
    else d.2.copies.foldl (fun m c => if lo ≤ c.line && c.line ≤ hi && s.ptc < c.expiry then max m c.expiry else m) m) 0

/-- The GWCT of a write applied now to a range (R151). -/
def gwctOf (s : State) (die pa n : Nat) : Nat := max s.ptc (leaseMax s die (pa / 128) ((pa + n - 1) / 128)) + 8

/-- A write reaches pages `lo` to `hi` at their home: the verified bits of code pages clear (R368). -/
def clearVerified (s : State) (lo hi : Nat) : State :=
  { s with tenants := tabMap (fun _ T => { T with objs := T.objs.map (fun o =>
      { o with pages := o.pages.map (fun p => if lo ≤ p.ppage && p.ppage ≤ hi then { p with verified := false } else p) }) }) s.tenants }

/-- A wait on a word that a write has reached, as `hit` says of its addresses, reads again (R281). -/
def touchWait (hit : Nat → Nat → Bool) : Wait → Wait
  | .word a pa wide h c v d n x => .word a pa wide h c v d n (x || (h && hit a pa))
  | x => x

/-- A write event ends the sleep of the WAITXs on what it wrote until their next read (R281); `hit` takes the tenant and the
virtual and physical address of a wait. -/
def touchWaits (s : State) (hit : Nat → Nat → Nat → Bool) : State :=
  let unit := fun (vf : Nat) (w : WUnit) =>
    { w with flight := w.flight.map (fun f => { f with wait := f.wait.map (touchWait (hit vf)) }) }
  { s with teams := tabMap (fun _ T => { T with units := tabMap (fun _ w => unit T.vf w) T.units }) s.teams }

/-- The bytes that a waiting load keeps from before an invisible store of its die end where a later write reaches them (R149). -/
def dropKept (s : State) (pa n : Nat) (l : LoadReq) : LoadReq :=
  if l.kept.isEmpty then l
  else { l with kept := l.kept.filter (fun k =>
    let a := homeAddr s l.vf (l.va + k.1) (l.pa + k.1)
    !(pa ≤ a && a < pa + n)) }

/-- Whether a write of `n` bytes at `pa` leaves granule `g` partly covered and poisoned (R161). -/
def granuleDrops (s : State) (pa n g : Nat) : Bool :=
  granulePoisoned s g && !(pa ≤ 32 * g && 32 * g + 32 ≤ pa + n)

/-- The bytes of a write at its home as one event (R158, R161): bytes of a granule that is poisoned and only partly
covered are dropped, a wholly covered granule loses its mark. -/
def homeBytes (s : State) (pa : Nat) (bytes : List Byte) : State :=
  let n := bytes.length
  let mem := (bytes.zipIdx).foldl (fun m b =>
    if granuleDrops s pa n ((pa + b.2) / 32) then m else memSetByte m (pa + b.2) b.1) s.mem
  let poison := (granules pa n).foldl (fun t g =>
    if pa ≤ 32 * g && 32 * g + 32 ≤ pa + n then tabSet false t g false else t) s.memPoison
  if n = 0 then s
  else touchWaits (clearVerified { s with mem := mem, memPoison := poison } (pa / 2 ^ 16) ((pa + n - 1) / 2 ^ 16))
    (fun vf va q => pa / 128 ≤ homeAddr s vf va q / 128 && homeAddr s vf va q / 128 ≤ (pa + n - 1) / 128)

/-- A write at its home that every waiting load sees. -/
def homeWrite (s : State) (pa : Nat) (bytes : List Byte) : State :=
  homeBytes { s with loads := s.loads.map (dropKept s pa bytes.length) } pa bytes

/-- A write drops on poison (R161). -/
def writeDrops (s : State) (pa n : Nat) : Bool := (granules pa n).any (granuleDrops s pa n)

/-- A write at the homes that an access of a tenant resolves to. -/
def accessWrite (s : State) (vf va pa : Nat) (bytes : List Byte) : State :=
  (homeSegs s vf va pa bytes.length).foldl (fun s g => homeWrite s g.2.2 ((bytes.drop g.1).take g.2.1)) s

/-- As `accessWrite`, dropping on poison. -/
def accessDrops (s : State) (vf va pa n : Nat) : Bool := (homeSegs s vf va pa n).any (fun g => writeDrops s g.2.2 g.2.1)

/-- A die's leased copy of a line, readable now: its own ptc() is below the expiry (R147). -/
def dieCopy (s : State) (die line : Nat) : Option LineCopy :=
  (getDie s die).copies.find? (fun c => c.line == line && diePtc s die < c.expiry)

/-- The bytes of a list changed at an offset. -/
def patch (l : List Byte) (off : Nat) (bytes : List Byte) : List Byte :=
  l.take off ++ bytes ++ l.drop (off + bytes.length)

/-- The L1 caches of a die's cores drop a line whose copy on the die changes (R147). -/
def dropL1 (s : State) (die line : Nat) : State :=
  { s with cores := tabMapD {} (fun k c => if dieOf k = die then { c with l1 := c.l1.filter (fun x => x != line) } else c) s.cores }

/-- The writer's own die's copy is updated (R151). -/
def updateCopy (s : State) (die pa : Nat) (bytes : List Byte) : State :=
  updDie (dropL1 s die (pa / 128)) die (fun d => { d with copies := d.copies.map (fun c =>
    if c.line = pa / 128 then { c with bytes := (patch c.bytes (pa % 128) bytes).take 128 } else c) })

/-- A line used by a core in its L1 of 256 KiB (R13): `.st` marks it first for eviction, and `.nl` leaves it out (R168). Which of the
others a full L1 gives up is not said: the least recently used (log 8). -/
def fillL1 (s : State) (core line : Nat) (hint : CacheHint) : State :=
  updCore s core (fun c =>
    let rest := c.l1.filter (fun x => x != line)
    match hint with
    | .normal => { c with l1 := (line :: rest).take 2048 }
    | .streaming => { c with l1 := rest.take 2047 ++ [line] }
    | .bypass => c)

/-- The slots in which a core's load of a line on its die is planned (R27): L1, which holds no line whose copy has expired (R147),
or the die cache. -/
def dieSlots (s : State) (core line : Nat) : Nat :=
  if (getCore s core).l1.contains line && ((dieCopy s (dieOf core) line).isSome || claimedBy s (128 * line) == some (dieOf core)) then 12
  else 40

/-- The lines of the hub cache of 1 GiB (R11, R25) after one is used. -/
def fillHub (s : State) (line : Nat) : State := { s with hub := (line :: s.hub.filter (fun x => x != line)).take (2 ^ 23) }

/-- The slots in which a load of a line at its home is planned (R27): the hub cache, tier 1 or tier 2. R27 has no figure for
the other targets. -/
def homeSlots (s : State) (pa : Nat) : Nat :=
  if homedPa s pa && s.hub.contains (pa / 128) then 64
  else match paKind s pa with
    | .tier1 => 110
    | .tier2 => 260
    | _ => 0

/-- A die's copies of the lines of a predicate go, and so do they from the L1 caches of its cores (R147). -/
def dropLines (s : State) (die : Nat) (p : Nat → Bool) : State :=
  let s := updDie s die (fun d => { d with copies := d.copies.filter (fun c => !p c.line) })
  { s with cores := tabMapD {} (fun k c => if dieOf k = die then { c with l1 := c.l1.filter (fun x => !p x) } else c) s.cores }

/-- A die's copies of a range dropped. -/
def dropCopies (s : State) (die lo hi : Nat) : State := dropLines s die (fun l => lo ≤ l && l ≤ hi)

/-- A line's bytes at its home, for the line at `va` and `pa`: those of a view's backing where one is selected. -/
def homeLine (s : State) (vf va pa : Nat) : List Byte :=
  (homeSegs s vf va pa 128).flatMap (fun g => memBytes s.mem g.2.2 g.2.1)

/-- Two accesses are pieces of one event (R248). -/
def sameEvent (a b : Option Nat) : Bool := a.isSome && a == b

/-- A write with this GWCT is visible on every die: a release after it has ended (R157). -/
def released (s : State) (g : Nat) : Bool := (List.range 11).all (fun d => g < diePtc s d)

/-! ## Pages in transition (R163) -/

/-- A CLAIM's pages, or a CLAIM.rel's that its die holds, which are in transition from its release to its completion (R163). -/
def claimPages (s : State) (r : MemReq) : List Nat :=
  match r.kind with
  | .claim true => r.pages.filter (fun p => s.claims.any (fun c => c.page == p && c.die == r.die))
  | _ => r.pages

/-- The status of a claim by a die (R163): capacity, another die's pages, pages not in tier 1. -/
def claimStatus (s : State) (die : Nat) (pages : List Nat) : Nat :=
  let held := (s.claims.filter (fun c => c.die == die)).length
  let new := (pages.filter (fun p => !s.claims.any (fun c => c.die == die && c.page == p))).eraseDups.length
  if 256 < held + new then 1
  else if pages.any (fun p => s.claims.any (fun c => c.page == p && c.die != die)) then 2
  else if pages.any (fun p => paKind s (p * 2 ^ 16) != .tier1) then 3
  else 0

/-- A page is in transition for an access that came after request `id`: it is refused and tries again at the new home (R163). -/
def moving (s : State) (id pa : Nat) : Bool :=
  s.reqs.any (fun q => match q.kind with
    | .claim rel => q.phase != .applied && q.id < id && (claimPages s q).contains (pa / 2 ^ 16) &&
        (rel || claimStatus s q.die q.pages == 0)
    | _ => false)

/-- A page is in transition for an access made now. -/
def inTransition (s : State) (pa : Nat) : Bool := moving s s.nextId pa

/-- A page of a range of physical addresses is in transition. -/
def rangeMoves (s : State) (pa n : Nat) : Bool :=
  (List.range ((pa + n - 1) / 2 ^ 16 + 1 - pa / 2 ^ 16)).any (fun k => inTransition s (pa + 2 ^ 16 * k))

/-- An access of `n` bytes made now by a core at a virtual address reaches a page in transition. -/
def coreMoves (s : State) (core vf va n : Nat) : Bool :=
  [va, va + n - 1].any (fun a => match transl s core vf (a % 2 ^ 64) with
    | .ok e => inTransition s (leafPa e a)
    | .error _ => false)

/-! ## Visibility on a die (R148, R149) -/

/-- A released store that its home has not applied, which a load of this die issued at `i` sees (R148). -/
def storeSeen (die team unit i : Nat) (r : MemReq) : Bool :=
  r.kind == .store && r.unit != gridUnit && r.die == die && r.phase != .applied &&
    (if r.team == team && r.unit == unit then r.t ≤ i else r.t + 24 ≤ i)

/-- A byte as the die's pending stores give it to such a load: the latest one. -/
def storeByte (reqs : List MemReq) (die team unit i pa : Nat) : Option Byte :=
  reqs.foldl (fun acc r =>
    if storeSeen die team unit i r && cellOf r.pa ≤ cellOf pa && cellOf pa < cellOf r.pa + r.n then
      some (BitVec.ofNat 8 (r.data.toNat / 256 ^ (cellOf pa - cellOf r.pa))) else acc) none

/-- The line holds bytes of a store of this die not yet applied at its home (R149). -/
def linePending (s : State) (die pa : Nat) : Bool :=
  s.reqs.any (fun r => r.kind == .store && r.unit != gridUnit && r.die == die && r.phase != .applied && r.pa / 128 == pa / 128)

/-- A byte that a load issued now finds on its die: a pending store's, else the readable copy's, else, for a
line homed at this die by CLAIM, the home's own. -/
def dieByte (s : State) (vf die team unit va pa : Nat) : Option Byte :=
  match storeByte s.reqs die team unit s.ptc pa with
  | some b => some b
  | none =>
    if claimedBy s pa == some die then some (memByte s.mem (homeAddr s vf va pa))
    else match dieCopy s die (pa / 128) with
      | some c => c.bytes[pa % 128]?
      | none => none

/-- All `n` bytes of a piece on the die. -/
def dieNum (s : State) (vf die team unit va pa : Nat) : Nat → Option Nat
  | 0 => some 0
  | n + 1 => match dieByte s vf die team unit va pa, dieNum s vf die team unit (va + 1) (pa + 1) n with
    | some b, some r => some (b.toNat + 256 * r)
    | _, _ => none

/-- A load of an earlier instruction of the same thread that has not returned and overlaps (R150). -/
def loadBefore (s : State) (team unit lane pa n : Nat) : Bool :=
  s.loads.any (fun l => l.team == team && l.unit == unit && l.lane == lane && spansMeet (cellOf l.pa) l.n (cellOf pa) n)

/-- R149: where a piece is performed; the bytes if on the die, at its issue. -/
def loadOnDie (s : State) (vf die team unit lane : Nat) (wide : Bool) (p : Piece) : Option Nat :=
  if loadBefore s team unit lane p.pa p.n then none
  else if p.mt != .cached || !homedPa s p.pa then none
  else if wide && !linePending s die p.pa && claimedBy s p.pa != some die then none
  else dieNum s vf die team unit p.va p.pa p.n

/-- The value that a load waiting for its home gets when the home serves it (R149): the home's bytes, under
the bytes shielded from invisible stores of its die, under the die's pending stores that it sees. -/
def servedByte (s : State) (l : LoadReq) (i : Nat) : Byte :=
  match storeByte s.reqs l.die l.team l.unit l.issued (l.pa + i) with
  | some b => b
  | none => match tabFind l.kept i with
    | some b => b
    | none => memByte s.mem (homeAddr s l.vf (l.va + i) (l.pa + i))

def servedNum (s : State) (l : LoadReq) (i : Nat) : Nat → Nat
  | 0 => 0
  | n + 1 => (servedByte s l i).toNat + 256 * servedNum s l (i + 1) n

/-- A store of its die is invisible to a waiting load (R148). -/
def invisible (r : MemReq) (l : LoadReq) : Bool :=
  r.unit != gridUnit && l.die == r.die && !(l.team == r.team && l.unit == r.unit) && l.issued < r.t + 24

/-- A store applied at its home: a waiting load of its die that it is invisible to keeps the bytes that were there, and every
other load sees it (R149). -/
def storeWrite (s : State) (r : MemReq) (pa : Nat) (bytes : List Byte) : State :=
  let loads := s.loads.map (fun l =>
    if invisible r l then
      { l with kept := (List.range l.n).foldl (fun k i =>
          let a := homeAddr s l.vf (l.va + i) (l.pa + i)
          if pa ≤ a && a < pa + bytes.length && (tabFind k i).isNone then tabPut k i (memByte s.mem a) else k) l.kept }
    else dropKept s pa bytes.length l)
  homeBytes { s with loads := loads } pa bytes

/-! ## Working sets (R304) -/

/-- Sets the access bit of a physical unit in a tenant's slot. -/
def touch (s : State) (vf slot pa : Nat) : State :=
  if homedPa s pa then
    updTenant s vf (fun T => { T with bits := tabSet false T.bits (2 ^ 48 * slot + pa / 2 ^ 16) true })
  else s

/-! ## Device registers (R273) -/

/-- The time-zone entry of die d as the register reads: RR, LAT and OFS. -/
def tzEntry (s : State) (d : Nat) : Nat :=
  (tabGet 0 s.ofs d % 256).toNat +
  (List.range 11).foldl (fun x i => x + 2 ^ (16 + 8 * i) * (tabGet 0 s.lat (16 * d + i)).toNat +
    (if tabGet false s.rr (16 * d + i) then 2 ^ (104 + i) else 0)) 0

/-- The offset of an access in a table of `size` bytes of device registers. -/
def inTable (base size pa n : Nat) : Option Nat := if base ≤ pa && pa - base + n ≤ size then some (pa - base) else none

/-- The address of the time-zone table (R273), and of the placement table among the device registers, which R21 does not give
(log 40, DESIGN CHOICE: free). -/
def tzTable : Nat := 0x40000000010000
def placeTable : Nat := 0x40000000000000 + Config.placeTable % 2 ^ 29 * 2048

/-- A read of device registers: the time-zone table (R273), else the placement table, 4 bytes an entry (R21). No other register
is specified. -/
def deviceRead (s : State) (pa n : Nat) : Option Nat :=
  match inTable tzTable 176 pa n with
  | some o => some (tzEntry s (o / 16) / 256 ^ (o % 16) % 256 ^ n)
  | none => match inTable placeTable 1152 pa n with
    | some o => some ((List.range 5).foldl (fun x k =>
        x + 2 ^ (32 * k) * (tabGet 0 s.place (o / 4 + k)).toNat) 0 / 256 ^ (o % 4) % 256 ^ n)
    | none => none

/-- A write to the time-zone or placement table is ignored (RO, R8, R21). -/
def deviceKnown (pa n : Nat) : Bool := (inTable tzTable 176 pa n).isSome || (inTable placeTable 1152 pa n).isSome

end Sys2Proof.Machine
end

