-- ==== Sys2Proof/Machine/Resource.lean ====
section
/-! DEFINITION. Resource entries (R286, R287) and region control blocks (R288 to R290) as the device reads
them from memory. -/

namespace Sys2Proof.Machine

/-- Bytes lo to lo + n − 1 of a little-endian record. -/
def bytesOf (x lo n : Nat) : Nat := x / 256 ^ lo % 256 ^ n

/-- Bytes lo to hi of a record are zero. -/
def zeroBytes (x lo hi : Nat) : Bool := bytesOf x lo (hi + 1 - lo) == 0

/-- The first `k` of the entries of a list count, the rest must be zero. -/
def zeroFrom (l : List Nat) (k : Nat) : Bool := (l.drop k).all (fun v => v == 0)

/-- A resource entry of 64 bytes, or nothing where it breaks the table of R286. -/
def parseEntry (x : Nat) : Option ResEntry :=
  let kind := bytesOf x 0 1
  let fl := bytesOf x 1 1
  let sp := fl.testBit 0
  let sh := fl.testBit 1
  let base := bytesOf x 16 8
  let view := !sp && sh
  if 4 ≤ fl then none
  else match kind with
  | 0 => if x = 0 then some {} else none
  | 1 =>
    if !zeroBytes x 2 15 || !zeroBytes x 40 63 || (sp && 2 ^ 32 ≤ base) then none
    else if view then
      some { kind := .buffer, sp := sp, shadow := sh, base := base, alt := bytesOf x 24 8, size := bytesOf x 32 8 }
    else if !zeroBytes x 32 39 then none
    else some { kind := .buffer, sp := sp, shadow := sh, base := base, size := bytesOf x 24 8 }
  | 2 =>
    let es := bytesOf x 2 1
    let rank := bytesOf x 3 1
    let box := (List.range 4).map (fun i => bytesOf x (4 + i) 1)
    let dim := [bytesOf x 32 4, bytesOf x 36 4, bytesOf x 8 4, bytesOf x 12 4]
    let str := [bytesOf x 40 8, bytesOf x 48 8, bytesOf x 56 8]
    if !(es == 1 || es == 2 || es == 4 || es == 8 || es == 16) || rank < 1 || 4 < rank then none
    else if !zeroFrom box rank || !zeroFrom dim rank || !zeroFrom str (rank - 1) then none
    else if (!view && !zeroBytes x 24 31) || (sp && 2 ^ 32 ≤ base) then none
    else some
      { kind := .tensor, sp := sp, shadow := sh, base := base, alt := bytesOf x 24 8, esize := es, rank := rank,
        box := box.map (fun b => b + 1), dim := dim, stride := es :: str,
        size := dim.getD (rank - 1) 0 * (es :: str).getD (rank - 1) 0 }
  | 3 =>
    if !sp || sh || !zeroBytes x 3 15 || !zeroBytes x 32 63 || bytesOf x 28 2 = 0 || bytesOf x 30 2 = 0 then none
    else some
      { kind := .shape, sp := true, estride := bytesOf x 2 1, base := bytesOf x 16 4, ofs := bytesOf x 20 4,
        rstride := bytesOf x 24 4, rows := bytesOf x 28 2, cols := bytesOf x 30 2 }
  | 4 =>
    if fl != 0 || !zeroBytes x 2 15 || !zeroBytes x 28 63 then none
    else some { kind := .code, base := base, obj := bytesOf x 24 4 }
  | 5 =>
    if fl != 0 || !zeroBytes x 2 15 || !zeroBytes x 28 63 then none
    else some { kind := .const, base := base, size := bytesOf x 24 4 }
  | 6 =>
    if fl != 0 || !zeroBytes x 2 15 || !zeroBytes x 28 63 then none
    else some { kind := .gridimg, base := base, size := bytesOf x 24 4 }
  | _ => none

/-- A read of `n` bytes by the device at their home, at a virtual address of a tenant: every page of the
range needs RD (R145), and no granule may be poisoned. -/
def homeRead (s : State) (vf va n : Nat) : Except TrapCode Nat :=
  match walk s vf va, walk s vf (va + n - 1) with
  | .ok e, .ok f =>
    if !e.rd || !f.rd then .error .xlatePerm
    else if accessPoisoned s vf va (leafPa e va) n then .error .dataPoison
    else .ok (accessNum s vf va (leafPa e va) n)
  | .error c, _ => .error c
  | _, .error c => .error c

/-- A read of `n` bytes by a core at a virtual address (R144, R145): as `homeRead`, with the core's translation. -/
def coreRead (s : State) (core vf va n : Nat) : Except TrapCode Nat :=
  match transl s core vf va, transl s core vf (va + n - 1) with
  | .ok e, .ok f =>
    if !e.rd || !f.rd then .error .xlatePerm
    else if accessPoisoned s vf va (leafPa e va) n then .error .dataPoison
    else .ok (accessNum s vf va (leafPa e va) n)
  | .error c, _ => .error c
  | _, .error c => .error c

/-- The pieces that a unit has read in this cycle of what lies at an address. -/
def seenPieces (s : State) (owner : Nat × Nat) (addr : Nat) : List Nat :=
  match s.seen with
  | some r => if r.owner = owner && r.addr = addr && r.cycle = s.ptc then r.pieces else []
  | none => []

/-- A number of pieces of 16 bytes whose first ones were read earlier, in ascending order (R287, R310). -/
def mixPieces : List Nat → Nat → Nat
  | [], x => x
  | p :: ps, x => p % 2 ^ 128 + 2 ^ 128 * mixPieces ps (x / 2 ^ 128)

/-- A unit reads the next piece of the entry or record at an address; the use that follows in this cycle reads the others. -/
def readPiece (s : State) (t u a : Nat) : State :=
  match getTeam s t with
  | none => s
  | some T =>
    let ps := seenPieces s (t, u) a
    match coreRead s T.core T.vf ((a + 16 * ps.length) % 2 ^ 64) 16 with
    | .ok x => { s with seen := some ⟨(t, u), a, s.ptc, ps ++ [x]⟩ }
    | .error _ => s

/-- The fault of a use of a resource: its code and what sr.trapinfo holds (R287). -/
abbrev ResFault := TrapCode × Nat

/-- An entry read at a use (R287): bad indices and invalid entries trap RESOURCE_KIND, an entry that cannot
be read traps with its address. -/
def readEntry (s : State) (T : Team) (idx : Nat) : Except ResFault ResEntry :=
  if T.lrec.rcount ≤ idx then .error (.resourceKind, idx)
  else
    let a := (T.lrec.rtab + 64 * idx) % 2 ^ 64
    match coreRead s T.core T.vf a 64 with
    | .error c => .error (c, a)
    | .ok x => match parseEntry (mixPieces ((seenPieces s s.issuer a).take 4) x) with
      | some e => .ok e
      | none => .error (.resourceKind, idx)

/-! ## Accesses of a team's unit (R304) -/

/-- An access of a team at a virtual address is translated by its core (R144) and sets the bit of the unit that it reaches. -/
def touchVa (s : State) (T : Team) (va : Nat) : State :=
  match translate s T.core T.vf va with
  | (s, .ok e) => touch s T.vf T.slot (homeAddr s T.vf va (leafPa e va))
  | (s, .error _) => s

/-- The pieces of an access set the bits of the units that they reach. -/
def touchPieces (s : State) (T : Team) (ps : List Piece) : State :=
  ps.foldl (fun s p => touch s T.vf T.slot (homeAddr s T.vf p.va p.pa)) s

/-- The read of an entry of the team's resource table (R287). -/
def touchEntry (s : State) (T : Team) (idx : Nat) : State := touchVa s T ((T.lrec.rtab + 64 * idx) % 2 ^ 64)

/-! ## Region control blocks (R288 to R290) -/

/-- A region control block. -/
structure Rcb where
  addr : Nat
  parent : Nat
  htab : Nat
  lring : Nat
  lrsize : Nat
  lhead : Nat
  ltail : Nat
  prio : Nat
  fdom : Nat
  ovr : Nat
  ctl : Nat
  csec : Nat
  used : Nat
  t1b : Nat
  pred : Nat
  after : Nat
  wdog : Nat
  slot : Nat
  rnum : Nat
  xto : Nat
  clean : Bool
  deriving DecidableEq, Repr

/-- The block at an address, as its home holds it. -/
def rcbAt (s : State) (vf addr : Nat) : Option Rcb :=
  match homeRead s vf addr 128 with
  | .error _ => none
  | .ok x => some
    { addr := addr, parent := bytesOf x 0 8, htab := bytesOf x 8 8, lring := bytesOf x 16 8,
      lrsize := bytesOf x 24 4, lhead := bytesOf x 28 4, ltail := bytesOf x 32 4, prio := bytesOf x 36 1,
      fdom := bytesOf x 37 1, ovr := bytesOf x 38 1, ctl := bytesOf x 39 1, csec := bytesOf x 40 8,
      used := bytesOf x 48 8, t1b := bytesOf x 56 8, pred := bytesOf x 64 8, after := bytesOf x 72 8,
      wdog := bytesOf x 80 1, slot := bytesOf x 81 1, rnum := bytesOf x 82 2, xto := bytesOf x 84 4,
      clean := zeroBytes x 88 127 }

/-- The constraints of R288 on one block. -/
def rcbOk (r : Rcb) : Bool :=
  r.addr % 128 == 0 && r.clean && r.prio < 16 && r.ctl < 4 && r.wdog ≥ 16 && r.wdog ≤ 40 && r.slot < 16 &&
  r.rnum < 4096 && r.t1b % 2 ^ 16 == 0 && r.htab % 256 == 0 && r.lring % 256 == 0 &&
  (r.lrsize == 2 ^ Nat.log2 r.lrsize && 1 ≤ r.lrsize && r.lrsize ≤ 65536) && r.pred % 8 == 0 &&
  r.after % 128 == 0 && (r.ltail + 2 ^ 32 - r.lhead) % 2 ^ 32 ≤ r.lrsize

/-- The chain from a block up to its root, itself first; nothing where a block is unreadable, breaks a
constraint, or the chain has more than `fuel` blocks. -/
def rcbChainGo (s : State) (vf : Nat) : Nat → Nat → Option (List Rcb)
  | 0, _ => none
  | fuel + 1, addr =>
    match rcbAt s vf addr with
    | none => none
    | some r =>
      if !rcbOk r then none
      else if r.parent = 0 then some [r]
      else (rcbChainGo s vf fuel r.parent).map (fun l => r :: l)

def rcbChain (s : State) (vf addr : Nat) : Option (List Rcb) := rcbChainGo s vf 8 addr

/-- The directory's address of a region number, 0 where empty (R290). -/
def regionAddr (s : State) (vf rnum : Nat) : Nat :=
  (((getTenant s vf).cfg.regions.find? (fun r => r.1 == rnum)).map Prod.snd).getD 0

/-- A region that the scheduler accepts: its chain (R290). -/
def regionChain (s : State) (vf addr : Nat) : Option (List Rcb) :=
  match rcbChain s vf addr with
  | some (r :: l) => if addr != 0 && regionAddr s vf r.rnum == addr then some (r :: l) else none
  | _ => none

/-- An effective value (R289): the first block that overrides it, else the default. -/
def effective (chain : List Rcb) (bit : Nat) (f : Rcb → Nat) (dflt : Nat) : Nat :=
  ((chain.find? (fun r => r.ovr.testBit bit)).map f).getD dflt

def effHtab (c : List Rcb) : Nat := effective c 0 Rcb.htab 0
def effPrio (c : List Rcb) : Nat := effective c 1 Rcb.prio 8
def effFdom (c : List Rcb) : Nat := effective c 2 Rcb.fdom 0
def effCsec (c : List Rcb) : Nat := effective c 3 Rcb.csec 0
def effT1b (c : List Rcb) : Nat := effective c 4 Rcb.t1b 0
def effWdog (c : List Rcb) : Nat := effective c 5 Rcb.wdog 26
def effXto (c : List Rcb) : Nat := effective c 6 Rcb.xto 0
def effSlot (c : List Rcb) : Nat := effective c 7 Rcb.slot 0

end Sys2Proof.Machine
end

