-- ==== Sys2Proof/Machine/GridImage.lean ====
section
/-! DEFINITION. Configuration images (R232 to R240): reading the fields of an image and the staging checks, each
failing field at its byte offset (R236). -/

namespace Sys2Proof.Machine

/-- The bytes of an image by offset; what cannot be read reads as zero. -/
abbrev ImgBytes := Tab Byte

/-- Reads `n` pieces of 16 bytes of an image from piece `k` on, with the first byte that cannot be used and its
trap code. -/
def imgRead (s : State) (vf addr size k : Nat) : Nat → ImgBytes × Option (Nat × TrapCode)
  | 0 => ([], none)
  | n + 1 =>
    let r := imgRead s vf addr size (k + 1) n
    if size ≤ 16 * k then r
    else match homeRead s vf ((addr + 16 * k) % 2 ^ 64) 16 with
      | .error c => (r.1, some (16 * k, c))
      | .ok x => (tabSetNum r.1 (16 * k) (min 16 (size - 16 * k)) x, r.2)

/-- A little-endian field. -/
def imgNum (b : ImgBytes) (o n : Nat) : Nat := tabNum b o n

/-- The byte of the lowest set bit of a zero field from bit `lo` of an item at offset `o` (R236). -/
def zeroField (o x lo hi : Nat) : List Nat :=
  match ((List.range (hi + 1 - lo)).find? (fun i => x.testBit (lo + i))) with
  | some i => [o + (lo + i) / 8]
  | none => []

/-- An offset if a check fails. -/
def failAt (b : Bool) (o : Nat) : List Nat := if b then [o] else []

/-- An operation word's fields (R237). -/
structure GOp where
  op : Nat
  slot : Nat
  stage : Nat
  sub : Nat
  dst : Nat
  a : Nat
  b : Nat
  deriving DecidableEq, Repr

def gop (w : Nat) : GOp :=
  ⟨w / 2 ^ 28 % 16, w / 2 ^ 22 % 64, w / 2 ^ 18 % 16, w / 2 ^ 14 % 16, w / 2 ^ 10 % 16, w / 2 ^ 5 % 32, w % 32⟩

def tileKind (n : Nat) : TileKind :=
  match n % 4 with
  | 0 => .off
  | 1 => .ag
  | 2 => .cp
  | _ => .rd

/-- The operations that a kind admits (R231). -/
def kindAdmits (k : TileKind) (op : Nat) : Bool :=
  match k with
  | .off => false
  | .ag => [0, 1, 2, 6, 10, 11, 12, 15].contains op
  | .cp => op ≤ 9 || op == 15
  | .rd => [0, 13, 14, 15].contains op

/-- The SUB values that R240 and R241 assign. -/
def subOk (o : GOp) : Bool :=
  match o.op with
  | 1 | 2 | 3 | 4 => o.sub < 3
  | 5 => o.sub % 4 < 3 && o.sub < 8
  | 6 => o.sub ≤ 6
  | 8 => o.sub ≤ 5
  | 9 | 11 | 14 => o.sub < 8
  | 12 => true
  | 13 => o.sub % 4 < 3 && o.sub < 8
  | _ => o.sub == 0

/-- The DST values: a register, the accumulator of GACC, zero for GNOP. -/
def dstOk (o : GOp) : Bool :=
  match o.op with
  | 0 => o.dst == 0
  | 13 => if 4 ≤ o.sub then o.dst < 4 else o.dst == 0
  | _ => true

/-- The failing fields of an operation word at an offset, but for a shared SLOT (R237 to R240). -/
def opFails (k : TileKind) (r : Option RegDesc) (o : Nat) (w : GOp) : List Nat :=
  let late := match r with
    | some d => d.ii ≤ w.slot || d.stg < w.stage
    | none => false
  failAt (!kindAdmits k w.op) (o + 3) ++ failAt late (o + 2) ++ failAt (!subOk w || !dstOk w) (o + 1) ++
    failAt (30 ≤ w.a || 30 ≤ w.b || (w.op == 0 && (w.a != 0 || w.b != 0))) o

/-- The header (R232): its failing fields. -/
def headFails (b : ImgBytes) (p0 pages size : Nat) : List Nat :=
  let pc := imgNum b 4 1
  let rc := imgNum b 5 1
  let gc := imgNum b 6 2
  let len := (64 + 16 * rc + 1536 * pc + 4 * gc + 15) / 16 * 16
  failAt (imgNum b 0 4 != 0x47534731) 0 ++ failAt (pc < 1 || 4 < pc || pages < p0 + pc) 4 ++
    failAt (rc < 1 || 4 * pc < rc) 5 ++ failAt (1024 < gc) 6 ++ failAt (imgNum b 8 4 != len || size < len) 8 ++
    zeroField 12 (imgNum b 12 52) 0 415

/-- Region descriptor `i` (R233). -/
def imgRegion (b : ImgBytes) (i : Nat) : RegDesc :=
  let d := imgNum b (64 + 16 * i) 16
  ⟨d / 2 ^ 24 % 2 ^ 16, d / 2 ^ 18 % 4, d / 2 ^ 16 % 4, d / 2 ^ 8 % 16, d % 2 ^ 8⟩

/-- The failing fields of descriptor `i`. -/
def regionFails (b : ImgBytes) (pc : Nat) (i : Nat) : List Nat :=
  let o := 64 + 16 * i
  let d := imgNum b o 16
  let r := imgRegion b i
  failAt (r.ii < 1 || 64 < r.ii) o ++ zeroField o d 12 15 ++
    failAt (pc ≤ r.page || (List.range i).any (fun j => (imgRegion b j).page == r.page && (imgRegion b j).ctx == r.ctx)) (o + 2) ++
    zeroField o d 20 23 ++ zeroField o d 40 127

/-- Tile record `t` at its offset (R234). -/
def imgTile (b : ImgBytes) (o : Nat) : TileRec :=
  let h := imgNum b o 16
  { kind := tileKind h, region := h / 4 % 16
    consts := (List.range 4).map (fun c => BitVec.ofNat 32 (imgNum b (o + 16 + 4 * c) 4))
    ops := (List.range (min 16 (h / 64 % 32))).map (fun j => BitVec.ofNat 32 (imgNum b (o + 32 + 4 * j) 4)) }

/-- The failing fields of a tile record. -/
def tileFails (b : ImgBytes) (rc : Nat) (o : Nat) : List Nat :=
  let h := imgNum b o 16
  let r := imgTile b o
  let desc := if r.region < rc then some (imgRegion b r.region) else none
  let ops := r.ops.map (fun w => gop w.toNat)
  failAt (rc ≤ r.region || 16 < h / 64 % 32 || (r.kind == .off && (r.region != 0 || h / 64 % 32 != 0))) o ++
    zeroField o h 11 127 ++
    (ops.zipIdx).flatMap (fun x => opFails r.kind desc (o + 32 + 4 * x.2) x.1) ++
    ((ops.zipIdx).filter (fun x => (ops.take x.2).any (fun y => y.slot == x.1.slot))).map (fun x => o + 32 + 4 * x.2 + 2)

/-- Bank grant at an offset (R235). -/
def imgGrant (b : ImgBytes) (o : Nat) : Grant :=
  let w := imgNum b o 4
  ⟨w / 2 ^ 26 % 64, w / 2 ^ 21 % 32, w / 2 ^ 18 % 8, w.testBit 17, w / 2 ^ 13 % 16⟩

/-- The slots that a grant covers. -/
def grantSlots (g : Grant) (ii : Nat) : List Nat :=
  if g.rmw then [g.slot % ii, (g.slot + 1) % ii, (g.slot + 2) % ii] else [g.slot]

/-- Two grants of one region cover a bank in a slot. -/
def grantsMeet (ii : Nat) (g h : Grant) : Bool :=
  g.region == h.region && g.bank == h.bank && (grantSlots g ii).any (fun k => (grantSlots h ii).contains k)

/-- The failing fields of grant `i` (R235). -/
def grantFails (b : ImgBytes) (rc base i : Nat) : List Nat :=
  let o := base + 4 * i
  let g := imgGrant b o
  let ii := (imgRegion b g.region).ii
  zeroField o (imgNum b o 4) 0 12 ++
    (if rc ≤ g.region then [o + 1]
     else failAt (ii ≤ g.slot) (o + 3) ++
       failAt (g.slot < ii && (List.range i).any (fun j => grantsMeet ii (imgGrant b (base + 4 * j)) g)) (o + 2))

/-- Every failing field behind a sound header, the padding included. -/
def bodyFails (b : ImgBytes) : List Nat :=
  let pc := imgNum b 4 1
  let rc := imgNum b 5 1
  let gc := imgNum b 6 2
  let tiles := 64 + 16 * rc
  let grants := tiles + 1536 * pc
  let last := grants + 4 * gc
  (List.range rc).flatMap (regionFails b pc) ++
    (List.range (16 * pc)).flatMap (fun t => tileFails b rc (tiles + 96 * t)) ++
    (List.range gc).flatMap (grantFails b rc grants) ++
    zeroField last (imgNum b last ((16 - last % 16) % 16)) 0 127

/-- The image of sound bytes. -/
def imgParse (b : ImgBytes) (g : Staging) : GridImage :=
  let pc := imgNum b 4 1
  let rc := imgNum b 5 1
  let tiles := 64 + 16 * rc
  { gen := g.gen, p0 := g.p0, pcnt := pc, regions := (List.range rc).map (imgRegion b)
    tiles := (List.range (16 * pc)).map (fun t => imgTile b (tiles + 96 * t))
    grants := (List.range (imgNum b 6 2)).map (fun i => imgGrant b (tiles + 1536 * pc + 4 * i))
    slot := g.slot, id := g.id, sb := g.sb }

/-- The lowest failing offset, with the code of an unusable byte in [39:32]. -/
def imgTrap (fails : List Nat) (bad : Option (Nat × TrapCode)) (codeOf : TrapCode → Nat) : Option Nat :=
  match fails, bad with
  | [], none => none
  | [], some (o, c) => some (o + 2 ^ 32 * codeOf c)
  | f :: fs, none => some (fs.foldl min f)
  | f :: fs, some (o, c) => if fs.foldl min f < o then some (fs.foldl min f) else some (o + 2 ^ 32 * codeOf c)

/-- The check of an image (R236): the image, or what sr.trapinfo holds. -/
def checkImage (s : State) (vf pages : Nat) (g : Staging) (codeOf : TrapCode → Nat) : Except Nat GridImage :=
  if g.res.base % 16 != 0 then .error (2 ^ 32 * codeOf .align)
  else
    let h := imgRead s vf g.res.base g.res.size 0 4
    match imgTrap (headFails h.1 g.p0 pages g.res.size) h.2 codeOf with
    | some k => .error k
    | none =>
      let b := imgRead s vf g.res.base g.res.size 0 (imgNum h.1 8 4 / 16)
      match imgTrap (bodyFails b.1) b.2 codeOf with
      | some k => .error k
      | none => .ok (imgParse b.1 g)

end Sys2Proof.Machine
end

