-- ==== Sys2Proof/Machine/Ops.lean ====
section
/-! DEFINITION. The shared operations: fault records, termination, taking a trap and returning from one,
the abort of a block, waiting on tokens, and the release and acquire parts of a fence. -/

namespace Sys2Proof.Machine

/-! ## Trap codes (R311) -/

def trapNum : TrapCode → Nat
  | .illegalMajor => 0x01 | .illegalMinor => 0x02 | .badHeader => 0x03 | .reservedBits => 0x04
  | .engineRole => 0x05 | .partialMask => 0x06 | .align => 0x07 | .xlateNotMapped => 0x08
  | .xlatePerm => 0x09 | .dataPoison => 0x0A | .bankConflict => 0x0B | .missedPromise => 0x0C
  | .barrierMismatch => 0x0D | .chainOrder => 0x0E | .accRange => 0x0F | .resourceKind => 0x10
  | .codeIntegrity => 0x11 | .stack => 0x12 | .swTrap => 0x13 | .gridConfig => 0x14 | .stream => 0x15
  | .watchdog => 0x16 | .bkpt => 0x17 | .externalTimeout => 0x18 | .splitOverflow => 0x19
  | .preemptNotice => 0x1A

def sourceNum : TrapSource → Nat
  | .globalMem => 0 | .scratchpad => 1 | .codeFetch => 2 | .headerRead => 3 | .engine => 4

/-- A 57-bit block address (R75) as a virtual address: its high half is sign-extended (R141). -/
def codeVa (a : Nat) : Nat := if 2 ^ 56 ≤ a then a + (2 ^ 64 - 2 ^ 57) else a

/-- The traps of class P, raised outside the fragment's block in flight (R311). -/
def isPending : TrapCode → Bool
  | .bankConflict | .stream | .watchdog | .preemptNotice => true
  | _ => false

/-! ## Fault records (R314, R339) -/

structure FaultRec where
  kind : Nat
  code : Nat := 0
  core : Nat := 0
  team : Nat := 0
  block : Nat := 0
  info : Nat := 0
  rnum : Nat := 0
  seq : Nat := 0

def recordNum (ptc : Nat) (r : FaultRec) : Nat :=
  ptc + 2 ^ 64 * (r.kind + 2 ^ 8 * (r.code + 2 ^ 8 * (r.core + 2 ^ 16 * (r.team + 2 ^ 32 *
    (r.block + 2 ^ 64 * (r.info + 2 ^ 64 * (r.rnum + 2 ^ 32 * r.seq)))))))

/-- The entries of a function's fault ring. -/
def ringSize (T : Tenant) : Nat := 2 ^ (T.frctl.extractLsb' 0 4).toNat

/-- FRHEAD as it will be once it counts every record that is written. -/
def headDue (T : Tenant) : BitVec 32 := T.frhead + BitVec.ofNat 32 T.frdue.length

/-- A record written to a function's ring, or dropped (R339); FRHEAD counts it once its GWCT has passed. -/
def faultRecord (s : State) (fn : Nat) (r : FaultRec) : State :=
  let T := getTenant s fn
  if !T.frctl.getLsbD 4 then s
  else if (headDue T - T.frtail).toNat = ringSize T then updTenant s fn (fun T => { T with ovf := true, ovfAt := s.ptc + 1 })
  else
    let a := T.frbase.toNat + 64 * ((headDue T).toNat % ringSize T)
    let g := gwctOf s 99 a 64
    let s := if paKind s a == .hole then s else homeWrite s (cellOf a) (numBytes 64 (recordNum (hubPtc s) r))
    updTenant s fn (fun T => { T with frdue := T.frdue ++ [g] })

/-- The records of a function that a release at HOST scope lets FRHEAD count now, in order (R157, R339). -/
def headsNow (s : State) (T : Tenant) : Nat := (T.frdue.takeWhile (released s)).length

/-- FRHEAD counts the records whose release has ended, and MSI-X vector 0 of their function is signalled for each (R339). -/
def raiseHeads (s : State) : State :=
  { s with
    msix := s.tenants.flatMap (fun T => List.replicate (headsNow s T.2) (T.1, 0)) ++ s.msix
    tenants := tabMap (fun _ T =>
      { T with frhead := T.frhead + BitVec.ofNat 32 (headsNow s T), frdue := T.frdue.drop (headsNow s T) }) s.tenants }

/-- A write by the scheduler or the management processor at a tenant's virtual address, at the home; nothing where the page is
unmapped. One that drops on poison leaves a fault record (R161). -/
def homeStore (s : State) (vf va n v : Nat) : State :=
  match walk s vf va with
  | .ok e =>
    let s := if accessDrops s vf va (leafPa e va) n then faultRecord s vf { kind := 4, info := va } else s
    accessWrite s vf va (leafPa e va) (numBytes n v)
  | .error _ => s

/-- A record that concerns a team. -/
def teamRecord (s : State) (T : Team) (kind code block info : Nat) : State :=
  faultRecord s T.vf { kind := kind, code := code, core := T.core, team := T.num, block := block,
                       info := info, rnum := T.rnum, seq := T.seq }

/-- A store of a party of a team to window bytes, at `off` and at the core's bytes that `addr` gives: one that drops on poison
leaves a fault record (R161). -/
def spStore (s : State) (late : Bool) (t u : Nat) (T : Team) (off : Nat) (addr : Nat → Nat) (bytes : List Byte) : State :=
  spStoreAt (if spDrops s T.core addr bytes.length then teamRecord s T 4 0 0 off else s) late t u T.core addr bytes

/-! ## Blocks in flight -/

/-- A block in flight waits (R81, R272, R292). -/
def blocked (f : Flight) : Bool := f.wait.isSome || f.waitKind != .none || !f.entered

/-- The loads of a unit's block in flight are withdrawn, and their tokens complete. -/
def dropLoads (s : State) (t u : Nat) : State :=
  let s := { s with loads := s.loads.filter (fun l => !(l.team == t && l.unit == u)) }
  updUnit s t u (fun w => match w.flight with
    | none => w
    | some f => f.sbLoads.foldl (fun w p => setTok w p.2 { (getTok w p.2) with state := .complete }) w)

/-- The next block of a fragment lies at its group's rejoin address, at the group's depth (R78). -/
def atRejoin (w : WUnit) (e : SplitEntry) : Bool :=
  match e.group with
  | none => false
  | some g => match (getSplit w g).record with
    | some r => r.rejoin == e.block && r.depth == e.stack.length
    | none => false

/-- The state of a fragment at a block boundary: its trap pending (R82), parked (R78) or ready. The fragments
that run a handler go on in spite of a pending trap (R313). -/
def boundaryState (w : WUnit) (e : SplitEntry) : FragState :=
  if !e.traps.isEmpty && !(w.tm && e.handler) then .trapPending
  else if atRejoin w e then .parked
  else .ready

/-- A fragment at a block boundary: its state, and a new count of the entries it waits behind where it is not ready (R81). -/
def atBoundary (w : WUnit) (e : SplitEntry) : SplitEntry :=
  let st := boundaryState w e
  { e with state := st, seen := if st == .ready then e.seen else 0 }

/-- The block in flight aborts with no effect (R73): the fragment stands ready at the block's entry. In a
team that is being terminated the unit ends here (R292). -/
def abortBlock (s : State) (t u : Nat) : State :=
  let s := dropLoads s t u
  match getTeam s t with
  | none => s
  | some T => updUnit s t u (fun w => match w.flight with
    | none => w
    | some f =>
      let e := getSplit w f.frag
      { (setSplit w f.frag (atBoundary w e)) with flight := none, done := w.done || T.term.isSome })

/-! ## Termination (R292, R334) -/

/-- A team is terminated at its next block boundary; a waiting block aborts at once. -/
def terminateTeam (s : State) (t status reason : Nat) : State :=
  match getTeam s t with
  | none => s
  | some T =>
    if T.term.isSome then s
    else
      let s := updTeam s t (fun T => { T with term := some (status, reason) })
      T.units.foldl (fun s x =>
        match x.2.flight with
        | none => updUnit s t x.1 (fun w => { w with done := true })
        | some f => if blocked f then abortBlock s t x.1 else s) s

/-- A launch ends with a status (R301): its teams are terminated, its saved teams and those never placed
count as retired. -/
def terminateLaunch (s : State) (vf seq status reason : Nat) : State :=
  let s := updTenant s vf (fun T =>
    { T with
      ready := T.ready.map (fun l =>
        if l.seq = seq && l.status = 0 then
          { l with status := status, reason := reason, teams := tabMap (fun _ x => if x == .saved then .retired else x) l.teams }
        else l)
      saved := T.saved.filter (fun x => x.team.seq != seq) })
  s.teams.foldl (fun s x =>
    if x.2.vf = vf && x.2.seq = seq && !x.2.retired then terminateTeam s x.1 status reason else s) s

/-- The launches whose effective fault domain is d. -/
def domainRegions (s : State) (vf d : Nat) : List (Nat × Nat) :=
  (getTenant s vf).cfg.regions.filter (fun r =>
    match rcbChain s vf r.2 with
    | some c => effFdom c == d
    | none => false)

/-- The fault domain rules of R292 for a team, with status 3. -/
def terminateDomain (s : State) (T : Team) (reason : Nat) : State :=
  let d := match rcbChain s T.vf T.lrec.region with
    | some c => effFdom c
    | none => 0
  if d = 0 then terminateLaunch s T.vf T.seq 3 reason
  else
    let rs := domainRegions s T.vf d
    let s := rs.foldl (fun s r => match rcbAt s T.vf r.2 with
      | some b => homeStore s T.vf (r.2 + 39) 1 (b.ctl ||| 2)
      | none => s) s
    let s := terminateLaunch s T.vf T.seq 3 reason
    ((getTenant s T.vf).ready.filter (fun l => rs.any (fun r => r.1 == l.rnum))).foldl
      (fun s l => terminateLaunch s T.vf l.seq 3 reason) s

/-- escalate(code) (R314): the team ends under its fault domain, and a fault record is written. -/
def escalate (s : State) (t : Nat) (code : TrapCode) (blk info : Nat) : State :=
  match getTeam s t with
  | none => s
  | some T => teamRecord (terminateDomain s T (trapNum code)) T 1 (trapNum code) blk info

/-! ## Pending traps (R82, R311, R313) -/

/-- A trap becomes pending on a fragment. On a fragment that runs a handler it escalates at once if `esc`
(R313). -/
def pendTrapAs (esc : Bool) (s : State) (t u frag : Nat) (tr : PendTrap) : State :=
  match getUnit s t u with
  | none => s
  | some w =>
    let e := getSplit w frag
    if w.tm && e.handler && esc then escalate s t tr.code (codeVa tr.blk) tr.info.toNat
    else updUnit s t u (fun w =>
      let e := getSplit w frag
      let e := { e with traps := e.traps ++ [tr] }
      setSplit w frag
        (if e.state == .ready || e.state == .parked then atBoundary w e else e))

/-- As `pendTrapAs`: traps of class E and C, and WATCHDOG, escalate in a handler. -/
def pendTrap (s : State) (t u frag : Nat) (tr : PendTrap) : State :=
  pendTrapAs (!isPending tr.code || tr.code == .watchdog) s t u frag tr

/-- The oldest fragment of a unit: the oldest stamp, then the lowest index (R82). -/
def oldestFrag (w : WUnit) : Option Nat :=
  (w.splits.foldl (fun (best : Option (Nat × Nat)) x =>
    if !x.2.live then best
    else match best with
      | some b => if x.2.stamp < b.2 then some (x.1, x.2.stamp) else best
      | none => some (x.1, x.2.stamp)) none).map Prod.fst

/-! ## Taking a trap and returning (R312, R313, R319) -/

/-- The handler of a code in an effective handler table; nothing where the entry is empty or counts as such
(R312). -/
def handlerEntry (s : State) (vf htab : Nat) (code : TrapCode) : Option Nat :=
  if htab = 0 then none
  else match homeRead s vf (htab + 16 * trapNum code) 16 with
    | .error _ => none
    | .ok x => if x = 0 || x / 2 ^ 64 != 0 || x % 16 != 0 then none else some x

/-- The trap frame of a trap taken for a fragment (R313). -/
def trapFrame (tr : PendTrap) (frag : Nat) (e : SplitEntry) : TrapFrame :=
  { code := some tr.code, source := tr.source, info := tr.info, blk := codeVa tr.blk, mask := e.mask,
    depth := e.stack.length, entry := frag }

/-- The fragments at a boundary settled. -/
def settle (w : WUnit) : WUnit :=
  { w with splits := tabMap (fun _ e =>
      if e.live && e.state != .inFlight && e.state != .blocked then atBoundary w e else e) w.splits }

/-- deliver(f, code, info, blk) (R313): the trap at the head of the fragment's list is taken at the entry of the
fragment's next block, the aborted one after an abort (R82). The frame and
TM are written and the fragment enters the handler under its mask, with its registers unchanged; an empty
entry escalates, and drops PREEMPT_NOTICE. -/
def takeTrap (s : State) (t u frag : Nat) (tr : PendTrap) : State :=
  match getTeam s t with
  | none => s
  | some T =>
    let tr := { tr with blk := match getUnit s t u with
      | some w => (getSplit w frag).block
      | none => tr.blk }
    let pop := fun (s : State) (e' : SplitEntry → SplitEntry) =>
      updUnit s t u (fun w =>
        let e := getSplit w frag
        setSplit w frag (e' { e with traps := e.traps.drop 1 }))
    let ready := fun (e : SplitEntry) => { e with state := if e.traps.isEmpty then .ready else .trapPending }
    if tr.code == .codeIntegrity then escalate (pop s ready) t tr.code (codeVa tr.blk) tr.info.toNat
    else match handlerEntry s T.vf T.htab tr.code with
      | none =>
        if tr.code == .preemptNotice then updUnit (pop s ready) t u settle
        else escalate (pop s ready) t tr.code (codeVa tr.blk) tr.info.toNat
      | some h =>
        let s := updUnit s t u (fun w => { w with frame := trapFrame tr frag (getSplit w frag), tm := true })
        pop s (fun e => { e with block := h % 2 ^ 57, handler := true, state := .ready })

/-- The return from a handler (R319): TM clears and the fragment continues at sr.trapblock; fragments with
pending traps can be delivered again. -/
def returnTrap (w : WUnit) (frag : Nat) : WUnit :=
  let w := setSplit w frag { (getSplit w frag) with block := w.frame.blk % 2 ^ 57 }
  settle { w with tm := false, frame := {}, splits := tabMap (fun _ e => { e with handler := false }) w.splits }

/-! ## Faults inside a block (R73, R177) -/

/-- An instruction and a lane come before (idx, lane). -/
def before (i l idx lane : Nat) : Bool := i < idx || (i == idx && l < lane)

/-- A load of the block that comes before (idx, lane) has not returned. -/
def earlierLoad (s : State) (t u idx lane : Nat) : Bool :=
  s.loads.any (fun l => l.team == t && l.unit == u && before l.idx l.lane idx lane) ||
  (match (getUnit s t u).bind WUnit.flight with
   | some f => f.spLoads.any (fun l => before l.idx l.lane idx lane)
   | none => false)

/-- The block aborts and its fragment has the trap pending at the block's entry. -/
def abortTrap (s : State) (t u : Nat) (tr : PendTrap) : State :=
  match getUnit s t u with
  | none => s
  | some w => match w.flight with
    | none => s
    | some f => pendTrap (abortBlock s t u) t u f.frag tr

/-- The earlier of two faults of a block. -/
def firstFault (a : HeldFault) : Option HeldFault → HeldFault
  | none => a
  | some b => if a.idx < b.idx || (a.idx == b.idx && a.lane < b.lane) then a else b

/-- trap(code) for an instruction and a lane: the block aborts for the earliest fault once every load before
it has returned (R177). -/
def raise (s : State) (t u idx lane : Nat) (tr : PendTrap) : State :=
  match (getUnit s t u).bind WUnit.flight with
  | none => s
  | some f =>
    let h := firstFault ⟨idx, lane, tr⟩ f.fault
    if earlierLoad s t u h.idx h.lane then updFlight s t u (fun f => { f with fault := some h })
    else abortTrap s t u h.trap

/-- The trap of a block in flight, at its entry. -/
def blockTrap (f : Flight) (code : TrapCode) (src : TrapSource) (info : Nat) : PendTrap :=
  ⟨code, src, BitVec.ofNat 64 info, f.addr⟩

/-! ## Waiting on tokens (R182, R280) -/

/-- What a wait on one token finds (R182). -/
inductive TokWait where
  | go | wait | late | failed
  deriving DecidableEq, Repr

/-- The request waits for nothing but its last GWCT, which has passed (R181). -/
def copyFinished (s : State) (core : Nat) (r : CopyReq) : Bool :=
  (r.phase == .published || (r.phase == .landed && !r.ap)) && (r.gwct == 0 || r.gwct < diePtc s (dieOf core))

/-- A landed auto-publish of a scratchpad view into which nothing is in flight: its publish, which completes it, is due (R185). -/
def spPublishDue (s : State) (r : CopyReq) : Bool :=
  r.ap && r.phase == .landed && (match r.view with
    | some (.scratch t i) => ((getTeam s t).bind (fun T => T.views[i]?)).any (fun v => v.st.count == 0)
    | _ => false)

/-- A copy request is complete, though its token may still say Pending in this cycle. -/
def reqDone (s : State) (core id : Nat) : Bool :=
  (getCore s core).copyQ.any (fun r => r.id == id && (copyFinished s core r || spPublishDue s r))

/-- `fin` says which requests are complete: a promise is missed only by one that is not. -/
def tokWait (now : Nat) (fin : Nat → Bool) (k : SbTok) : TokWait :=
  match k.state with
  | .pending => if k.copy && k.promise ≤ now && !fin k.req then .late else .wait
  | .slow | .late => .wait
  | .failed => .failed
  | .complete => if tokBusy now k then .wait else .go
  | .withdrawn | .cancelled => .go

/-- The tokens of a mask in ascending order. -/
def maskBits (m : Nat) : List Nat := (List.range 8).filter (fun i => m.testBit i)

/-- What holds or ends a wait on the tokens of a mask: each is waited on by its own rule, so the first that traps does so
while others are still awaited (R182, R280); nothing where every one lets the wait proceed. -/
def firstWait (now : Nat) (fin : Nat → Bool) (w : WUnit) (m : Nat) : Option (Nat × TokWait) :=
  let found := fun (traps : Bool) => (maskBits m).findSome? (fun b =>
    let k := tokWait now fin (getTok w b)
    if k == .go || (traps && k == .wait) then none else some (b, k))
  match found true with
  | some x => some x
  | none => found false

/-- The trap of a token that a wait finds Late or Failed, with sr.trapinfo packed as R182 gives. -/
def tokTrap (f : Flight) (b : Nat) (k : SbTok) (missed : Bool) : PendTrap :=
  if missed then blockTrap f .missedPromise .engine b
  else blockTrap f (k.code.getD .resourceKind) .engine (k.addr.toNat + 2 ^ 61 * b)

/-- A waited-on token whose promise passed becomes Late and traps MISSED_PROMISE; a Failed one becomes
Complete and traps its recorded code (R182). -/
def tokRaise (s : State) (t u idx b : Nat) (missed : Bool) : State :=
  match getUnit s t u with
  | none => s
  | some w => match w.flight with
    | none => s
    | some f =>
      let k := getTok w b
      let s := match getTeam s t with
        | some T => if missed then bump s T.core 6 1 else s
        | none => s
      let s := updUnit s t u (fun w => setTok w b { k with state := if missed then .late else .complete })
      raise s t u idx 0 (tokTrap f b k missed)

/-! ## Code objects (R334, R365) -/

/-- The object of a tenant whose code segments hold an address: the one loaded last there. -/
def codeObjAt (s : State) (vf va : Nat) : Option CodeObj :=
  (getTenant s vf).objs.reverse.find? (fun o => o.segs.any (fun g => g.1 ≤ va && va < g.2))

/-! ## Release and acquire (R152, R157, R270) -/

/-- A store or atomic of the unit that its home has not applied. -/
def unapplied (s : State) (t u : Nat) : Bool :=
  s.reqs.any (fun r => r.team == t && r.unit == u && r.phase != .applied && paKind s r.pa != .host)

/-- The waits of the release part of R157 have ended at a scope (the rank of R51). CT is final once every
released store has returned its GWCT. -/
def releaseDone (s : State) (t u : Nat) (T : Team) (w : WUnit) (scope : Nat) : Bool :=
  let die := dieOf T.core
  (scope < 1 || w.atomics == 0) &&
  (scope < 1 || 4 < scope || (match w.tlast with | none => true | some c => c + 24 ≤ s.ptc)) &&
  (scope < 5 || (w.ct < diePtc s die && !unapplied s t u)) &&
  (scope < 6 || w.hostOut == 0)

/-- A load of the unit's block has not returned its value. -/
def loadsOut (s : State) (t u : Nat) : Bool := s.loads.any (fun l => l.team == t && l.unit == u)

/-! ## Barriers (R266) -/

def getBar (T : Team) (b : Nat) : Barrier := tabGet {} T.bars b

/-- A barrier of the team is partly arrived. -/
def partlyArrived (T : Team) : Bool := (List.range 16).any (fun b => (getBar T b).cv && (getBar T b).a != 0)

/-- A unit has stopped: at a boundary with TM = 0 and no notice to deliver, or, under a forced save, at any boundary. -/
def unitStopped (T : Team) (w : WUnit) : Bool :=
  w.flight.isNone &&
  (w.done || T.waiver || (!w.tm && w.splits.all (fun x => !x.2.live || x.2.traps.all (fun tr => tr.code != .preemptNotice))))

def allStopped (T : Team) : Bool := T.saving && T.units.all (fun x => unitStopped T x.2)

/-- The units of a team stop at their next boundaries (R322). -/
def stopping (T : Team) : Bool := T.saving

/-- A pre-empted team stops from the first moment on at which no barrier is partly arrived (R325). -/
def latchStop (T : Team) : Team := { T with saving := T.saving || (T.preempt.isSome && !partlyArrived T) }

def setBar (T : Team) (b : Nat) (x : Barrier) : Team := latchStop { T with bars := tabSet {} T.bars b x }

/-- Header word 0 of a fragment's next block has IDEM = 1; a word that cannot be read counts as 0. -/
def nextIdem (s : State) (vf : Nat) (e : SplitEntry) : Bool :=
  match walk s vf (codeVa e.block) with
  | .error _ => false
  | .ok p => permitted .ex p && (match homeRead s vf (codeVa e.block) 16 with
    | .ok x => x.testBit 100
    | .error _ => false)

/-- The fragments of a unit whose blocks come next: those that are not parked, or all where every one is. -/
def nextFrags (w : WUnit) : List SplitEntry :=
  let live := (w.splits.filter (fun x => x.2.live)).map Prod.snd
  if live.all (fun e => e.state == .parked) then live else live.filter (fun e => e.state != .parked)

/-- A team is discarded instead of saved. -/
def discardable (s : State) (T : Team) : Bool :=
  T.lrec.idem && T.units.all (fun x => x.2.done || (nextFrags x.2).all (nextIdem s T.vf))

/-- The units of a team have stopped, for a save and not for a discard. -/
def saveStopped (s : State) (T : Team) : Bool := allStopped T && !discardable s T

/-- check(b): the generation completes. R266 leaves C as it is while CV is 0; the bytes of R375's image show it as 0 (log 48,
DEDUCED). -/
def barCheck (b : Barrier) : Barrier :=
  if b.cv && b.a == b.c && b.p == 0 then { b with g := b.g + 1, a := 0, cv := false, c := 0 } else b

/-- A decrement of the pending-byte counter, with the check (R267). -/
def barTake (T : Team) (b bytes : Nat) : Team :=
  let x := getBar T b
  setBar T b (barCheck { x with p := x.p - BitVec.ofNat 40 bytes })

/-- Units of a team that take part in barriers: its warps and its Bridle (R265). -/
def participants (T : Team) : Nat := T.lrec.warps + (if T.lrec.bentry = 0 then 0 else 1)

/-- arrive(b, cnt, bytes) for a unit; nothing where the count disagrees (R266). -/
def barArrive (T : Team) (u b cnt bytes now : Nat) : Option Team :=
  let x := { (getBar T b) with arrivedAt := now + 1, arrivedBy := u }
  match tabFind T.units u with
  | none => some T
  | some w =>
    let r := tabGet {} w.arrivals b
    let joined : WUnit := { w with arrivals := tabSet {} w.arrivals b { r with rejoin := false } }
    if r.flag && (r.gen == x.g || r.rejoin) then some (setBar { T with units := tabPut T.units u joined } b x)
    else if x.cv && cnt != x.c then none
    else
      let x := if x.cv then x else { x with c := cnt, cv := true }
      let x := { x with a := x.a + 1, p := x.p + BitVec.ofNat 40 bytes }
      let w := { w with arrivals := tabSet {} w.arrivals b { flag := true, gen := x.g } }
      some (setBar { T with units := tabPut T.units u w } b (barCheck x))

/-- A unit has arrived at a barrier in this cycle: a decrement of the cycle comes before it, so a later one waits for the next
(R266). -/
def arrivedNow (s : State) (t b : Nat) : Bool :=
  match getTeam s t with
  | some T => (getBar T b).arrivedAt == s.ptc + 1
  | none => false

/-- A unit that comes after unit `u` in R266's order has arrived at a barrier in this cycle: `u` waits for the next. -/
def higherArrived (s : State) (T : Team) (u b : Nat) : Bool :=
  (getBar T b).arrivedAt == s.ptc + 1 && u < (getBar T b).arrivedBy

/-- The generation in which a unit last arrived is complete (R266). -/
def barDone (T : Team) (w : WUnit) (b : Nat) : Bool :=
  let r := tabGet {} w.arrivals b
  !(r.flag && r.gen == (getBar T b).g)

end Sys2Proof.Machine
end

