-- ==== Sys2Proof/Machine/StreamMem.lean ====
section
/-! DEFINITION. The stream engines' side of the memory system: what the homes' answers do to a group, and the traps that
a grid raises on its Bridle (R249, R250, R256). -/

namespace Sys2Proof.Machine

def getGrid (s : State) (core : Nat) : Grid := (getCore s core).grid
def updGrid (s : State) (core : Nat) (f : Grid → Grid) : State :=
  updCore s core (fun c => let g := f c.grid; { c with grid := g })

def getEng (g : Grid) (e : Nat) : StreamEng := tabGet {} g.engs e
def updEng (s : State) (core e : Nat) (f : StreamEng → StreamEng) : State :=
  updGrid s core (fun g => { g with engs := tabSet {} g.engs e (f (getEng g e)) })

/-! ## Traps on the Bridle (R256) -/

/-- A trap becomes pending on the Bridle's fragment; a GWAIT that waits aborts its block. -/
def raiseBridle (s : State) (core : Nat) (code : TrapCode) (info : Nat) : State :=
  match (getGrid s core).holder with
  | none => s
  | some t => match getUnit s t 16 with
    | none => s
    | some w =>
      if w.done || !(getSplit w 0).live then s
      else
        let s := match w.flight.bind Flight.wait with
          | some (.grid _ _) => abortBlock s t 16
          | _ => s
        pendTrapAs false s t 16 0 ⟨code, .engine, BitVec.ofNat 64 info, (getSplit w 0).block⟩

/-- A run-time trap also halts the active configuration at the end of the cycle. -/
def gridHalt (s : State) (core : Nat) (code : TrapCode) (info : Nat) : State :=
  updGrid (raiseBridle s core code info) core (fun g =>
    if g.active.isSome && !g.stopped then { g with halting := true } else g)

/-- sr.trapinfo of STREAM (R256). -/
def streamInfo (eng cause code off : Nat) : Nat := eng + 2 ^ 4 * cause + 2 ^ 8 * code + 2 ^ 32 * (off % 2 ^ 32)

/-- A memory fault of an engine. -/
def streamFault (s : State) (core e : Nat) (code : TrapCode) (off : Nat) : State :=
  gridHalt (updEng s core e (fun x => { x with faulted := true })) core .stream (streamInfo e 1 (trapNum code) off)

/-! ## Answers of the homes -/

/-- A group changed. -/
def updGroup (s : State) (core e id : Nat) (f : StreamGroup → StreamGroup) : State :=
  updEng s core e (fun x => { x with groups := x.groups.map (fun g => if g.id = id then f g else g) })

/-- A group whose request failed is withdrawn, and its command may issue it again. -/
def failGroup (s : State) (core e id : Nat) : State :=
  updEng s core e (fun x =>
    let c := (x.groups.find? (fun g => g.id == id)).map StreamGroup.cmd
    { x with
      groups := x.groups.filter (fun g => g.id != id)
      cmds := x.cmds.map (fun k => if c == some k.id then { k with left := k.left + 1 } else k) })

/-- A stream load may be performed: those of its engine before it have been, but for the other pieces of its event (R248), and so
have the stores and atomics that the Bridle released before the command issued (R250). `l.idx` is the engine, `l.lane` 4 × group +
lane. -/
def streamLoadReady (s : State) (l : LoadReq) : Bool :=
  !s.loads.any (fun q => q.unit == gridUnit && q.core == l.core && q.idx == l.idx && q.id < l.id && !sameEvent q.event l.event) &&
  (match (getEng (getGrid s l.core) l.idx).groups.find? (fun g => g.id == l.lane / 4) with
   | some g => !s.reqs.any (fun r => r.team == l.team && r.unit == 16 && r.id < g.cmd && r.phase != .applied)
   | none => true)

/-- The byte offset in an engine's resource of a virtual address. -/
def streamOfs (s : State) (core e va : Nat) : Nat :=
  match (getEng (getGrid s core) e).opened with
  | some o => (va + 2 ^ 64 - o.res.base % 2 ^ 64) % 2 ^ 64
  | none => va

/-- The element width of an engine. -/
def streamW (s : State) (core e : Nat) : Nat := ((getEng (getGrid s core) e).opened.map StreamOpen.w).getD 4

/-- A home's answer to a stream load reaches its group; poison raises STREAM. -/
def streamLoaded (s : State) (l : LoadReq) (bad : Bool) (v : Nat) : State :=
  let id := l.lane / 4
  if bad then
    let s := { s with loads := s.loads.filter (fun q => !(q.unit == gridUnit && q.core == l.core && q.idx == l.idx && q.lane / 4 == id)) }
    streamFault (failGroup s l.core l.idx id) l.core l.idx .dataPoison
      (streamOfs s l.core l.idx (l.va - l.off) - (if streamW s l.core l.idx = 8 then l.lane % 2 * 4 else 0))
  else updGroup s l.core l.idx id (fun g =>
    { g with
      missing := g.missing - 1
      data := g.data.mapIdx (fun j x => if j = l.lane % 4 then x ||| BitVec.ofNat 32 (v * 256 ^ (l.off % 4)) else x) })

/-- A global write of a team's engine raises the completion time that its launch waits for (R300). -/
def launchGwct (s : State) (t g : Nat) : State :=
  match getTeam s t with
  | none => s
  | some T => updTenant s T.vf (fun V =>
      { V with ready := V.ready.map (fun l => if l.seq = T.seq then { l with gwct := max l.gwct g } else l) })

/-- A stream's write has been applied with a GWCT. -/
def streamWrote (s : State) (r : MemReq) (g : Nat) : State :=
  let s := launchGwct s r.team g
  (List.range 8).foldl (fun s e =>
    match (getEng (getGrid s r.core) e).groups.find? (fun x => x.reqs.contains r.id) with
    | none => s
    | some x =>
      let s := updGroup s r.core e x.id (fun y => { y with reqs := y.reqs.filter (fun i => i != r.id) })
      updEng s r.core e (fun y => { y with cmds := y.cmds.map (fun k => if k.id = x.cmd then { k with gwct := max k.gwct g } else k) })) s

/-- A stream's atomic met poison: it raises STREAM (R250). -/
def streamPoison (s : State) (r : MemReq) : State :=
  match (List.range 8).find? (fun e => (getEng (getGrid s r.core) e).groups.any (fun x => x.reqs.contains r.id)) with
  | none => s
  | some e => streamFault s r.core e .dataPoison (streamOfs s r.core e r.va / streamW s r.core e * streamW s r.core e)

/-- The Bridle's requests of the grid in a completion: a request of a stream engine. -/
def isStream (r : MemReq) : Bool := r.unit == gridUnit

end Sys2Proof.Machine
end

