-- ==== Sys2Proof/Machine/GridState.lean ====
section
/-! DEFINITION. What the grid's state says of the cycle at hand: its generations and contexts, the operations that are due and
what freezes them (R243, R254), and the banks that it leaves to the other parties of its core (R251, R252). -/

namespace Sys2Proof.Machine

/-! ## Generations, contexts and due operations -/

/-- Where a generation stands. -/
inductive GenState where
  | active | staged | old | discarded | none
  deriving DecidableEq, Repr

def genState (g : Grid) (n : Nat) : GenState :=
  if n = 0 then .none
  else if (g.active.map GridImage.gen) == some n then .active
  else if (g.staging.map Staging.gen) == some n || (g.staged.map GridImage.gen) == some n then .staged
  else if g.past.contains n then .old
  else .discarded

/-- A stream command of a generation is live: it is the active one's, or none has ever been staged. -/
def genLive (g : Grid) (n : Nat) : Bool := genState g n == .active || (n == 0 && g.active.isNone)

def ctxKey (d : RegDesc) : Nat := 4 * d.page + d.ctx
def getCtx (g : Grid) (d : RegDesc) : LoopCtx := tabGet {} g.ctxs (ctxKey d)
def setCtx (g : Grid) (d : RegDesc) (c : LoopCtx) : Grid := { g with ctxs := tabSet {} g.ctxs (ctxKey d) c }

/-- The regions of the active configuration. -/
def activeRegs (g : Grid) : List RegDesc := (g.active.map GridImage.regions).getD []

/-- A group is finished: a store whose writes are all applied and visible (R263); loads leave when they land. -/
def groupDone (now : Nat) (x : StreamGroup) : Bool := x.store && x.reqs.isEmpty && x.entered < now

/-- The groups of an engine that are outstanding (R249). -/
def outGroups (now : Nat) (x : StreamEng) : List StreamGroup := x.groups.filter (fun y => !groupDone now y)

/-- What a due GLDQ or GSTQ finds at its engine (R249). -/
inductive Enter where
  | go | freeze | binding
  deriving DecidableEq, Repr

def mayEnterEng (now : Nat) (g : Grid) (e tile : Nat) (store : Bool) : Enter :=
  let x := getEng g e
  match x.opened with
  | none => .binding
  | some o =>
    if o.store != store || o.req != some tile then .binding
    else match x.cmds with
      | [] => .freeze
      | c :: _ =>
        if c.kind == .permits && c.left != 0 && genLive g c.gen && (outGroups now x).length < 64 then .go else .freeze

def getTile (g : Grid) (t : Nat) : TileSt := tabGet {} g.tiles t
def updTile (g : Grid) (t : Nat) (f : TileSt → TileSt) : Grid := { g with tiles := tabSet {} g.tiles t (f (getTile g t)) }

/-- The head group of an input. -/
def inHead (now : Nat) (x : TileSt) (i : Nat) : Option Group :=
  match (tabGet [] x.ins i).head? with
  | some (at_, v) => if at_ ≤ now then some v else none
  | none => none

/-- The source codes that an operation reads. -/
def opReads (o : GOp) : List Nat :=
  (if o.op = 0 || o.op = 14 then [] else [o.a]) ++ (if [1, 2, 3, 4, 5, 6, 7, 9, 10, 12].contains o.op then [o.b] else [])

/-- The operations of a region that are due: its tiles' words with SLOT and STAGE at hand. -/
def dueOps (i : GridImage) (k : Nat) (c : LoopCtx) : List (Nat × GOp) :=
  (i.tiles.zipIdx).flatMap (fun x =>
    if x.1.kind == .off || x.1.region != k then []
    else (x.1.ops.map (fun w => gop w.toNat)).filterMap (fun o =>
      if o.slot = c.slot && c.valid.getLsbD o.stage then some (x.2, o) else none))

/-- An operation waits for an empty input, or its request for its engine. -/
def opFreezes (now : Nat) (g : Grid) (t : Nat) (o : GOp) : Bool :=
  (opReads o).any (fun r => 20 ≤ r && r < 24 && (inHead now (getTile g t) (r - 20)).isNone) ||
  ((o.op == 11 || o.op == 12) && mayEnterEng now g (o.sub % 8) t (o.op == 12) == .freeze)

/-- The global stall of a save (R326): the holder's warps and Bridle have stopped. -/
def gridStalled (s : State) (core : Nat) : Bool :=
  match (getGrid s core).holder.bind (getTeam s) with
  | some T => saveStopped s T
  | none => false

/-! ## The bank schedule and the other parties (R162, R251, R252) -/

/-- The slot that a running region uses in this cycle: nothing where it is frozen or holding, whose grants are free. -/
def slotFired (s : State) (core : Nat) (i : GridImage) (d : RegDesc) (k : Nat) : Option Nat :=
  let g := getGrid s core
  let c := getCtx g d
  if g.lastCycle = s.ptc + 1 then (if c.ranAt = s.ptc + 1 then some c.cur else none)
  else if c.running && !c.hold && !(dueOps i k c).any (fun y => opFreezes s.ptc g y.1 y.2) then some c.slot
  else none

/-- A bank is granted, `j` cycles from now, in the slot that a running region then reaches. -/
def bankGranted (s : State) (core j b : Nat) : Bool :=
  let g := getGrid s core
  match g.active with
  | none => false
  | some i =>
    !g.halted && !g.stopped && !gridStalled s core && (i.regions.zipIdx).any (fun x =>
      match slotFired s core i x.1 x.2 with
      | none => false
      | some k => i.grants.any (fun r => r.region == x.2 && r.bank == b && (grantSlots r x.1.ii).contains ((k + j) % x.1.ii)))

/-- A bank lies in a read-modify-write window in a cycle: an atomic of the grid's, or a scratchpad atomic's (R162, R251). -/
def bankHeld (s : State) (core cyc b : Nat) : Bool := (getGrid s core).bankUse.any (fun x => x.1 == cyc && x.2.1 == b)

/-- A party other than the grid may reach a bank in this cycle (R252). -/
def bankFree (s : State) (core b : Nat) : Bool := !bankGranted s core 0 b && !bankHeld s core s.ptc b

/-- The three-cycle window of a scratchpad atomic may begin on a bank (R162). -/
def windowFree (s : State) (core b : Nat) : Bool :=
  [0, 1, 2].all (fun j => !bankGranted s core j b && !bankHeld s core (s.ptc + j) b)

/-- The banks of `n` window bytes of a team (R140). -/
def spBanks (T : Team) (off n : Nat) : List Nat := ((List.range n).map (fun i => spView T (off + i) / 4 % 32)).eraseDups

/-- Every bank of an access is free in this cycle, the one in which it is performed (R252). -/
def banksFree (s : State) (core : Nat) (banks : List Nat) : Bool :=
  let g := getGrid s core
  (g.active.isNone && g.bankUse.isEmpty) || banks.all (bankFree s core)

/-- The banks that are free now, with those reached in the cycles before: the matrix engine reads each piece of a row in the first
cycle in which its bank is free (R202, log 45). -/
def reachBanks (s : State) (core : Nat) (reached : BitVec 32) : BitVec 32 :=
  reached ||| BitVec.ofNat 32 ((List.range 32).foldl (fun m b => if bankFree s core b then m + 2 ^ b else m) 0)

/-- Every bank of the matrix engine's next reads has been reached. -/
def banksReached (s : State) (core : Nat) (reached : BitVec 32) (banks : List Nat) : Bool :=
  let g := getGrid s core
  (g.active.isNone && g.bankUse.isEmpty) || banks.all (fun b => reached.getLsbD b || bankFree s core b)

end Sys2Proof.Machine
end

