-- ==== Sys2Proof/Machine/Operands.lean ====
section
/-! DEFINITION. Issue of an instruction of a block in flight (R30 to R36, R68 to R70): its operands, lane by
lane, the conditions of its turn, and the delivery of its result. -/

namespace Sys2Proof.Machine

/-! ## The issuing unit -/

/-- The unit an instruction issues on: its team and warp (or the Bridle), and its block in flight. -/
structure Iss where
  t : Nat
  u : Nat
  T : Team
  w : WUnit
  f : Flight

def issCtx (s : State) : Option Iss :=
  match getTeam s s.issuer.1 with
  | none => none
  | some T => match tabFind T.units s.issuer.2 with
    | none => none
    | some w => match w.flight with
      | none => none
      | some f => some ⟨s.issuer.1, s.issuer.2, T, w, f⟩

/-- The mask of the issuing fragment. -/
def issMask (i : Iss) : BitVec 128 := (getSplit i.w i.f.frag).mask

/-- The die of the issuing core, and its ptc(). -/
def issDie (i : Iss) : Nat := dieOf i.T.core
def issPtc (s : State) (i : Iss) : Nat := diePtc s (issDie i)

/-- The format slot an instruction names (R124). -/
def issSlot (i : Iss) (n : Nat) : FmtSlot := i.T.lrec.slots.getD n {}

/-! ## Operands (R32, R48, R95) -/

/-- The operands of one lane, each cut to its slot's width; an unused slot reads zero. -/
structure Opnds where
  l : Val
  r : Val
  p : Val
  deriving DecidableEq, Repr

def slotIdx : Slot → Nat
  | .l => 0
  | .r => 1
  | .p => 2

/-- The token in a slot of the instruction whose turn it is. -/
def tokAt (f : Flight) (sl : Slot) : Option Tok := tabFind f.toks (4 * f.idx + slotIdx sl)

/-- An f32 pattern converted exactly to f64 (R48). R48 does not say what "exactly" makes of a NaN: the model keeps its sign, its
payload and its signalling bit (log 42, DESIGN CHOICE). -/
def widen64 (x : Nat) : Nat :=
  match fDecode fmt32 x with
  | .nan _ => fInfBits fmt64 (x.testBit 31) + x % 2 ^ 23 * 2 ^ 29
  | v => (fRound fmt64 .rne false v).1

/-- The R operand that IMM32 supplies (R48, R129). R48 converts an f32 pattern where TY is f64, R111 reads SHFL's R as a 32-bit
index, and neither says which holds for SHFL.f64 with an immediate: the model takes the 32 bits as the index (log 47, DESIGN
CHOICE). -/
def immVal (o : Op) (ty : Ty) (pl : Payload) : Val :=
  match pl with
  | .a p =>
    let w := slotWidth o ty pl .r
    if w ≤ 32 then wrapN w p.imm32.toNat
    else if ty == .f64 then BitVec.ofNat 128 (widen64 p.imm32.toNat)
    else wrapI 64 p.imm32.toInt
  | _ => 0

/-- The lanes of a slot. -/
def slotLanes (i : Iss) (o : Op) (c : Ctl) (pl : Payload) (sl : Slot) : List Lane :=
  if sl == .r && payloadImm pl then List.replicate (laneCount i.u) (some (immVal o c.ty pl))
  else match tokAt i.f sl with
    | some k => k.lanes
    | none => List.replicate (laneCount i.u) none

/-- fires(l) for a P value (R32). -/
def firesOn (pm : PredMode) (p : Lane) : Bool :=
  match pm, p with
  | .none, _ => true
  | .ifTrue, some v => v != 0
  | .ifFalse, some v => v == 0
  | _, none => false

/-- A value as its slot reads it (R95). -/
def trim (o : Op) (c : Ctl) (pl : Payload) (sl : Slot) (v : Val) : Val :=
  let w := slotWidth o c.ty pl sl
  if w = 0 then v else wrapN w v.toNat

/-- A slot's value in a lane: an unused slot gives zero, a used one its token's value or null. -/
def slotVal (o : Op) (c : Ctl) (pl : Payload) (sl : Slot) (v : Lane) : Option Val :=
  if usesSlot o c pl sl || (sl == .r && payloadImm pl) then v.map (trim o c pl sl) else some 0

/-- The operands of one lane under R32: nothing where it does not fire or an operand is null. -/
def laneOpnds (o : Op) (c : Ctl) (pl : Payload) (l r p : Lane) : Option Opnds :=
  if !firesOn c.pm p then none
  else match slotVal o c pl .l l, slotVal o c pl .r r, (if (opInfo o).pData then slotVal o c pl .p p else some 0) with
    | some a, some b, some d => some ⟨a, b, d⟩
    | _, _, _ => none

/-- The operands of every lane; an inactive lane has none. -/
def allOpnds (i : Iss) (o : Op) (c : Ctl) (pl : Payload) : List (Option Opnds) :=
  let tl := slotLanes i o c pl .l
  let tr := slotLanes i o c pl .r
  let tp := slotLanes i o c pl .p
  (List.range (laneCount i.u)).map (fun n =>
    if (issMask i).getLsbD n then laneOpnds o c pl (tl.getD n none) (tr.getD n none) (tp.getD n none) else none)

/-- The common value of a uniform token on the active lanes, null if every one of them is (R33, R97). -/
def uniVal (mask : BitVec 128) (ls : List Lane) : Lane :=
  ((ls.zipIdx).findSome? (fun x => if mask.getLsbD x.2 then x.1 else none))

/-- The operands of uniform execution (R97). -/
def uniOpnds (i : Iss) (o : Op) (c : Ctl) (pl : Payload) : Option Opnds :=
  let m := issMask i
  laneOpnds o c pl (uniVal m (slotLanes i o c pl .l)) (uniVal m (slotLanes i o c pl .r))
    (uniVal m (slotLanes i o c pl .p))

/-- One value in every active lane. -/
def spread (i : Iss) (v : Lane) : List Lane :=
  (List.range (laneCount i.u)).map (fun n => if (issMask i).getLsbD n then v else none)

/-- The first lane that fires with no null operand, and its operands: the leader lane of R179, and the
operands of a form that acts once for the warp. -/
def leader (ops : List (Option Opnds)) : Option (Nat × Opnds) :=
  (ops.zipIdx).findSome? (fun x => x.1.map (fun v => (x.2, v)))

/-! ## The turn of an instruction (R36, R68, R69) -/

/-- Every slot the instruction uses holds a token that has arrived. -/
def tokensThere (s : State) (i : Iss) (o : Op) (c : Ctl) (pl : Payload) : Bool :=
  [Slot.l, .r, .p].all (fun sl => !usesSlot o c pl sl ||
    (match tokAt i.f sl with
     | some k => k.ready ≤ s.ptc
     | none => false))

/-- The block waits at this turn on an internal condition (R272). -/
def setWaitKind (s : State) (i : Iss) (k : WaitKind) : State :=
  updFlight s i.t i.u (fun f => { f with waitKind := k })

/-- A late operand is counted once (R69). -/
def lateOperand (s : State) (i : Iss) : State :=
  if i.f.late then s
  else updFlight (bump s i.T.core 1 1) i.t i.u (fun f => { f with late := true })

/-- What holds or ends a wait of the issuing unit on the tokens of a mask (R182). -/
def waitOn (s : State) (i : Iss) (m : Nat) : Option (Nat × TokWait) := firstWait (issPtc s i) (reqDone s i.T.core) i.w m

/-- The token that SBSET names is busy (R36). -/
def sbBusy (s : State) (i : Iss) (c : Ctl) : Bool :=
  match sbOf c with
  | none => false
  | some b => tokBusy (issPtc s i) (getTok i.w b)

/-- The lanes that fire, in ascending order, with their operands. -/
def firing (ops : List (Option Opnds)) : List (Nat × Opnds) :=
  (ops.zipIdx).filterMap (fun x => x.1.map (fun v => (x.2, v)))

/-- A lane's scratchpad or constant offset (R165). -/
def sAddr (p : FmtM) (x : Opnds) : Nat := (((x.l.toNat % 2 ^ 32 : Nat) + p.ofs12.toInt) % 2 ^ 32).toNat

/-- Instructions of format E that read the entry that RIDX names. -/
def namesEntry (o : Op) : Bool :=
  [Op.cpytLd, .cpytSt, .cpybLd, .cpybSt, .cpyg, .cpys, .publ, .cpycan, .cpyrGet, .cpyrPut, .cred, .mma, .wbld, .wbldT, .drain,
   .gcfg, .strmo].contains o

/-- The resource entries that an instruction reads as it issues (R287). -/
def entriesRead (o : Op) (pl : Payload) : List Nat :=
  match pl with
  | .c p => if o == .calli then [p.ridx.toNat] else []
  | .m p => if o == .ldc || (o == .pfetch && p.width != .w1) then [p.ridx.toNat] else []
  | .e p => if !namesEntry o then [] else p.ridx.toNat :: (if o == .drain && modeBit p 4 then [p.imm32.toNat / 2 ^ 16] else [])
  | _ => []

/-! ## What an instruction waits for by itself -/

/-- An arithmetic form on f64 (R129): one with TY f64, or a conversion from it. -/
def f64Form (o : Op) (c : Ctl) (pl : Payload) : Bool :=
  0x30 ≤ (opInfo o).maj && (opInfo o).maj < 0x48 &&
    ((c.ty == .f64 && (opInfo o).tys.contains .f64) || ((o == .fcvt || o == .itof || o == .ftoi) && srcTy pl == .f64))

/-- The path of its quarter that an instruction of a warp occupies (0 the FP64 path, R129; 1 the transcendental unit, R133), and
for how many slots; the uniform forms use neither. -/
def pathOf (o : Op) (c : Ctl) (pl : Payload) : Option (Nat × Nat) :=
  if payloadU pl then none
  else match o with
  | .frcp | .frsq | .fsqrt | .fexp2 | .flog2 | .ftanh => some (1, 4)
  | .fsincos => some (1, 8)
  | _ =>
    if f64Form o c pl then some (0, 4) else none

/-- The path that an instruction needs: none where every lane is null, which uses no execution unit (R68). -/
def pathNeed (i : Iss) (o : Op) (c : Ctl) (pl : Payload) : Option (Nat × Nat) :=
  if (leader (allOpnds i o c pl)).isNone then none else pathOf o c pl

/-- The path that an instruction needs is still occupied. -/
def pathBusy (s : State) (i : Iss) (o : Op) (c : Ctl) (pl : Payload) : Bool :=
  i.u != 16 && (match pathNeed i o c pl with
    | none => false
    | some (p, _) => s.ptc < tabGet 0 (getCore s i.T.core).paths (4 * p + i.u % 4))

/-- A later load waits: an acquire holds it until every load before it has returned (R157). -/
def acquireHeld (s : State) (i : Iss) : Bool :=
  s.loads.any (fun l => l.team == i.t && l.unit == i.u && l.idx < i.f.acq) || i.f.spLoads.any (fun l => l.idx < i.f.acq)

/-- An entry that the instruction reads lies in a page in transition (R163). -/
def entryMoves (s : State) (i : Iss) (o : Op) (c : Ctl) (pl : Payload) : Bool :=
  (entriesRead o pl).any (fun k => k < i.T.lrec.rcount && coreMoves s i.T.core i.T.vf (i.T.lrec.rtab + 64 * k) 64) &&
    (o == .calli || (leader (allOpnds i o c pl)).isSome)

/-- A byte of a constant buffer that a lane of an LDC reads lies in a page in transition (R163). -/
def constMoves (s : State) (i : Iss) (c : Ctl) (p : FmtM) : Bool :=
  match readEntry s i.T p.ridx.toNat with
  | .error _ => false
  | .ok e => (firing (allOpnds i .ldc c (.m p))).any (fun x =>
      let n := min (widthBytes p.width) (e.size - sAddr p x.2)
      n != 0 && coreMoves s i.T.core i.T.vf (e.base + sAddr p x.2) n)

/-- The engine number E. -/
def engOf (p : FmtE) : Nat := p.aux8.toNat % 8

/-- The queue that an instruction needs is full (R178, R214, R246, R254). -/
def queueFull (s : State) (i : Iss) (o : Op) (c : Ctl) (pl : Payload) : Bool :=
  let core := getCore s i.T.core
  let full := match o, pl with
    | .cpytLd, _ | .cpytSt, _ | .cpybLd, _ | .cpybSt, _ | .cpyg, _ | .cpys, _ | .cpyaccIn, _ | .cpyaccOut, _ | .publ, _
    | .cpycan, _ | .cpyrGet, _ | .cpyrPut, _ | .cred, _ => 32 ≤ core.copyQ.length
    | .chb, _ | .che, _ | .mma, _ | .wbld, _ | .wbldT, _ | .accz, _ | .drain, _ => 4 ≤ core.mat.queue.length
    | .strmo, .e p | .strma, .e p | .strmb, .e p | .strmc, .e p =>
      !i.T.pages.isEmpty && 16 ≤ (getEng core.grid (engOf p)).cmds.length
    | .gcfg, _ => !i.T.pages.isEmpty && (core.grid.staging.isSome || core.grid.staged.isSome)
    | _, _ => false
  full && (leader (allOpnds i o c pl)).isSome

/-- The matrix engine of a core (R198). -/
def getMat (s : State) (core : Nat) : Matrix := (getCore s core).mat

/-- IMM32[8:0], and IMM32[22:16]. -/
def imm9 (p : FmtE) : Nat := p.imm32.toNat % 2 ^ 9
def imm7 (p : FmtE) : Nat := p.imm32.toNat / 2 ^ 16 % 2 ^ 7

/-- The uniform byte addend LO, from the L operand. -/
def lofOf (p : FmtE) (x : Opnds) : Nat := if modeBit p 1 then x.l.toNat % 2 ^ 32 else 0

/-- The open chain of the issuing warp with a BASE (R209). -/
def ownChain (s : State) (i : Iss) (base : Nat) : Option Chain :=
  (getMat s i.T.core).chains.find? (fun k => k.base == base && k.owner == i.u)

/-- The rows of an open chain's area (R209). -/
def chainTouches (k : Chain) (lo n : Nat) : Bool := k.base < lo + n && lo < k.base + 4 * k.m

/-- Rows touch an open chain. -/
def chainAt (s : State) (core row rows : Nat) : Bool := (getMat s core).chains.any (fun k => chainTouches k row rows)

/-- A copy request is under way: its bytes have not all landed. -/
def underWay (q : CopyReq) : Bool := q.phase == .running || q.phase == .slow

/-- Nothing that touches the rows is in the queue, and no CPYACC on them is under way. -/
def rowsFree (c : Core) (row rows : Nat) : Bool :=
  !c.mat.queue.any (fun a => spansMeet a.row a.rows row rows) &&
  !c.copyQ.any (fun q => underWay q && (q.kind == .accIn || q.kind == .accOut) && spansMeet q.row q.count row rows)

/-- The rows of the store that an instruction reaches by itself (R222, R223); nothing where it traps. -/
def storeRows (s : State) (i : Iss) (o : Op) (c : Ctl) (pl : Payload) : Option (Nat × Nat) :=
  match pl, leader (allOpnds i o c pl) with
  | .e p, some (_, x) =>
    if o == .accrd || o == .accwr then
      let row := imm9 p + lofOf p x
      if 511 < row || chainAt s i.T.core row 1 then none else some (row, 1)
    else if o == .accwrd || o == .accwwr then
      (ownChain s i (imm9 p)).bind (fun k => if k.m ≤ imm7 p + lofOf p x then none else some (imm9 p, 4 * k.m))
    else none
  | _, _ => none

/-- A participant count resolved (R265). -/
def barCount (T : Team) (n : Nat) : Nat := if n = 0 then participants T else n

/-- The stores and atomics that the release part of an instruction waits for are not complete (R157, R173, R270). -/
def releaseHeld (s : State) (i : Iss) (o : Op) (c : Ctl) (pl : Payload) : Bool :=
  match pl with
  | .s p =>
    (o == .fenceRel || o == .fenceAr ||
      ((o == .bar || o == .bara || o == .barx) && barCount i.T (p.imm40.toNat % 32) ≤ participants i.T)) &&
    !releaseDone s i.t i.u i.T i.w (scopeCode p.scope) && (leader (allOpnds i o c pl)).isSome
  | _ => false

/-- An instruction at its turn waits for a condition of its own: an acquire, a page in transition, a full queue, rows of the
accumulator store, or its release part. -/
def stays (s : State) (i : Iss) (o : Op) (c : Ctl) (pl : Payload) : Bool :=
  entryMoves s i o c pl || queueFull s i o c pl || releaseHeld s i o c pl ||
  (match o, pl with
   | .ld, _ | .lds, _ => acquireHeld s i
   | .ldc, .m p => acquireHeld s i || constMoves s i c p
   | .cpytLd, _ | .cpytSt, _ | .cpybLd, _ | .cpybSt, _ | .cpyg, _ | .cpys, _ | .cpyaccIn, _ | .cpyaccOut, _ | .publ, _
   | .cpycan, _ | .cpyrGet, _ | .cpyrPut, _ | .cred, _ => acquireHeld s i
   | _, _ => match storeRows s i o c pl with
     | some (row, n) => !rowsFree (getCore s i.T.core) row n
     | none => false)

/-- A unit's block in flight has its next instruction ready to issue: it waits for nothing but its slot (R81). -/
def unitReady (s : State) (i : Iss) : Bool :=
  match i.f.words[i.f.idx]? with
  | none => false
  | some w => match decode w with
    | .error _ => false
    | .ok x => match x.view with
      | none => false
      | some (o, c, pl) =>
        i.f.entered && i.f.fault.isNone && i.f.wait.isNone && i.f.turn ≤ s.ptc && tokensThere s i o c pl &&
          (waitOn s i c.wait.toNat).isNone && !sbBusy s i c && !pathBusy s i o c pl && !stays s i o c pl

/-- The other warps of a warp's quarter with a block in flight (R14, R297). -/
def rivals (s : State) (i : Iss) : List Iss :=
  (s.teams.filter (fun x => x.2.core == i.T.core)).flatMap (fun x =>
    (x.2.units.filter (fun y => y.1 < 16 && y.1 % 4 == i.u % 4 && !(x.1 == i.t && y.1 == i.u))).filterMap (fun y =>
      y.2.flight.map (fun f => (⟨x.1, y.1, x.2, y.2, f⟩ : Iss))))

/-- The slots of its quarter that a warp still leaves to others (R36, R320). -/
def yieldKey (t u : Nat) : Nat := 32 * t + u
def yieldsLeft (s : State) (i : Iss) : Nat := tabGet 0 (getCore s i.T.core).yields (yieldKey i.t i.u)

/-- The choice of R80 between the blocks in flight of two warps of a quarter: the higher ageing counter, then the older stamp,
then the lower entry. Two that agree in all three are left to the agenda (log 1). -/
def precedes (a b : Iss) : Bool :=
  let x := getSplit a.w a.f.frag
  let y := getSplit b.w b.f.frag
  b.w.ageing < a.w.ageing || (a.w.ageing == b.w.ageing &&
    (x.stamp < y.stamp || (x.stamp == y.stamp && a.f.frag < b.f.frag)))

/-- The quarter grants its slot to another ready warp by the choice of R80; a warp that yielded goes behind every ready one
that did not (R36, R320). -/
def outranked (s : State) (i : Iss) : Bool :=
  (rivals s i).any (fun r => unitReady s r && yieldsLeft s r == 0 && (yieldsLeft s i != 0 || precedes r i))

/-- A cycle in which a unit's quarter can begin a slot: a multiple of 8 (R274), or the cycle that skipped eighths freed (R14).
The Bridle can issue in every cycle. -/
def slotStart (s : State) (i : Iss) : Bool :=
  i.u == 16 || s.ptc % 8 == 0 || s.ptc == tabGet 0 (getCore s i.T.core).slots (i.u % 4)

/-- The unit has no issue slot in this cycle: a quarter's slots begin on the cycles that are multiples of 8 (R274), and
each holds one instruction of the warp that R80 chooses; the cycles that empty eighths free go to the next ready warp
(R14). The Bridle issues in every cycle. The thermal clamp skips every second slot of its die (R353). -/
def noSlot (s : State) (i : Iss) : Bool :=
  let free := tabGet 0 (getCore s i.T.core).slots (i.u % 4)
  ((getDie s (issDie i)).throttled && s.ptc / slotCycles i.u % 2 == 1) ||
  i.u != 16 && (s.ptc < free || !slotStart s i || outranked s i)

/-- What holds an instruction back at its turn but for the slot; `some` is the state in which it waits: an operand that is late
counts whichever warp has the slot (R69), and a wait for a token follows R36 and R182. R182 does not say whether a promise can be
missed by an instruction that still lacks an operand: the tokens of WAIT count once the operands are there (log 47, DESIGN
CHOICE). -/
def held (s : State) (i : Iss) (o : Op) (c : Ctl) (pl : Payload) : Option State :=
  if !i.f.entered || i.f.fault.isSome || i.f.wait.isSome || i.f.hdr.icnt ≤ i.f.idx || s.ptc < i.f.turn then some s
  else if !tokensThere s i o c pl then some (if slotStart s i then lateOperand s i else s)
  else match waitOn s i c.wait.toNat with
    | some (_, .wait) => some (setWaitKind s i .token)
    | some (b, .late) => some (tokRaise s i.t i.u i.f.idx b true)
    | some (b, .failed) => some (tokRaise s i.t i.u i.f.idx b false)
    | _ => if sbBusy s i c then some (setWaitKind s i .token) else none

/-- The conditions under which the block's next instruction may issue; `some` is the state in which it could not (R68, R69,
R182). One that reads an entry of a page in transition tries again (R163). -/
def gate (s : State) (i : Iss) (o : Op) (c : Ctl) (pl : Payload) : Option State :=
  match held s i o c pl with
  | some s' => some s'
  | none => if noSlot s i || pathBusy s i o c pl || entryMoves s i o c pl then some s else none

/-! ## Results (R30, R70) -/

/-- A token sent to a target. -/
def sendTo (f : Flight) (k : Tok) : Option Target → Flight
  | none => f
  | some g => { f with toks := tabPut f.toks (4 * g.cons.toNat + slotIdx g.slot) k }

/-- The result of instruction `idx` sent to its targets and kept for the header writes. -/
def sendResult (f : Flight) (c : Ctl) (idx : Nat) (k : Tok) : Flight :=
  let f := sendTo (sendTo f k c.tgt0) k c.tgt1
  { f with results := tabPut f.results idx k }

/-- The slot that KEEP names (R36). -/
def keepSlot (c : Ctl) : Option Slot :=
  match c.keep.toNat with
  | 1 => some .l
  | 2 => some .r
  | 3 => some .p
  | _ => none

/-- Empty eighths of a warp's mask (R14). -/
def emptyEighths (u : Nat) (m : BitVec 128) : Nat :=
  if u = 16 then 0 else ((List.range 8).filter (fun e => m.extractLsb' (16 * e) 16 == 0)).length

/-- The bytes of a constant buffer that the lanes of an LDC read set the bits of their units. -/
def touchConst (s : State) (i : Iss) (c : Ctl) (p : FmtM) : State :=
  match readEntry s i.T p.ridx.toNat with
  | .error _ => s
  | .ok e => (firing (allOpnds i .ldc c (.m p))).foldl (fun s x =>
      let a := sAddr p x.2
      if e.size ≤ a then s
      else touchVa (touchVa s i.T ((e.base + a) % 2 ^ 64)) i.T ((e.base + min (a + widthBytes p.width - 1) (e.size - 1)) % 2 ^ 64)) s

/-- What an instruction that issues reads by itself sets the access bits of its units (R304). -/
def touchIssue (s : State) (i : Iss) (o : Op) (c : Ctl) (pl : Payload) : State :=
  let es := entriesRead o pl
  if es.isEmpty || (o != .calli && (leader (allOpnds i o c pl)).isNone) then s
  else
    let s := es.foldl (fun s k => touchEntry s i.T k) s
    match o, pl with
    | .ldc, .m p => touchConst s i c p
    | _, _ => s

/-- One of its quarter's slots passes for the warps that leave slots to others. -/
def passSlot (c : Core) (q : Nat) : Core :=
  { c with yields := tabMapD 0 (fun k n => if k % 4 = q then n - 1 else n) c.yields }

/-- A warp takes its quarter's slot, which lasts a number of cycles; after a word with YLD the next slot goes to another ready
warp (R36). -/
def takeSlot (s : State) (core t u cycles : Nat) (yld : Bool) : State :=
  updCore s core (fun c =>
    let c := passSlot { c with slots := tabSet 0 c.slots (u % 4) (s.ptc + cycles) } (u % 4)
    if yld then { c with yields := tabSet 0 c.yields (yieldKey t u) (max 1 (tabGet 0 c.yields (yieldKey t u))) } else c)

/-- The quarter's path is occupied from now on (R129, R133). -/
def takePath (s : State) (core u : Nat) (p : Option (Nat × Nat)) : State :=
  match p with
  | none => s
  | some (k, n) => updCore s core (fun c => { c with paths := tabSet 0 c.paths (4 * k + u % 4) (s.ptc + 8 * n) })

/-- An instruction issues: what it reads, the counters of R321, and the slot and the path that it takes. -/
def issueSlot (s : State) (i : Iss) (o : Op) (c : Ctl) (pl : Payload) : State :=
  let s := touchIssue s i o c pl
  let s := bump (bump s i.T.core 0 1) i.T.core 7 (emptyEighths i.u (issMask i))
  let s := if i.u = 16 then s
    else
      let s := takePath s i.T.core i.u (pathNeed i o c pl)
      updUnit (takeSlot s i.T.core i.t i.u (8 - emptyEighths i.u (issMask i)) c.yld) i.t i.u (fun w => { w with ageing := 0 })
  updUnit s i.t i.u (fun w => { w with issuedAt := s.ptc + 1 })

/-- The block goes on past an instruction: the next turn, KEEP, and the flags that it raised. -/
def passWord (s : State) (i : Iss) (o : Op) (c : Ctl) (pl : Payload) (fl : Flags) : State :=
  updFlight s i.t i.u (fun f =>
    { f with
      idx := f.idx + 1
      turn := s.ptc + slotCycles i.u * (1 + c.stall.toNat)
      late := false
      waitKind := .none
      raised := f.raised ||| fl
      keeps := match keepSlot c with
        | some sl => if usesSlot o c pl sl then f.keeps ++ [(f.idx, slotIdx sl)] else f.keeps
        | none => f.keeps })

/-- An instruction issues and the block goes on. -/
def advance (s : State) (i : Iss) (o : Op) (c : Ctl) (pl : Payload) (fl : Flags) : State :=
  passWord (issueSlot s i o c pl) i o c pl fl

/-- SBSET of an instruction that no engine completes: busy until its result is there (R36, R70). -/
def sbTimed (s : State) (i : Iss) (c : Ctl) (ready : Nat) : State :=
  match sbOf c with
  | none => s
  | some b => updUnit s i.t i.u (fun w => setTok w b { state := .complete, copy := false, promise := ready })

/-- SBSET of an instruction whose result comes by itself, a load's or an atomic's: busy until then (R36). -/
def pendSb (s : State) (i : Iss) (c : Ctl) : State :=
  match sbOf c with
  | none => s
  | some b => updUnit (updFlight s i.t i.u (fun f => { f with sbLoads := f.sbLoads ++ [(i.f.idx, b)] })) i.t i.u
      (fun w => setTok w b { state := .pending })

/-- The form takes the latency of 64-bit types: its type has 64 bits, or for a conversion the side that R136 names. -/
def longForm (o : Op) (c : Ctl) (pl : Payload) : Bool :=
  match o with
  | .fcvt | .itof => tyWidth c.ty == 64 || tyWidth (srcTy pl) == 64
  | .ftoi => tyWidth (srcTy pl) == 64
  | _ => tyWidth c.ty == 64

/-- The planned latency in cycles (R27); on the Bridle every f64 form takes 4 cycles at least (R227). -/
def latency (o : Op) (c : Ctl) (pl : Payload) (u : Nat) : Nat :=
  slotCycles u * (if payloadU pl then 1 else if !longForm o c pl then (opInfo o).lat
    else if u = 16 && f64Form o c pl then max 4 (opInfo o).lat64 else (opInfo o).lat64)

/-- An instruction that has issued produces its result after `lat` cycles. -/
def complete (s : State) (i : Iss) (o : Op) (c : Ctl) (pl : Payload) (lanes : List Lane) (lat : Nat) (fl : Flags) : State :=
  let s := passWord s i o c pl fl
  let s := sbTimed s i c (diePtc s (issDie i) + lat)
  updFlight s i.t i.u (fun f => sendResult f c i.f.idx ⟨lanes, s.ptc + lat⟩)

/-- An instruction that has issued completes without a result, and so does a token that it sets. -/
def completeNone (s : State) (i : Iss) (o : Op) (c : Ctl) (pl : Payload) : State :=
  sbTimed (passWord s i o c pl 0) i c (diePtc s (issDie i))

/-- An instruction issues and produces its result after `lat` cycles. -/
def finish (s : State) (i : Iss) (o : Op) (c : Ctl) (pl : Payload) (lanes : List Lane) (lat : Nat)
    (fl : Flags) : State :=
  complete (issueSlot s i o c pl) i o c pl lanes lat fl

/-- An instruction issues and produces no result; a token it sets completes in the same slot (R70). -/
def finishNone (s : State) (i : Iss) (o : Op) (c : Ctl) (pl : Payload) : State :=
  completeNone (issueSlot s i o c pl) i o c pl

/-! ## The shapes of an instruction's meaning -/

/-- The instruction's effect at its turn; before its turn nothing happens but what `gate` says. -/
def atTurn (o : Op) (c : Ctl) (pl : Payload) (s : State) (k : Iss → Result) : Result :=
  match issCtx s with
  | none => .next s
  | some i => match gate s i o c pl with
    | some s' => .next s'
    | none => k i

/-- The results and the flags of a lane-wise function over the firing lanes (R32, R127). -/
def laneResults (ops : List (Option Opnds)) (f : Opnds → FRes) : List Lane × Flags :=
  let r := ops.map (fun x => x.map f)
  (r.map (fun x => x.map Prod.fst), r.foldl (fun fl x => match x with | some y => fl ||| y.2 | none => fl) 0)

/-- A lane-wise instruction, or its uniform form (R32, R97). -/
def execLanes (o : Op) (c : Ctl) (pl : Payload) (f : Iss → Opnds → FRes) (s : State) : Result :=
  atTurn o c pl s (fun i =>
    if payloadU pl then
      let r := (uniOpnds i o c pl).map (f i)
      .next (finish s i o c pl (spread i (r.map Prod.fst)) (latency o c pl i.u) ((r.map Prod.snd).getD 0))
    else
      let r := laneResults (allOpnds i o c pl) (f i)
      .next (finish s i o c pl r.1 (latency o c pl i.u) r.2))

/-- A lane-wise instruction that raises no flag. -/
def execAlu (o : Op) (c : Ctl) (pl : Payload) (f : Opnds → Val) (s : State) : Result :=
  execLanes o c pl (fun _ x => (f x, 0)) s

/-- A lane-wise instruction under its format slot (R124). -/
def execFp (o : Op) (c : Ctl) (pl : Payload) (f : FmtSlot → Opnds → FRes) (s : State) : Result :=
  execLanes o c pl (fun i => f (issSlot i (payloadFs pl))) s

/-- An instruction that gives every firing lane one value of the warp. -/
def execAlu1 (o : Op) (c : Ctl) (pl : Payload) (f : Iss → Val) (s : State) : Result :=
  execLanes o c pl (fun i _ => (f i, 0)) s

/-- An instruction whose lanes are computed together. -/
def execCross (o : Op) (c : Ctl) (pl : Payload) (lat : Nat) (f : Iss → List Lane) (s : State) : Result :=
  atTurn o c pl s (fun i => .next (finish s i o c pl (f i) (slotCycles i.u * lat) 0))

/-- A fault of the instruction at its turn, in a lane (R73, R177). -/
def trapHere (s : State) (i : Iss) (lane : Nat) (code : TrapCode) (src : TrapSource) (info : Nat) : State :=
  raise s i.t i.u i.f.idx lane (blockTrap i.f code src info)

end Sys2Proof.Machine
end

