-- ==== Sys2Proof/Machine/Integer.lean ====
section
/-! DEFINITION. Integer, logic and address instructions (chapter 4). -/

namespace Sys2Proof.Machine

/-! ## Arithmetic (R100 to R102) -/

/-- ADD (R101). -/
def execAdd (c : Ctl) (p : FmtA) (s : State) : Result :=
  execAlu .add c (.a p) (fun x => fAdd c.ty x.l x.r) s

/-- SUB (R101). -/
def execSub (c : Ctl) (p : FmtA) (s : State) : Result :=
  execAlu .sub c (.a p) (fun x => fSub c.ty x.l x.r) s

/-- MUL (R101). -/
def execMul (c : Ctl) (p : FmtA) (s : State) : Result :=
  execAlu .mul c (.a p) (fun x => fMul c.ty x.l x.r) s

/-- MULHI (R101). -/
def execMulhi (c : Ctl) (p : FmtA) (s : State) : Result :=
  execAlu .mulhi c (.a p) (fun x => fMulhi c.ty x.l x.r) s

/-- MAD (R101). -/
def execMad (c : Ctl) (p : FmtA) (s : State) : Result :=
  execAlu .mad c (.a p) (fun x => fMad c.ty x.l x.r x.p) s

/-- ADD64 (R101). -/
def execAdd64 (c : Ctl) (p : FmtA) (s : State) : Result :=
  execAlu .add64 c (.a p) (fun x => fAdd64 c.ty x.l x.r) s

/-- SUB64 (R101). -/
def execSub64 (c : Ctl) (p : FmtA) (s : State) : Result :=
  execAlu .sub64 c (.a p) (fun x => fSub64 c.ty x.l x.r) s

/-- MAD64 (R101). -/
def execMad64 (c : Ctl) (p : FmtA) (s : State) : Result :=
  execAlu .mad64 c (.a p) (fun x => fMad64 c.ty x.l x.r x.p) s

/-- IDIV (R102). -/
def execIdiv (c : Ctl) (p : FmtA) (s : State) : Result :=
  execAlu .idiv c (.a p) (fun x => fIdiv c.ty x.l x.r) s

/-- IREM (R102). -/
def execIrem (c : Ctl) (p : FmtA) (s : State) : Result :=
  execAlu .irem c (.a p) (fun x => fIrem c.ty x.l x.r) s

/-- MIN (R101). -/
def execMin (c : Ctl) (p : FmtA) (s : State) : Result :=
  execAlu .min_ c (.a p) (fun x => fMin c.ty x.l x.r) s

/-- MAX (R101). -/
def execMax (c : Ctl) (p : FmtA) (s : State) : Result :=
  execAlu .max_ c (.a p) (fun x => fMax c.ty x.l x.r) s

/-- ABS (R101). -/
def execAbs (c : Ctl) (p : FmtA) (s : State) : Result :=
  execAlu .abs_ c (.a p) (fun x => fAbs c.ty x.l) s

/-- NEG (R101). -/
def execNeg (c : Ctl) (p : FmtA) (s : State) : Result :=
  execAlu .neg_ c (.a p) (fun x => fNeg c.ty x.l) s

/-! ## Logic, shifts, counts and bit fields (R103 to R105) -/

/-- AND (R103). -/
def execAnd (c : Ctl) (p : FmtA) (s : State) : Result :=
  execAlu .and_ c (.a p) (fun x => fAnd c.ty x.l x.r) s

/-- OR (R103). -/
def execOr (c : Ctl) (p : FmtA) (s : State) : Result :=
  execAlu .or_ c (.a p) (fun x => fOr c.ty x.l x.r) s

/-- XOR (R103). -/
def execXor (c : Ctl) (p : FmtA) (s : State) : Result :=
  execAlu .xor_ c (.a p) (fun x => fXor c.ty x.l x.r) s

/-- ANDN (R103). -/
def execAndn (c : Ctl) (p : FmtA) (s : State) : Result :=
  execAlu .andn c (.a p) (fun x => fAndn c.ty x.l x.r) s

/-- NOT (R103). -/
def execNot (c : Ctl) (p : FmtA) (s : State) : Result :=
  execAlu .not_ c (.a p) (fun x => fNot c.ty x.l) s

/-- SHL (R103). -/
def execShl (c : Ctl) (p : FmtA) (s : State) : Result :=
  execAlu .shl c (.a p) (fun x => fShl c.ty x.l x.r) s

/-- SHR (R103). -/
def execShr (c : Ctl) (p : FmtA) (s : State) : Result :=
  execAlu .shr c (.a p) (fun x => fShr c.ty x.l x.r) s

/-- SAR (R103). -/
def execSar (c : Ctl) (p : FmtA) (s : State) : Result :=
  execAlu .sar c (.a p) (fun x => fSar c.ty x.l x.r) s

/-- ROL (R103). -/
def execRol (c : Ctl) (p : FmtA) (s : State) : Result :=
  execAlu .rol c (.a p) (fun x => fRol c.ty x.l x.r) s

/-- POPC (R103). -/
def execPopc (c : Ctl) (p : FmtA) (s : State) : Result :=
  execAlu .popc c (.a p) (fun x => fPopc c.ty x.l) s

/-- CLZ (R103). -/
def execClz (c : Ctl) (p : FmtA) (s : State) : Result :=
  execAlu .clz c (.a p) (fun x => fClz c.ty x.l) s

/-- CTZ (R103). -/
def execCtz (c : Ctl) (p : FmtA) (s : State) : Result :=
  execAlu .ctz c (.a p) (fun x => fCtz c.ty x.l) s

/-- BREV (R103). -/
def execBrev (c : Ctl) (p : FmtA) (s : State) : Result :=
  execAlu .brev c (.a p) (fun x => fBrev c.ty x.l) s

/-- BFX (R104): POS and LEN in AUX. -/
def execBfx (c : Ctl) (p : FmtA) (s : State) : Result :=
  execAlu .bfx c (.a p) (fun x => fBfx c.ty p.aux.toNat x.l) s

/-- BFI (R104): the field comes in P. -/
def execBfi (c : Ctl) (p : FmtA) (s : State) : Result :=
  execAlu .bfi c (.a p) (fun x => fBfi c.ty p.aux.toNat x.l x.p) s

/-- PRMT (R105). -/
def execPrmt (c : Ctl) (p : FmtA) (s : State) : Result :=
  execAlu .prmt c (.a p) (fun x => fPrmt p.aux.toNat x.l x.r) s

/-! ## Compare, select, constants and addresses (R106 to R109) -/

/-- CMP.eq (R106). -/
def execCmpEq (c : Ctl) (p : FmtA) (s : State) : Result :=
  execAlu .cmpEq c (.a p) (fun x => fCmp .eq c.ty x.l x.r) s

/-- CMP.ne (R106). -/
def execCmpNe (c : Ctl) (p : FmtA) (s : State) : Result :=
  execAlu .cmpNe c (.a p) (fun x => fCmp .ne c.ty x.l x.r) s

/-- CMP.lt (R106). -/
def execCmpLt (c : Ctl) (p : FmtA) (s : State) : Result :=
  execAlu .cmpLt c (.a p) (fun x => fCmp .lt c.ty x.l x.r) s

/-- CMP.le (R106). -/
def execCmpLe (c : Ctl) (p : FmtA) (s : State) : Result :=
  execAlu .cmpLe c (.a p) (fun x => fCmp .le c.ty x.l x.r) s

/-- CMP.gt (R106). -/
def execCmpGt (c : Ctl) (p : FmtA) (s : State) : Result :=
  execAlu .cmpGt c (.a p) (fun x => fCmp .gt c.ty x.l x.r) s

/-- CMP.ge (R106). -/
def execCmpGe (c : Ctl) (p : FmtA) (s : State) : Result :=
  execAlu .cmpGe c (.a p) (fun x => fCmp .ge c.ty x.l x.r) s

/-- SEL (R107): the test covers every bit of the L token. -/
def execSel (c : Ctl) (p : FmtA) (s : State) : Result :=
  execAlu .sel c (.a p) (fun x => fSel c.ty x.l x.r x.p) s

/-- MOVI (R108). -/
def execMovi (c : Ctl) (p : FmtI) (s : State) : Result :=
  execAlu .movi c (.i p) (fun _ => fMovi c.ty p.imm64) s

/-- ADDHI (R108). -/
def execAddhi (c : Ctl) (p : FmtH) (s : State) : Result :=
  execAlu .addhi c (.h p) (fun x => fAddhi c.ty p.imm20 x.l) s

/-- LEA (R109): SCALE in AUX. -/
def execLea (c : Ctl) (p : FmtA) (s : State) : Result :=
  execAlu .lea c (.a p) (fun x => fLea c.ty p.aux.toNat x.l x.r) s

/-! ## Widening and dot product (R110) -/

/-- SEXT (R110): the source width in AUX. -/
def execSext (c : Ctl) (p : FmtA) (s : State) : Result :=
  execAlu .sext c (.a p) (fun x => fSext c.ty p.aux.toNat x.l) s

/-- ZEXT (R110). -/
def execZext (c : Ctl) (p : FmtA) (s : State) : Result :=
  execAlu .zext c (.a p) (fun x => fZext c.ty p.aux.toNat x.l) s

/-- DP4 (R110). -/
def execDp4 (c : Ctl) (p : FmtA) (s : State) : Result :=
  execAlu .dp4 c (.a p) (fun x => fDp4 c.ty x.l x.r x.p) s

/-! ## Cross-lane (R111, R112) -/

/-- A lane that fires with a value in its L slot: active(l) and fires(l) and not isnull(L[l]) (R87, R111,
R112). -/
def partL (i : Iss) (o : Op) (c : Ctl) (pl : Payload) : List (Option Val) :=
  let tl := slotLanes i o c pl .l
  let tp := slotLanes i o c pl .p
  (List.range (laneCount i.u)).map (fun n =>
    if (issMask i).getLsbD n && firesOn c.pm (tp.getD n none) then (tl.getD n none).map (trim o c pl .l) else none)

/-- SHFL (R111): each lane reads the L token of its source lane, or its own where that lane has none. -/
def shflLanes (k : ShflKind) (o : Op) (c : Ctl) (p : FmtA) (i : Iss) : List Lane :=
  let parts := partL i o c (.a p)
  ((allOpnds i o c (.a p)).zipIdx).map (fun x => x.1.map (fun v =>
    match shflSrc k p.aux.toNat x.2 v.r with
    | none => v.l
    | some j => (parts.getD j none).getD v.l))

/-- REDUX (R112): segments of 128 / 2^D lanes; SCAN gives inclusive prefixes. -/
def reduxLanes (k : ReduxKind) (o : Op) (c : Ctl) (p : FmtA) (i : Iss) : List Lane :=
  let parts := partL i o c (.a p)
  let size := 128 / 2 ^ (p.aux.toNat % 8)
  let scan := p.aux.getLsbD 3
  ((allOpnds i o c (.a p)).zipIdx).map (fun x => x.1.map (fun _ =>
    let lo := x.2 - x.2 % size
    let n := if scan then x.2 + 1 - lo else size
    ((parts.drop lo).take n).foldl (fun acc y => match y with
      | some v => reduxOp k c.ty acc v
      | none => acc) (reduxId k c.ty)))

/-- REDUX takes 4 slots, 5 with SCAN (R112). -/
def reduxLat (p : FmtA) : Nat := if p.aux.getLsbD 3 then 5 else 4

/-- SHFL.idx (R111). -/
def execShflIdx (c : Ctl) (p : FmtA) (s : State) : Result :=
  execCross .shflIdx c (.a p) 2 (shflLanes .idx .shflIdx c p) s

/-- SHFL.rot (R111). -/
def execShflRot (c : Ctl) (p : FmtA) (s : State) : Result :=
  execCross .shflRot c (.a p) 2 (shflLanes .rot .shflRot c p) s

/-- SHFL.xor (R111). -/
def execShflXor (c : Ctl) (p : FmtA) (s : State) : Result :=
  execCross .shflXor c (.a p) 2 (shflLanes .xor .shflXor c p) s

/-- SHFL.rev (R111). -/
def execShflRev (c : Ctl) (p : FmtA) (s : State) : Result :=
  execCross .shflRev c (.a p) 2 (shflLanes .rev .shflRev c p) s

/-- REDUX.add (R112). -/
def execReduxAdd (c : Ctl) (p : FmtA) (s : State) : Result :=
  execCross .reduxAdd c (.a p) (reduxLat p) (reduxLanes .add .reduxAdd c p) s

/-- REDUX.min (R112). -/
def execReduxMin (c : Ctl) (p : FmtA) (s : State) : Result :=
  execCross .reduxMin c (.a p) (reduxLat p) (reduxLanes .min .reduxMin c p) s

/-- REDUX.max (R112). -/
def execReduxMax (c : Ctl) (p : FmtA) (s : State) : Result :=
  execCross .reduxMax c (.a p) (reduxLat p) (reduxLanes .max .reduxMax c p) s

/-- REDUX.and (R112). -/
def execReduxAnd (c : Ctl) (p : FmtA) (s : State) : Result :=
  execCross .reduxAnd c (.a p) (reduxLat p) (reduxLanes .and .reduxAnd c p) s

/-- REDUX.or (R112). -/
def execReduxOr (c : Ctl) (p : FmtA) (s : State) : Result :=
  execCross .reduxOr c (.a p) (reduxLat p) (reduxLanes .or .reduxOr c p) s

/-- REDUX.xor (R112). -/
def execReduxXor (c : Ctl) (p : FmtA) (s : State) : Result :=
  execCross .reduxXor c (.a p) (reduxLat p) (reduxLanes .xor .reduxXor c p) s

end Sys2Proof.Machine
end

