-- ==== Sys2Proof/Machine/Control.lean ====
section
/-! DEFINITION. Block and control-flow instructions (chapter 3, R85 to R87). A terminator decides the lanes'
successors; they take effect at the commit (R72, R76). -/

namespace Sys2Proof.Machine

/-- A terminator issues: its decision is recorded for the commit. -/
def execTerm (o : Op) (c : Ctl) (pl : Payload) (f : Iss → Term) (s : State) : Result :=
  atTurn o c pl s (fun i =>
    .next (finishNone (updFlight s i.t i.u (fun fl => { fl with term := some (f i) })) i o c pl))

/-- SUCC (R86): lane l takes min(L, n − 1), and 0 for a null. -/
def execSucc (c : Ctl) (s : State) : Result :=
  execTerm .succ c .n (fun i => .lanes ((slotLanes i .succ c .n .l).map (fun x => match x with
    | none => 0
    | some v => min (zx 32 v) i.f.hdr.scnt))) s

/-- BRC (R86): 0 for a null or any bit set, else 1. -/
def execBrc (c : Ctl) (s : State) : Result :=
  execTerm .brc c .n (fun i => .lanes ((slotLanes i .brc c .n .l).map (fun x => match x with
    | none => 0
    | some v => if v = 0 then 1 else 0))) s

/-- JMPS (R86). -/
def execJmps (c : Ctl) (s : State) : Result := execTerm .jmps c .n (fun _ => .jump) s

/-- The address of a word offset from a block (R86): 57 bits (R75). -/
def blockAt (addr : Nat) (ofs : Int) : Nat := (((addr : Int) + 16 * ofs) % 2 ^ 57).toNat

/-- The depth of the issuing fragment's call stack. -/
def issDepth (i : Iss) : Nat := (getSplit i.w i.f.frag).stack.length

/-- CALL (R86): a full stack traps STACK. -/
def execCall (c : Ctl) (p : FmtC) (s : State) : Result :=
  atTurn .call c (.c p) s (fun i =>
    if issDepth i = 16 then .next (trapHere s i 0 .stack .engine 16)
    else .next (finishNone (updFlight s i.t i.u (fun f =>
      { f with term := some (.call (blockAt f.addr p.ofs24.toInt)) })) i .call c (.c p)))

/-- The object that a CODE entry names has been revoked (R334). -/
def revoked (s : State) (vf obj : Nat) : Bool := (getTenant s vf).objs.any (fun o => o.num == obj && o.revoked)

/-- CALLI (R86): the callee from a CODE resource, read at issue. -/
def execCalli (c : Ctl) (p : FmtC) (s : State) : Result :=
  atTurn .calli c (.c p) s (fun i =>
    let idx := p.ridx.toNat
    match readEntry s i.T idx with
    | .error (k, a) => .next (trapHere s i 0 k (if k == .resourceKind then .engine else .globalMem) a)
    | .ok e =>
      if e.kind != .code || revoked s i.T.vf e.obj then .next (trapHere s i 0 .resourceKind .engine idx)
      else if issDepth i = 16 then .next (trapHere s i 0 .stack .engine 16)
      else .next (finishNone (updFlight s i.t i.u (fun f =>
        { f with term := some (.call (e.base % 2 ^ 57)) })) i .calli c (.c p)))

/-- RET (R86): an empty stack traps STACK. -/
def execRet (c : Ctl) (s : State) : Result :=
  atTurn .ret c .n s (fun i =>
    if issDepth i = 0 then .next (trapHere s i 0 .stack .engine 0)
    else .next (finishNone (updFlight s i.t i.u (fun f => { f with term := some .ret })) i .ret c .n))

/-- EXIT (R86): the active lanes retire at the commit. -/
def execExit (c : Ctl) (s : State) : Result := execTerm .exit c .n (fun _ => .exit) s

/-- NUL (R87): null in every lane. -/
def execNul (c : Ctl) (s : State) : Result :=
  execCross .nul c .n 1 (fun i => List.replicate (laneCount i.u) none) s

/-- MOV (R87). -/
def execMov (c : Ctl) (s : State) : Result := execAlu .mov c .n (fun x => x.l) s

/-- The values of the lanes that take part in a VOTE (R87). -/
def voteParts (o : Op) (c : Ctl) (i : Iss) : List Val := (partL i o c .n).filterMap id

/-- A VOTE: one value for every firing lane. -/
def execVote (o : Op) (c : Ctl) (f : Iss → Val) (s : State) : Result := execAlu1 o c .n f s

/-- VOTE.any (R87). -/
def execVoteAny (c : Ctl) (s : State) : Result :=
  execVote .voteAny c (fun i => bool32 ((voteParts .voteAny c i).any (fun v => v != 0))) s

/-- VOTE.all (R87). -/
def execVoteAll (c : Ctl) (s : State) : Result :=
  execVote .voteAll c (fun i => bool32 ((voteParts .voteAll c i).all (fun v => v != 0))) s

/-- VOTE.ballot (R87). -/
def execVoteBallot (c : Ctl) (s : State) : Result :=
  execVote .voteBallot c (fun i => BitVec.ofNat 128 (((partL i .voteBallot c .n).zipIdx).foldl (fun n x =>
    match x.1 with
    | some v => if v = 0 then n else n + 2 ^ x.2
    | none => n) 0)) s

/-- VOTE.count (R87). -/
def execVoteCount (c : Ctl) (s : State) : Result :=
  execVote .voteCount c (fun i =>
    BitVec.ofNat 128 ((voteParts .voteCount c i).filter (fun v => v != 0)).length) s

/-- MASKRD (R87): the issuing fragment's mask. -/
def execMaskrd (c : Ctl) (s : State) : Result := execAlu1 .maskrd c .n issMask s

end Sys2Proof.Machine
end

