-- ==== Sys2Proof/Machine/BlockCheck.lean ====
section
/-! DEFINITION. The check of a block at its entry (R57): the words of step 2, the cross-checks of step 3, and the
uniform tokens of R96. -/

namespace Sys2Proof.Machine

/-! ## Step 2: each word -/

/-- R17, R18, R227: the engine instructions that a role may issue. -/
def roleOk (role : Role) (e : Engine) : Bool :=
  match e with
  | .none => true
  | .copy => role == .copy
  | .matrix => role == .matrix
  | .grid => role == .grid

/-- A word as its mnemonic, common fields and payload. -/
abbrev View := Op × Ctl × Payload

/-- The trap code of a rejection. -/
def decodeTrap : DecodeErr → TrapCode
  | .illegalMajor => .illegalMajor
  | .illegalMinor => .illegalMinor
  | .reservedBits => .reservedBits
  | .truncated => .badHeader

/-- The checks of step 2 of one word, in order (R57, R214, R319): `tretOk` says that the conditions of R319 hold. -/
def wordFail (role : Role) (full tretOk : Bool) (w : IWord) : Except TrapCode View :=
  match decode w with
  | .error e => .error (decodeTrap e)
  | .ok i => match i.view with
    | none => .error .illegalMajor
    | some v =>
      if !roleOk role (opInfo v.1).eng then .error .engineRole
      else if v.1 == .tret && !tretOk then .error .illegalMinor
      else if (opInfo v.1).full && !full then .error .partialMask
      else .ok v

/-- Step 2 over the words, the first of them at index `at_`: the views, or the trap and the word it names. -/
def wordsFail (role : Role) (full tretOk : Bool) : Nat → List IWord → Except (TrapCode × Nat) (List View)
  | _, [] => .ok []
  | n, w :: ws => match wordFail role full tretOk w with
    | .error c => .error (c, n)
    | .ok v => match wordsFail role full tretOk (n + 1) ws with
      | .error e => .error e
      | .ok vs => .ok (v :: vs)

/-! ## Tokens and their sources (R30, R34) -/

/-- Where a slot's token comes from: a read entry or an instruction. -/
inductive Src where
  | read (k : Nat)
  | ins (i : Nat)
  deriving DecidableEq, Repr

/-- A token on its way: its consumer, slot, source, and the word that sends it. -/
structure Feed where
  cons : Nat
  slot : Slot
  src : Src
  word : Nat
  deriving DecidableEq, Repr

/-- The header word of entry `k` of the entry string (R57). -/
def entryWord (k : Nat) : Nat := 1 + 20 * k / 128

/-- The instructions with their indices. -/
def indexed (ins : List View) : List (Nat × View) := (ins.zipIdx).map (fun x => (x.2, x.1))

def targetsOf (c : Ctl) : List Target := c.tgt0.toList ++ c.tgt1.toList

/-- Every token of the block; a read entry whose target is invalid sends none. -/
def feedsOf (h : Header) (ins : List View) : List Feed :=
  (((h.reads.zipIdx).filter (fun x => x.1.valid)).map (fun x => ⟨x.1.cons, x.1.slot, .read x.2, entryWord x.2⟩)) ++
  (indexed ins).flatMap (fun x => (targetsOf x.2.2.1).map (fun g => ⟨g.cons.toNat, g.slot, .ins x.1, h.hcnt + x.1⟩))

/-- A slot that an instruction of the block uses. -/
def slotUsed (ins : List View) (n : Nat) (sl : Slot) : Bool :=
  match ins[n]? with
  | some (o, c, p) => usesSlot o c p sl
  | none => false

/-- The slots an instruction uses. -/
def usedSlots (v : View) : List Slot := [Slot.l, .r, .p].filter (usesSlot v.1 v.2.1 v.2.2)

/-! ## Uniform tokens (R96) -/

/-- The instructions that produce a uniform token of themselves. -/
def selfUniform : View → Bool
  | (o, _, p) =>
    payloadU p ||
    (match o with
     | .movi | .voteAny | .voteAll | .voteBallot | .voteCount | .maskrd | .nul | .fflagsRd | .tokq | .gqry | .strmq
     | .waitx | .realign | .perfrd | .claim | .claimRel | .spawn => true
     | .reduxAdd | .reduxMin | .reduxMax | .reduxAnd | .reduxOr | .reduxXor => payloadAux p == 0
     | .srd => (match p with
                | .s q => q.imm40 != 0
                | _ => true)
     | _ => false)

/-- Whether the token of a slot is uniform, given the instructions before it. -/
def slotUniform (h : Header) (fs : List Feed) (us : List Bool) (n : Nat) (sl : Slot) : Bool :=
  match fs.find? (fun f => f.cons == n && f.slot == sl) with
  | none => true
  | some f => match f.src with
    | .ins i => us.getD i true
    | .read k => match h.reads[k]? with
      | some r => r.space == 1 || (r.space == 3 && r.index != 0)
      | none => true

/-- The instructions that produce a uniform token, in order. -/
def uniforms (h : Header) (fs : List Feed) (ins : List View) : List Bool :=
  (indexed ins).foldl (fun us x =>
    us ++ [selfUniform x.2 || (x.2.1 == .mov && slotUniform h fs us x.1 .l)]) []

/-- The slots whose token must be uniform (R97, R138, R175, R176, R217, R224, R276, R309, R316). -/
def needUniform (v : View) : List Slot :=
  let o := v.1
  let m := (opInfo o).maj
  if payloadU v.2.2 || o == .fflagsClr then usedSlots v
  else if (0x88 ≤ m && m ≤ 0x8F) || (opInfo o).useL == .opt ||
      (match o with
       | .swr | .spawn => true
       | _ => false) then (usedSlots v).filter (fun sl => sl == .l || (sl == .r && (0x88 ≤ m || o == .drain)))
  else match o with
    | .cinv | .claim | .claimRel => (usedSlots v).filter (fun sl => sl != .p)
    | _ => []

/-! ## Step 3: the cross-checks -/

/-- The registers of a read entry reach the bound of the v file (R43). -/
def readBound (ins : List View) (vb : Nat) (r : ReadEntry) : Bool :=
  r.space == 0 && (match ins[r.cons]? with
    | some (o, c, p) => vb < r.index + vRegs (readWidth o c.ty p r.slot)
    | none => vb ≤ r.index)

/-- The registers that a write entry takes. -/
def writeRegs (ins : List View) (w : WriteEntry) : Nat :=
  match ins[w.prod]? with
  | some (o, c, _) => if w.space = 0 then vRegs (resWidth o c.ty) else if w.space = 1 && 64 < resWidth o c.ty then 2 else 1
  | none => 1

def writeBound (ins : List View) (vb : Nat) (w : WriteEntry) : Bool :=
  w.space == 0 && vb < w.index + writeRegs ins w

/-- The words of the entries that reach past the v bound (R43, R65). -/
def boundFails (h : Header) (ins : List View) (vb : Nat) : List Nat :=
  ((h.reads.zipIdx).filter (fun x => readBound ins vb x.1)).map (fun x => entryWord x.2) ++
  ((h.writes.zipIdx).filter (fun x => writeBound ins vb x.1)).map (fun x => entryWord (h.reads.length + x.2))

/-- A read entry that breaks R34, R41 or R43. -/
def readFail (h : Header) (ins : List View) (r : ReadEntry) : Bool :=
  !r.valid || h.icnt ≤ r.cons || !slotUsed ins r.cons r.slot ||
  (match ins[r.cons]? with
   | none => true
   | some (o, c, p) =>
     let b := readWidth o c.ty p r.slot
     match r.space with
     | 0 => r.index % vRegs b != 0
     | 1 => if 64 < b then 64 < r.index + 2 || r.index % 2 != 0 else 63 < r.index
     | 2 => 7 < r.index
     | _ => !sregAssigned r.index)

/-- A write entry that breaks R42, R43 or R98. -/
def writeFail (ins : List View) (us : List Bool) (bridle : Bool) (w : WriteEntry) : Bool :=
  w.space == 3 ||
  (match ins[w.prod]? with
   | none => true
   | some (o, _, _) =>
     !(opInfo o).res || w.index % writeRegs ins w != 0 ||
     (w.space == 1 && (64 < w.index + writeRegs ins w || (!bridle && !us.getD w.prod false))) ||
     (w.space == 2 && 7 < w.index))

/-- Two write entries cover a register (R43). -/
def writesOverlap (ins : List View) (a b : WriteEntry) : Bool :=
  a.space == b.space && a.index < b.index + writeRegs ins b && b.index < a.index + writeRegs ins a

/-- The words of write entries that a later one overlaps. -/
def overlapFails (h : Header) (ins : List View) : List Nat :=
  ((h.writes.zipIdx).filter (fun x =>
    (h.writes.zipIdx).any (fun y => x.2 < y.2 && writesOverlap ins x.1 y.1))).map
      (fun x => entryWord (h.reads.length + x.2))

/-- The words of tokens that reach a slot another token reaches (R34). -/
def doubleFails (fs : List Feed) : List Nat :=
  ((fs.zipIdx).filter (fun x =>
    (fs.zipIdx).any (fun y => x.2 != y.2 && x.1.cons == y.1.cons && x.1.slot == y.1.slot))).map (fun x => x.1.word)

/-- The words of targets that break R34: the producer's, or that of a consumer that precedes it. -/
def targetFails (h : Header) (ins : List View) : List Nat :=
  (indexed ins).flatMap (fun x => (targetsOf x.2.2.1).filterMap (fun g =>
    let n := g.cons.toNat
    if x.1 < n && n < h.icnt && slotUsed ins n g.slot then none else some (h.hcnt + min x.1 n)))

/-- An instruction whose position, result or slots break R34, R71, R85 or the rules of its entry. -/
def insFail (h : Header) (fs : List Feed) (x : Nat × View) : Bool :=
  let (n, o, c, p) := x
  ((opInfo o).term != (n + 1 == h.icnt)) ||
  (!(targetsOf c).isEmpty && (!(opInfo o).res || !(opInfo o).tgt)) ||
  (usedSlots (o, c, p)).any (fun sl => !fs.any (fun f => f.cons == n && f.slot == sl))

/-- The words at which a per-lane token reaches a slot that needs a uniform one. -/
def uniformFails (h : Header) (ins : List View) (fs : List Feed) (us : List Bool) : List Nat :=
  (indexed ins).flatMap (fun x => (needUniform x.2).filterMap (fun sl =>
    if slotUniform h fs us x.1 sl then none
    else some ((fs.filter (fun f => f.cons == x.1 && f.slot == sl)).foldl (fun m f => min m f.word) (h.hcnt + x.1))))

/-- Instructions that satisfy a predicate, as their words. -/
def wordsWhere (h : Header) (ins : List View) (f : View → Bool) : List Nat :=
  ((indexed ins).filter (fun x => f x.2)).map (fun x => h.hcnt + x.1)

/-- The words of the stores and atomics whose LSID a later one repeats (R38). -/
def lsidFails (h : Header) (ins : List View) : List Nat :=
  ((indexed ins).filter (fun x => (opInfo x.2.1).lsid &&
    (indexed ins).any (fun y => x.1 < y.1 && (opInfo y.2.1).lsid && x.2.2.1.lsid == y.2.2.1.lsid))).map
      (fun x => h.hcnt + x.1)

/-- The mnemonic of the last instruction. -/
def lastOp (ins : List View) : Option Op := ins.getLast?.map (fun v => v.1)

/-- The rules on whole blocks (R85, R162, R318, R319) and the prefetch count (R44). -/
def blockFails (h : Header) (ins : List View) : List Nat :=
  let trapping := wordsWhere h ins (fun v => v.1 == .trap || v.1 == .bkpt)
  let returning := wordsWhere h ins (fun v => v.1 == .tret)
  let after := 20 * (h.reads.length + h.writes.length) + (if h.scnt = 3 then 24 else 0)
  (if (lastOp ins == some .brc && h.scnt == 0) || (!returning.isEmpty && h.scnt != 0) ||
      (ins.any (fun v => isSatom v.1) && !h.srmw) then [0] else []) ++
  (if lastOp ins == some .exit then trapping else []) ++
  (if lastOp ins == some .jmps then [] else returning) ++
  (match h.prefetch with
   | some p => if p.bytes = 0 || p.bytes % 16 ≠ 0 then [1 + after / 128] else []
   | none => [])

/-- Every failing word of step 3; each traps BAD_HEADER, the lowest first. -/
def crossFails (h : Header) (ins : List View) (bridle : Bool) (vb : Nat) : List Nat :=
  let fs := feedsOf h ins
  let us := uniforms h fs ins
  blockFails h ins ++ boundFails h ins vb ++
  ((h.reads.zipIdx).filter (fun x => readFail h ins x.1)).map (fun x => entryWord x.2) ++
  ((h.writes.zipIdx).filter (fun x => writeFail ins us bridle x.1)).map (fun x => entryWord (h.reads.length + x.2)) ++
  overlapFails h ins ++ doubleFails fs ++
  ((indexed ins).filter (insFail h fs)).map (fun x => h.hcnt + x.1) ++ targetFails h ins ++
  (if bridle then [] else uniformFails h ins fs us) ++ lsidFails h ins

/-- The lowest of the failing words. -/
def lowestFail (l : List Nat) : Option Nat :=
  match l with
  | [] => none
  | a :: r => some (r.foldl min a)

/-- The decode check of a fetched block (R57): its header and instructions, or the trap and the word's index.
On a cache hit the role, mask and bound checks are made again and no other (R65). -/
def checkBlock (role : Role) (full tretOk hit : Bool) (vb : Nat) (words : List IWord) :
    Except (TrapCode × Nat) (Header × List View) :=
  match words with
  | [] => .error (.badHeader, 0)
  | w0 :: rest => match parseHeader w0 rest with
    | .error e => .error e
    | .ok h => match wordsFail role full tretOk h.hcnt ((rest.drop (h.hcnt - 1)).take h.icnt) with
      | .error e => .error e
      | .ok ins =>
        match lowestFail (if hit then boundFails h ins vb else crossFails h ins (role == .grid) vb) with
        | some n => .error (.badHeader, n)
        | none => .ok (h, ins)

end Sys2Proof.Machine
end

