-- ==== Sys2Proof/Machine/Entry.lean ====
section
/-! DEFINITION. Special registers (R315), fetching code (R65, R66, R83, R84) and the entry of a fragment into its
next block (R64, R80). -/

namespace Sys2Proof.Machine

/-! ## Special registers (R315) -/

/-- The value of a special register on a lane, for a fragment. -/
def sregVal (s : State) (u : Nat) (T : Team) (w : WUnit) (frag n lane : Nat) : Nat :=
  match n with
  | 0 => if u = 16 then 0 else lane
  | 1 => u
  | 2 => T.num
  | 3 => T.lrec.teams
  | 4 => T.core
  | 5 => ncores s T.vf
  | 6 => dieOf T.core
  | 7 => diePtc s (dieOf T.core) % 2 ^ 64
  | 8 => (getSplit w frag).mask.toNat
  | 9 => w.fflags.toNat
  | 10 => T.lrec.seed.toNat
  | 11 => frag
  | 16 => if w.tm then sourceNum w.frame.source * 256 + ((w.frame.code.map trapNum).getD 0) else 0
  | 17 => if w.tm then w.frame.blk % 2 ^ 64 else 0
  | 18 => if w.tm then w.frame.info.toNat else 0
  | 19 => w.bkpten.toNat
  | _ => 0

/-! ## Code pages and objects (R334, R368) -/


/-- The installed code page at a physical page, if any: the one installed last. -/
def codePageAt (s : State) (vf ppage : Nat) : Option (CodeObj × CodePage) :=
  (getTenant s vf).objs.reverse.findSome? (fun o => (o.pages.find? (fun p => p.ppage == ppage)).map (fun p => (o, p)))

/-! ## Fetching (R65, R84) -/

/-- What a fetch finds: the block's words and whether they came from the cache, a trap with its source and
sr.trapinfo, a page whose hash must be checked first, or a page in transition, which is tried again (R163). -/
inductive Fetched where
  | ok (words : List IWord) (hit : Bool)
  | trap (code : TrapCode) (src : TrapSource) (info : Nat)
  | unverified (vpage ppage : Nat)
  | moving

/-- The block in the cache for an address and a mask class. -/
def cachedBlock (c : Core) (addr : Nat) (full : Bool) : Option BlockEnt :=
  c.blocks.find? (fun b => b.addr == addr && b.full == full)

/-- The blocks that 128 KiB of the cache hold (R66): the most recent 8,192 words. R66 gives no size of the decoded form: the
model counts 16 bytes a word (log 42, DESIGN CHOICE). -/
def trimBlocks : Nat → List BlockEnt → List BlockEnt
  | _, [] => []
  | room, b :: bs => if b.words.length ≤ room then b :: trimBlocks (room - b.words.length) bs else []

/-- A block put first in the cache. -/
def cacheBlock (c : Core) (b : BlockEnt) : Core :=
  { c with blocks := trimBlocks 8192 (b :: c.blocks.filter (fun x => !(x.addr == b.addr && x.full == b.full))) }

/-- A word of code as the fetching unit's load reads it (R149). -/
def codeWord (s : State) (vf die t u va pa : Nat) : IWord :=
  match dieNum s vf die t u va pa 16 with
  | some x => BitVec.ofNat 128 x
  | none => BitVec.ofNat 128 ((List.range 16).foldl (fun x i =>
      x + 256 ^ i * ((storeByte s.reqs die t u s.ptc (pa + i)).getD
        (memByte s.mem (homeAddr s vf (va + i) (pa + i)))).toNat) 0)

/-- One word fetched on demand (R84): translated, executable, its page verified, its data sound. -/
def fetchWord (s : State) (T : Team) (t u va : Nat) : State × Except Fetched IWord :=
  let (s, r) := translate s T.core T.vf va
  match r with
  | .error c => (s, .error (.trap c .codeFetch va))
  | .ok e =>
    if !permitted .ex e then (s, .error (.trap .xlatePerm .codeFetch va))
    else
      let pa := leafPa e va
      if inTransition s pa && (dieNum s T.vf (dieOf T.core) t u va pa 16).isNone then (s, .error .moving)
      else match codePageAt s T.vf e.ppage with
      | some (_, p) =>
        if !p.verified then (s, .error (.unverified (va / 2 ^ 16) e.ppage))
        else if rangePoisoned s (homeAddr s T.vf va pa) 16 then (s, .error (.trap .dataPoison .codeFetch va))
        else (touch s T.vf T.slot (homeAddr s T.vf va pa), .ok (codeWord s T.vf (dieOf T.core) t u va pa))
      | none =>
        if rangePoisoned s (homeAddr s T.vf va pa) 16 then (s, .error (.trap .dataPoison .codeFetch va))
        else (touch s T.vf T.slot (homeAddr s T.vf va pa), .ok (codeWord s T.vf (dieOf T.core) t u va pa))

/-- `n` words from index `k` of a block. -/
def fetchWords (s : State) (T : Team) (t u addr k : Nat) : Nat → State × Except Fetched (List IWord)
  | 0 => (s, .ok [])
  | n + 1 =>
    match fetchWord s T t u (codeVa ((addr + 16 * k) % 2 ^ 57)) with
    | (s, .error e) => (s, .error e)
    | (s, .ok w) => match fetchWords s T t u addr (k + 1) n with
      | (s, .error e) => (s, .error e)
      | (s, .ok ws) => (s, .ok (w :: ws))

/-- The fetch of a block: from the cache, or on demand. A misaligned address and a first word that fails step 1
of R57 trap before the rest of the block is fetched, whose length the first word gives. -/
def fetchBlock (s : State) (T : Team) (t u addr : Nat) (full : Bool) : State × Fetched :=
  match cachedBlock (getCore s T.core) addr full with
  | some b => (updCore s T.core (fun c => cacheBlock c b), .ok b.words true)
  | none =>
    if addr % 16 != 0 then (s, .trap .badHeader .engine 0)
    else
      match fetchWord s T t u (codeVa addr) with
      | (s, .error e) => (s, e)
      | (s, .ok w0) => match hdrWord0Fail w0 with
        | some c => (s, .trap c .engine 0)
        | none => match fetchWords s T t u addr 1 (hdrHcnt w0 + hdrIcnt w0 - 1) with
          | (s, .error e) => (s, e)
          | (s, .ok ws) => (s, .ok (w0 :: ws) false)

/-! ## Prefetching code (R83) -/

/-- The code segment that holds an address, as the loader recorded it. -/
def codeSegAt (s : State) (vf va : Nat) : Option (Nat × Nat) :=
  (codeObjAt s vf va).bind (fun o => o.segs.find? (fun g => g.1 ≤ va && va < g.2))

/-- Code read ahead at an address, and whether the prefetcher goes on: it stops at a page that is not mapped, not executable or
not yet verified, and a page that it reads has its access bit set (R304). -/
def readAhead (s : State) (T : Team) (va : Nat) : State × Bool :=
  match translate s T.core T.vf va with
  | (s', .ok e) =>
    if permitted .ex e && (match codePageAt s T.vf e.ppage with
        | some (_, p) => p.verified
        | none => true) then
      (touch s' T.vf T.slot (homeAddr s' T.vf va (leafPa e va)), true)
    else (s, false)
  | (_, .error _) => (s, false)

/-- Up to 64 KiB of code read ahead, within a segment: the page of the first byte, then the next page where the bytes reach it. -/
def readAheadRange (T : Team) (seg : Nat × Nat) (n : Nat) (s : State) (va : Nat) : State :=
  let hi := min (va + n) seg.2
  let next := (va / 2 ^ 16 + 1) * 2 ^ 16
  if va < seg.1 || hi ≤ va then s
  else match readAhead s T va with
    | (s, false) => s
    | (s, true) => if next < hi then (readAhead s T next).1 else s

/-- What follows a demand fetch (R83): the declared successors and the rejoin block, 64 bytes each, and the 1,024 bytes after the
fetched block, none of it past the end of the block's segment. A block outside every loaded segment is followed by nothing. It
raises no trap and records nothing. -/
def codePrefetch (s : State) (T : Team) (addr len : Nat) (targets : List Nat) : State :=
  match codeSegAt s T.vf (codeVa addr) with
  | none => s
  | some seg =>
    readAheadRange T seg 1024 ((targets.map codeVa).foldl (readAheadRange T seg 64) s) (codeVa ((addr + 16 * len) % 2 ^ 57))

/-- The blocks that a header declares: its successors and its rejoin block. -/
def declared (addr : Nat) (h : Header) : List Nat :=
  (h.succ.map (blockAt addr)) ++ (if h.rejoin = 0 then [] else [blockAt addr h.rejoin])

/-! ## Header reads (R41, R64) -/

/-- A register of a header read with a lane's value still outstanding (R159). -/
def readPending (w : WUnit) (mask : BitVec 128) (r : ReadEntry) (n : Nat) : Bool :=
  w.pendRegs.any (fun p =>
    let d := p.dest
    match r.space, d.space with
    | 0, 0 => d.index < r.index + n && r.index < d.index + vRegs d.width && mask.getLsbD d.lane
    | 1, 1 => d.index < r.index + n && r.index < d.index + (if 64 < d.width then 2 else 1)
    | 2, 2 => d.index == r.index && mask.getLsbD d.lane
    | _, _ => false)

/-- Poison in an active lane of a header read (R64). -/
def readPoison (w : WUnit) (mask : BitVec 128) (r : ReadEntry) (n : Nat) : Bool :=
  (List.range n).any (fun i => match r.space with
    | 0 => (List.range 128).any (fun l => mask.getLsbD l && tabGet false w.vPoison (vKey (r.index + i) l))
    | 1 => tabGet false w.kPoison (r.index + i)
    | 2 => (List.range 128).any (fun l => mask.getLsbD l && tabGet false w.qPoison (vKey r.index l))
    | _ => false)

/-- The registers that a read of `b` bits takes. -/
def readRegs (r : ReadEntry) (b : Nat) : Nat :=
  match r.space with
  | 0 => vRegs b
  | 1 => if 64 < b then 2 else 1
  | _ => 1

/-- The value that a header read gives a lane (R41). -/
def readLane (s : State) (u : Nat) (T : Team) (w : WUnit) (frag : Nat) (r : ReadEntry) (n lane : Nat) : Val :=
  match r.space with
  | 0 => BitVec.ofNat 128 ((List.range n).foldl (fun x i => x + 2 ^ (32 * i) * (getV w (r.index + i) lane).toNat) 0)
  | 1 => BitVec.ofNat 128 ((List.range n).foldl (fun x i => x + 2 ^ (64 * i) * (getK w (r.index + i)).toNat) 0)
  | 2 => if getQ w r.index lane then 1 else 0
  | _ => BitVec.ofNat 128 (sregVal s u T w frag r.index lane)

/-- The width the consumer of a read entry asks for. -/
def readBits (ins : List View) (r : ReadEntry) : Nat :=
  match ins[r.cons]? with
  | some (o, c, p) => readWidth o c.ty p r.slot
  | none => 32

/-- The buffer entry of a mirrored register (R92). -/
def inBuf (w : WUnit) (space index : Nat) : Bool := w.opBuf.any (fun e => e.space == space && e.index == index)

/-- The views of a block in flight; a word that does not decode (none is entered) counts as NOPB. -/
def viewsOf (words : List IWord) : List View :=
  words.map (fun w => match decode w with
    | .ok i => i.view.getD (.nopb, ctlOf 0, .n)
    | .error _ => (.nopb, ctlOf 0, .n))

/-! ## Entry (R64, R80) -/

/-- A fragment is ready to enter its next block: the stall of its last one is over (R70). -/
def fragReady (now : Nat) (e : SplitEntry) : Bool := e.live && e.state == .ready && e.resume ≤ now

/-- The ready fragments that the fairness within a warp lets enter: none that has entered a block since another one became
ready (R81). -/
def fairFrags (w : WUnit) (now : Nat) : List (Nat × SplitEntry) :=
  let l := w.splits.filter (fun x => fragReady now x.2)
  l.filter (fun x => !l.any (fun y => y.1 != x.1 && y.2.seen.getLsbD x.1))

/-- The ready fragment that enters next: the highest ageing counter, then the oldest stamp, then the lowest entry (R80), among
those that R81 lets enter. -/
def chooseFrag (w : WUnit) (now : Nat) : Option Nat :=
  ((fairFrags w now).foldl (fun (best : Option (Nat × SplitEntry)) x =>
    match best with
    | none => some x
    | some b => if b.2.ageing < x.2.ageing || (b.2.ageing == x.2.ageing && x.2.stamp < b.2.stamp) then some x
                else best) none).map Prod.fst

/-- A fragment begins to enter a block: its ageing counter returns to 0 (R80), and the other ready fragments mark its entry
(R81). -/
def beginEntry (w : WUnit) (now i : Nat) : WUnit :=
  { w with splits := tabMap (fun j e =>
      if j = i then { e with ageing := 0, seen := 0 }
      else if fragReady now e then { e with seen := e.seen ||| (1 <<< i) } else e) w.splits }

/-- The fragment whose trap is delivered next: the oldest stamp, then the lowest entry, as R82 orders traps that became pending
in one cycle; the model takes the same order for traps of different cycles, which R82 leaves open (log 42, DESIGN CHOICE). In a
team that stops for a save only fragments with a pre-emption notice are (R322). -/
def nextTrapped (T : Team) (w : WUnit) : Option Nat :=
  ((w.splits.filter (fun x => x.2.live && x.2.state == .trapPending &&
    (!stopping T || (!T.waiver && x.2.traps.any (fun tr => tr.code == .preemptNotice))))).foldl
    (fun (b : Option (Nat × SplitEntry)) x => match b with
      | none => some x
      | some y => if x.2.stamp < y.2.stamp then some x else some y) none).map Prod.fst

/-- A trap can be delivered to the unit now. -/
def trapDue (T : Team) (w : WUnit) : Bool := w.flight.isNone && !w.done && !w.tm && (nextTrapped T w).isSome

/-- A unit at a block boundary may enter a block: it has not ended, its team is neither terminated nor stopped
for a save (R292, R324), its CINV is complete (R175), and no trap of a team just restored is still to be delivered (R327). -/
def mayEnter (T : Team) (w : WUnit) : Bool :=
  !w.done && T.term.isNone && !T.retired && (!stopping T || (w.tm && !T.waiver)) && w.cinvs.isEmpty &&
    !(T.trapsFirst && T.units.any (fun x => trapDue T x.2))

/-- The conditions of R319 at the entry of a block with TRET. -/
def tretConds (w : WUnit) (e : SplitEntry) : Bool :=
  w.tm && e.mask == w.frame.mask && e.stack.length == w.frame.depth

/-- What step 3 of R64 finds. -/
inductive EntryRead where
  | go
  | wait
  | trap (tr : PendTrap)
  deriving DecidableEq, Repr

/-- The header reads of step 3, in header order: a pending atomic waits, poison traps. -/
def entryReads (w : WUnit) (f : Flight) (mask : BitVec 128) (ins : List View) : List (ReadEntry × Nat) → EntryRead
  | [] => .go
  | (r, k) :: rest =>
    let n := readRegs r (readBits ins r)
    if readPending w mask r n then .wait
    else if readPoison w mask r n then .trap (blockTrap f .dataPoison .headerRead k)
    else entryReads w f mask ins rest

/-- Whether every register of a read entry is served by the operand buffer (R94). The buffer never mirrors q and special
registers; R94 does not say whether their reads miss: the model counts them as served (log 42, DESIGN CHOICE). -/
def readServed (w : WUnit) (ins : List View) (r : ReadEntry) : Bool :=
  1 < r.space || (List.range (readRegs r (readBits ins r))).all (fun i => inBuf w r.space (r.index + i))

/-- Step 5 and 6 (the registers used keep among them the order of recency that they had, which R92 does not give; log 42, DESIGN
CHOICE): the reads are delivered and instruction 0 has its first turn, one slot later for every read that misses the
operand buffer (R94). -/
def deliverReads (s : State) (t u : Nat) : State :=
  match getTeam s t with
  | none => s
  | some T => updUnit s t u (fun w => match w.flight with
    | none => w
    | some f =>
      let ins := viewsOf f.words
      let mask := (getSplit w f.frag).mask
      let toks := f.hdr.reads.foldl (fun tk r =>
        let n := readRegs r (readBits ins r)
        tabPut tk (4 * r.cons + slotIdx r.slot)
          ⟨(List.range (laneCount u)).map (fun l =>
            if mask.getLsbD l then some (readLane s u T w f.frag r n l) else none), s.ptc⟩) f.toks
      let missing := (f.hdr.reads.filter (fun r => !readServed w ins r)).length
      let used := w.opBuf.filter (fun e => f.hdr.reads.any (fun r =>
        e.space == r.space && r.index ≤ e.index && e.index < r.index + readRegs r (readBits ins r)))
      { w with
        opBuf := used ++ w.opBuf.filter (fun e => !used.contains e)
        flight := some { f with toks := toks, entered := true, waitKind := .none, entryFlags := w.fflags
                                turn := s.ptc + slotCycles u * missing } })

/-- The source byte offset of a header prefetch (R191): KREG's coordinate in the resource's elements. -/
def prefetchOfs (e : ResEntry) (kreg : Nat) : Nat := kreg % 2 ^ 32 * (if e.kind == .tensor then e.esize else 1)

/-- The bytes of a range of a resource's offsets that its size admits. -/
def insideBytes (e : ResEntry) (ofs n : Nat) : Nat := min n (e.size - ofs)

/-- The prefetch checks of step 3, in order (R64): the entry, or the trap. R64 names the header's read entries for the poison
check and not k[KREG]: a poison mark on it is ignored (log 42, DESIGN CHOICE). -/
def prefetchCheck (s : State) (T : Team) (w : WUnit) (f : Flight) (p : Prefetch) : Except PendTrap ResEntry :=
  let kv := (getK w p.kreg).toNat
  let dst := kv / 2 ^ 32
  match readEntry s T p.ridx with
  | .error (k, a) => .error (blockTrap f k (if k == .resourceKind then .engine else .globalMem) a)
  | .ok e =>
    if e.kind != .buffer && e.kind != .tensor then .error (blockTrap f .resourceKind .engine p.ridx)
    else
      let src := prefetchOfs e kv
      if src % 16 != 0 then .error (blockTrap f .align .globalMem src)
      else if dst % 16 != 0 then .error (blockTrap f .align .scratchpad dst)
      else if T.spBytes < dst + p.bytes then .error (blockTrap f .xlateNotMapped .scratchpad dst)
      else if e.sp && insideBytes e src p.bytes != 0 && T.spBytes < e.base + src + insideBytes e src p.bytes then
        .error (blockTrap f .xlateNotMapped .scratchpad (e.base + src))
      else .ok e

/-- What step 4 waits for: the descriptor's token, then room in the copy queue. -/
def prefetchWait (s : State) (T : Team) (w : WUnit) (p : Prefetch) : WaitKind :=
  if tokBusy (diePtc s (dieOf T.core)) (getTok w p.token) then .token
  else if 32 ≤ (getCore s T.core).copyQ.length then .queue
  else .none

/-- A read entry for the prefetch's k register. -/
def kregRead (p : Prefetch) : ReadEntry := ⟨1, p.kreg, true, 0, .l⟩

/-- Steps 3 to 6 for a block in flight; the header prefetch of step 4 is issued by HEADER_PREFETCH_ISSUE. -/
def entryRest (s : State) (t u : Nat) : State :=
  match getTeam s t with
  | none => s
  | some T => match tabFind T.units u with
    | none => s
    | some w => match w.flight with
      | none => s
      | some f =>
        match entryReads w f (getSplit w f.frag).mask (viewsOf f.words) f.hdr.reads.zipIdx with
        | .wait => s
        | .trap tr => abortTrap s t u tr
        | .go => match f.hdr.prefetch with
          | none => deliverReads s t u
          | some p =>
            if readPending w (getSplit w f.frag).mask (kregRead p) 1 then s
            else match prefetchCheck s T w f p with
              | .error tr => abortTrap s t u tr
              | .ok _ => updFlight s t u (fun f => { f with waitKind := prefetchWait s T w p })

/-- The blocks that a fetched block declares, where its header can be read. -/
def declaredBy (addr : Nat) (words : List IWord) : List Nat :=
  match words with
  | [] => []
  | w0 :: rest => match parseHeader w0 rest with
    | .ok h => declared addr h
    | .error _ => []

/-- The chosen fragment enters: steps 1 and 2 of R64, then the rest. The device checks every entry, from the cache too, against the
unit that enters: its role, its mask and the v registers that its launch gives it (R57, R61, R65). -/
def enterBlock (s : State) (t u : Nat) (T : Team) (w : WUnit) (i : Nat) : State :=
  let e := getSplit w i
  let full := u != 16 && e.mask == BitVec.allOnes 128
  let miss := (cachedBlock (getCore s T.core) e.block full).isNone
  let (s', r) := fetchBlock s T t u e.block full
  match r with
  | .unverified _ _ | .moving => s
  | .trap c src info =>
    let s' := updUnit s' t u (fun w => beginEntry w s.ptc i)
    pendTrap (if miss then bump s' T.core 3 1 else s') t u i ⟨c, src, BitVec.ofNat 64 info, e.block⟩
  | .ok words hit =>
    let s := updUnit (if miss then bump s' T.core 3 1 else s') t u (fun w => beginEntry w s.ptc i)
    let s := if miss then codePrefetch s T e.block words.length (declaredBy e.block words) else s
    match checkBlock w.role full (tretConds w e) hit (vBound T u) words with
    | .error (c, n) => pendTrap s t u i ⟨c, .engine, BitVec.ofNat 64 n, e.block⟩
    | .ok (h, _) =>
      let s := updTeam s t (fun T => { T with trapsFirst := false })
      let s := updCore s T.core (fun c => cacheBlock c ⟨e.block, full, words⟩)
      let s := match codeObjAt s T.vf (codeVa e.block) with
        | some o => updTeam s t (fun T => if T.objs.contains o.num then T else { T with objs := T.objs ++ [o.num] })
        | none => s
      let f : Flight := { frag := i, addr := e.block, words := (words.drop h.hcnt).take h.icnt, hdr := h, entered := false }
      let s := updUnit s t u (fun w =>
        { (setSplit w i { (getSplit w i) with state := .inFlight }) with flight := some f })
      entryRest s t u

/-- BLOCK_ENTRY (R64). -/
def execBlockEntry (t u : Nat) (s : State) : Result :=
  match getTeam s t with
  | none => .next s
  | some T => match tabFind T.units u with
    | none => .next s
    | some w => match w.flight with
      | some f => if f.entered then .next s else .next (entryRest s t u)
      | none =>
        if !mayEnter T w then .next s
        else match chooseFrag w s.ptc with
          | none => .next s
          | some i => .next (enterBlock s t u T w i)

/-! ## The hash of a code page (R368, R334) -/

/-- A launch's ENTRY or BENTRY lies in an object. -/
def entersObj (s : State) (vf : Nat) (o : CodeObj) (r : LaunchRec) : Bool :=
  let inObj := fun a => (codeObjAt s vf a).any (fun x => x.num == o.num)
  inObj r.entry || (r.bentry != 0 && inObj r.bentry)

/-- A team has entered a block of an object since its placement, or its launch's ENTRY or BENTRY lies in it (R334). -/
def usesObj (s : State) (o : CodeObj) (T : Team) : Bool := T.objs.contains o.num || entersObj s T.vf o T.lrec

/-- The saved teams of a revoked object end: they count as retired, and their launches have status 4. -/
def revokeSaved (s : State) (vf : Nat) (o : CodeObj) : State :=
  updTenant s vf (fun V =>
    let gone := V.saved.filter (fun x => usesObj s o x.team)
    { V with
      saved := V.saved.filter (fun x => !usesObj s o x.team)
      ready := V.ready.map (fun l =>
        let mine := gone.filter (fun x => x.team.seq == l.seq)
        let teams := mine.foldl (fun t x => tabPut t x.team.num TeamStatus.retired) l.teams
        if mine.isEmpty then l
        else if l.status = 0 then { l with status := 4, reason := 0x11, teams := teams }
        else { l with teams := teams }) })

/-- The launches of a tenant that name an object and go on have status 4: their teams not yet placed never are (R334). -/
def revokeLaunches (s : State) (vf : Nat) (o : CodeObj) : State :=
  updTenant s vf (fun V => { V with ready := V.ready.map (fun l =>
    if l.status = 0 && entersObj s vf o l.lrec then { l with status := 4, reason := 0x11 } else l) })

/-- CODE_INTEGRITY on a fragment (R313, R334): the trap escalates; one of a fragment outside the handler that runs is held
pending. -/
def integrityTrap (s : State) (t u frag : Nat) (tr : PendTrap) : State :=
  match getUnit s t u with
  | none => s
  | some w =>
    if w.tm && !(getSplit w frag).handler then pendTrap s t u frag tr
    else escalate s t tr.code (codeVa tr.blk) tr.info.toNat

/-- An object is revoked (R334): its teams end at their next block boundary, its launches place no more, and a fault record is
written once. -/
def revoke (s : State) (T : Team) (o : CodeObj) (va : Nat) : State :=
  if o.revoked then s
  else
    let s := updTenant s T.vf (fun V => { V with objs := V.objs.map (fun x =>
      if x.num = o.num then { x with revoked := true } else x) })
    let s := s.teams.foldl (fun s x =>
      if x.2.vf = T.vf && !x.2.retired && usesObj s o x.2 then
        terminateTeam (updTenant s T.vf (fun V => { V with ready := V.ready.map (fun l =>
          if l.seq = x.2.seq && l.status = 0 then { l with status := 4, reason := 0x11 } else l) })) x.1 4 0x11
      else s) s
    teamRecord (revokeLaunches (revokeSaved s T.vf o) T.vf o) T 6 0x11 0 va

/-- CODE_PAGE_HASH_CHECK (R368): the unverified physical page that a ready fragment's fetch waits for is hashed. -/
def execCodePageHashCheck (t u : Nat) (s : State) : Result :=
  match getTeam s t with
  | none => .next s
  | some T => match tabFind T.units u with
    | none => .next s
    | some w =>
      if w.flight.isSome || !mayEnter T w then .next s
      else match chooseFrag w s.ptc with
        | none => .next s
        | some i =>
          let e := getSplit w i
          match (fetchBlock s T t u e.block (u != 16 && e.mask == BitVec.allOnes 128)).2 with
          | .unverified vp pp => match codePageAt s T.vf pp with
            | none => .next s
            | some (o, p) =>
              if Config.shake256 (memBytes s.mem (pp * 2 ^ 16) (2 ^ 16)) = p.hash then
                .next (updTenant s T.vf (fun V => { V with objs := V.objs.map (fun x =>
                  { x with pages := x.pages.map (fun q => if q.ppage = p.ppage then { q with verified := true } else q) }) }))
              else
                let tr : PendTrap := ⟨.codeIntegrity, .codeFetch, BitVec.ofNat 64 (vp * 2 ^ 16), e.block⟩
                .next (revoke (integrityTrap s t u i tr) T o (vp * 2 ^ 16))
          | _ => .next s

end Sys2Proof.Machine
end

