-- ==== Sys2Proof/Machine/Commit.lean ====
section
/-! DEFINITION. The commit of a block (R72 to R77), fusion (R78), the delivery of traps (R82, R313) and the
completion of a CINV (R175). -/

namespace Sys2Proof.Machine

/-! ## Register writes (R42, R72, R98) -/

/-- A write entry's value in every lane of the mask that has one. -/
def writeEntry (mask : BitVec 128) (width : Nat) (signed : Bool) (e : WriteEntry) (lanes : List Lane) (w : WUnit) : WUnit :=
  if e.space = 1 then
    match uniVal mask lanes with
    | some v => setKs w e.index width signed v
    | none => w
  else (lanes.zipIdx).foldl (fun w x =>
    match x.1 with
    | none => w
    | some v =>
      if !mask.getLsbD x.2 then w
      else if e.space = 2 then setQ w e.index x.2 (zx width v != 0)
      else setVs w e.index x.2 width v) w

/-- The width at which a write entry takes its producer's result (R42, R98). -/
def destWidth (e : WriteEntry) (o : Op) (ty : Ty) : Nat := if e.space = 1 then kWidth o ty else resWidth o ty

/-- Every write entry of a block whose producer has a result token, in header order. -/
def commitWrites (mask : BitVec 128) (f : Flight) (ins : List View) (w : WUnit) : WUnit :=
  f.hdr.writes.foldl (fun w e =>
    match ins[e.prod]?, tabFind f.results e.prod with
    | some (o, c, _), some k => writeEntry mask (destWidth e o c.ty) (resSigned c.ty) e k.lanes w
    | _, _ => w) w

/-- The registers to which a store or atomic's value goes for a lane: its own lane's, and for the uniform
status of CLAIM and SPAWN every active lane's (R159, R176, R309). -/
def destsOf (mask : BitVec 128) (f : Flight) (ins : List View) (prod lane : Nat) : List RegDest :=
  match ins[prod]? with
  | none => []
  | some (o, c, _) =>
    let uni := o == .claim || o == .claimRel || o == .spawn
    (f.hdr.writes.filter (fun e => e.prod == prod)).flatMap (fun e =>
      let d := fun l => (⟨e.space, e.index, l, destWidth e o c.ty, resSigned c.ty⟩ : RegDest)
      if uni && e.space != 1 then ((List.range 128).filter (fun l => mask.getLsbD l)).map d else [d lane])

/-! ## Release of stores and atomics (R72, R148, R159, R162) -/

/-- An atomic's destinations wait for its value. -/
def awaitValue (s : State) (t u id : Nat) (ds : List RegDest) : State :=
  updUnit s t u (fun w => { w with atomics := w.atomics + 1, pendRegs := w.pendRegs ++ ds.map (fun d => ⟨id, d⟩) })

/-- A request of CLAIM or CLAIM.rel, which accesses no byte. -/
def isClaim : ReqKind → Bool
  | .claim _ => true
  | _ => false

/-- One store or atomic of one lane handed to the memory system. -/
def releaseOne (t u : Nat) (T : Team) (mask : BitVec 128) (f : Flight) (ins : List View) (s : State) (h : HeldStore) : State :=
  let ds := destsOf mask f ins h.prod h.lane
  let sb := (f.sbLoads.find? (fun x => x.1 == h.prod)).map Prod.snd
  match h.scratch, h.kind with
  | true, .atom op ty =>
    let (s, id) := freshId s
    let r : SatomReq := { id := id, team := t, unit := u, op := op, ty := ty, addr := h.va, n := h.n
                          data := h.data, dests := ds, sb := sb }
    awaitValue (updCore s T.core (fun c => { c with satoms := c.satoms ++ [r] })) t u id ds
  | true, _ => spStore s true t u T h.va (fun i => spAddr T (h.va + i)) (numBytes h.n h.data.toNat)
  | false, k =>
    let s := if isClaim k then s else touch s T.vf T.slot (homeAddr s T.vf h.va h.pa)
    let (s, id) := freshId s
    let r : MemReq := { id := id, vf := T.vf, team := t, unit := u, die := dieOf T.core, core := T.core, t := s.ptc
                        kind := k, va := h.va, pa := h.pa, n := h.n, data := h.data, cmp := h.cmp, pages := h.pages, dests := ds
                        sb := sb, order := if k == .store then some (s.ptc, 128 * h.lsid + h.lane) else none }
    let s := { s with reqs := s.reqs ++ [r] }
    if k == .store then
      if paKind s h.pa == .host then updUnit s t u (fun w => { w with hostOut := w.hostOut + 1 }) else s
    else awaitValue s t u id ds

/-- The bytes of the core that the STS of a block write. -/
def stsBytes (T : Team) (f : Flight) : List Nat :=
  (f.stores.filter (fun h => h.scratch && h.kind == .store)).flatMap (fun h => (List.range h.n).map (fun i => spAddr T (h.va + i)))

/-- The copies that a block sent never see its own STS: they keep the bytes of `old`, the core before the commit (R183). -/
def keepOwnSts (T : Team) (f : Flight) (old : Core) (s : State) : State :=
  if f.copies.isEmpty then s
  else updCore s T.core (fun c => { c with copyQ := c.copyQ.map (fun r =>
    if f.copies.contains r.id then
      { r with kept := (stsBytes T f).foldl (fun k a => tabPut k a (tabGet 0 old.scratch a)) r.kept }
    else r) })

/-- Every store and atomic of the block in ascending LSID, and tlast (R157). -/
def releaseStores (s : State) (t u : Nat) (T : Team) (mask : BitVec 128) (f : Flight) (ins : List View) : State :=
  let l := (List.range 32).flatMap (fun n => f.stores.filter (fun h => h.lsid == n))
  let s := keepOwnSts T f (getCore s T.core) (l.foldl (releaseOne t u T mask f ins) s)
  if f.stores.any (fun h => h.kind == .store) then updUnit s t u (fun w => { w with tlast := some s.ptc }) else s

/-! ## Successors (R76, R77, R86) -/

/-- A lane's successor index; nothing where it exits. -/
def laneSucc (term : Term) (l : Nat) : Option Nat :=
  match term with
  | .lanes ss => some (ss.getD l 0)
  | .exit => none
  | _ => some 0

/-- The lanes of a mask that satisfy a predicate. -/
def maskWhere (m : BitVec 128) (p : Nat → Bool) : BitVec 128 :=
  BitVec.ofNat 128 ((List.range 128).foldl (fun x l => if m.getLsbD l && p l then x + 2 ^ l else x) 0)

/-- The lanes that chose a successor. -/
def succMask (term : Term) (m : BitVec 128) (k : Nat) : BitVec 128 := maskWhere m (fun l => laneSucc term l == some k)

/-- The chosen successors in ascending order. -/
def chosen (term : Term) (m : BitVec 128) : List Nat := (List.range 4).filter (fun k => succMask term m k != 0)

/-- Where the fragment goes at a successor, and its call stack, the newest return address first (R86). -/
def goesTo (f : Flight) (term : Term) (stack : List Nat) (k : Nat) : Nat × List Nat :=
  match term with
  | .call dest => (dest, blockAt f.addr (f.hdr.succ.getD 0 0) :: stack)
  | .ret => (stack.headD 0, stack.drop 1)
  | _ => (blockAt f.addr (f.hdr.succ.getD k 0), stack)

/-- A split-table entry in use (R75). -/
def entryUsed (w : WUnit) (i : Nat) : Bool := (getSplit w i).live || (getSplit w i).record.isSome

def freeEntries (w : WUnit) : List Nat := (List.range 32).filter (fun i => !entryUsed w i)

/-- The entry's fragment ends; a group record keeps the entry (R76). -/
def dropFrag (w : WUnit) (i : Nat) : WUnit := setSplit w i { record := (getSplit w i).record }

/-- The unit retires when its root group has no members left (R78). -/
def retireCheck (w : WUnit) : WUnit :=
  if w.splits.any (fun x => x.2.live || x.2.record.isSome) then
    (if w.tm && !w.splits.any (fun x => x.2.live && x.2.handler) then settle { w with tm := false, frame := {} } else w)
  else { w with done := true, tm := false, frame := {} }

/-- The fragments of a split placed in their entries (R76). -/
def placeFrags (w : WUnit) (f : Flight) (term : Term) (e : SplitEntry) (group : Option Nat) (now : Nat)
    (l : List (Nat × Nat)) : WUnit :=
  l.foldl (fun w x =>
    let g := goesTo f term e.stack x.2
    setSplit w x.1 { live := true, mask := succMask term e.mask x.2, block := g.1, group := group, stamp := now
                     state := .ready, stack := g.2, traps := if x.1 = f.frag then e.traps else []
                     handler := e.handler, record := (getSplit w x.1).record }) w

/-- decide_successors (R76): the fragments after the commit; nothing where the split overflows (R77). -/
def decideSuccs (w : WUnit) (f : Flight) (term : Term) (now : Nat) : Option WUnit :=
  let e := getSplit w f.frag
  match chosen term e.mask with
  | [] => some (dropFrag w f.frag)
  | [k] =>
    let g := goesTo f term e.stack k
    some (setSplit w f.frag { e with mask := succMask term e.mask k, block := g.1, stack := g.2, state := .ready })
  | ks =>
    let free := freeEntries w
    let mk := f.hdr.rejoin != 0
    if free.length < ks.length - 1 + (if mk then 1 else 0) then none
    else
      let own := f.frag :: free.take (ks.length - 1)
      if mk then
        let rec_ : GroupRec := ⟨blockAt f.addr f.hdr.rejoin, e.stack.length, e.group⟩
        let g := if e.record.isNone then f.frag else free.getD (ks.length - 1) 0
        let w := placeFrags w f term e (some g) now (own.zip ks)
        some (setSplit w g { (getSplit w g) with record := some rec_ })
      else some (placeFrags w f term e e.group now (own.zip ks))

/-! ## The operand buffer (R92, R93) -/

/-- The registers that a KEEP selects: those of the read entry that feeds the slot, or of the first write entry
of the instruction that feeds it. -/
def keptRegs (f : Flight) (ins : List View) (n sl : Nat) : List (Nat × Nat) :=
  match (feedsOf f.hdr ins).find? (fun x => x.cons == n && slotIdx x.slot == sl) with
  | none => []
  | some x => match x.src with
    | .read k => match f.hdr.reads[k]? with
      | some r => if 1 < r.space then [] else (List.range (readRegs r (readBits ins r))).map (fun i => (r.space, r.index + i))
      | none => []
    | .ins j => match f.hdr.writes.find? (fun e => e.prod == j) with
      | some e => if 1 < e.space then [] else (List.range (writeRegs ins e)).map (fun i => (e.space, e.index + i))
      | none => []

/-- A register put in the buffer, the least recently used one replaced. R92 does not say what counts as a use: the model counts
header reads and what KEEP places, not the write-through of a commit (log 42, DESIGN CHOICE). -/
def putBuf (w : WUnit) (r : Nat × Nat) : WUnit :=
  { w with opBuf := (⟨r.1, r.2, [], []⟩ :: w.opBuf.filter (fun e => !(e.space == r.1 && e.index == r.2))).take 8 }

/-- The buffer after a commit: what KEEP selects, and every copy up to date. R92 gives no order of recency among the registers of one
commit: the later in the order of KEEP's words and of their register numbers counts as the more recent (log 42, DESIGN CHOICE). -/
def commitBuf (f : Flight) (ins : List View) (w : WUnit) : WUnit :=
  syncBuf (f.keeps.foldl (fun w k => (keptRegs f ins k.1 k.2).foldl putBuf w) w)

/-! ## The commit (R72) -/

/-- The banks that the STS of a block reach at its commit. -/
def storeBanks (T : Team) (f : Flight) : List Nat :=
  (f.stores.filter (fun h => h.scratch && h.kind == .store)).flatMap (fun h => spBanks T h.va h.n)

/-- The banks of the block's STS are free in this cycle, the commit's, from whose end on they are visible (R162, R252; log 45). -/
def storesReach (s : State) (t : Nat) (f : Flight) : Bool :=
  match getTeam s t with
  | none => true
  | some T => banksFree s T.core (storeBanks T f)

/-- Every condition of the commit holds. -/
def commitReady (s : State) (t u : Nat) (f : Flight) : Bool :=
  f.entered && f.idx == f.hdr.icnt && f.fault.isNone && f.wait.isNone && !loadsOut s t u && f.spLoads.isEmpty &&
    f.results.all (fun r => r.2.ready ≤ s.ptc) && storesReach s t f

/-- The writes of SWR (R317). -/
def commitSwr (w : WUnit) (l : List (Nat × BitVec 64)) : WUnit :=
  l.foldl (fun w x =>
    if x.1 = 19 then { w with bkpten := x.2 }
    else if w.tm then { w with frame := { w.frame with blk := x.2.toNat } }
    else w) w

/-- A CINV takes effect (R175): each page translated by the core (R144), the issuing die's copies of the range and its lines in the
L1 caches, but for lines with stores still to be applied, are gone; the block caches follow. -/
def cinvDie (s : State) (T : Team) (a n : Nat) : State :=
  if n = 0 then s
  else
    let die := dieOf T.core
    let pages := (List.range ((a + n - 1) / 2 ^ 16 + 1 - a / 2 ^ 16)).map (fun k => (a / 2 ^ 16 + k) * 2 ^ 16)
    pages.foldl (fun s p =>
      match translate s T.core T.vf (p % 2 ^ 64) with
      | (s, .error _) => s
      | (s, .ok e) =>
        let lo := e.ppage * 512 + (max a p - p) / 128
        let hi := e.ppage * 512 + (min (a + n) (p + 2 ^ 16) - 1 - p) / 128
        dropLines s die (fun x => lo ≤ x && x ≤ hi && !linePending s die (128 * x))) s

/-- The class C trap of a block (R318): pending on the fragment that continues with the lane that fired it. -/
def commitTrap (s : State) (t u : Nat) (f : Flight) : State :=
  match f.csys, getUnit s t u with
  | some (tr, lane), some w =>
    match w.splits.find? (fun x => x.2.live && x.2.mask.getLsbD lane) with
    | some (i, e) => pendTrap s t u i { tr with blk := e.block }
    | none => s
  | _, _ => s

/-- The stall of the block's last instruction, in cycles (R70). -/
def lastStall (u : Nat) (ins : List View) : Nat := slotCycles u * ((ins.getLast?.map (fun v => v.2.1.stall.toNat)).getD 0)

/-- The commit of a block whose successors are decided. The stall of its last instruction delays every fragment that goes on
from it (R70). -/
def commitBlock (s : State) (t u : Nat) (T : Team) (w : WUnit) (f : Flight) (term : Term) (w' : WUnit) : State :=
  let ins := viewsOf f.words
  let mask := (getSplit w f.frag).mask
  let s := updUnit s t u (commitWrites mask f ins)
  let s := releaseStores s t u T mask f ins
  let s := updUnit s t u (fun x =>
    commitSwr { x with
      splits := tabMap (fun _ e => if e.live && e.mask &&& mask != 0 then { e with resume := s.ptc + lastStall u ins } else e) w'.splits
      fflags := (x.fflags &&& ~~~(f.clear &&& f.entryFlags)) ||| f.raised
      flips := x.flips ++ f.flips
      cinvs := x.cinvs ++ f.cinv.map (fun c => (c.1, c.2, s.ptc))
      flight := none } f.swrs)
  let s := f.cinv.foldl (fun s c => cinvDie s T c.1 c.2) s
  let s := updUnit s t u (commitBuf f ins)
  let s := commitTrap s t u f
  let s := updUnit s t u (fun x => if f.tret then returnTrap x f.frag else settle x)
  updUnit s t u (fun x =>
    let x := if term == .exit then retireCheck x else x
    { x with done := x.done || T.term.isSome })

/-- BLOCK_COMMIT (R72): the block takes effect whole, or the split overflows and it aborts (R77). -/
def execBlockCommit (t u : Nat) (s : State) : Result :=
  match getTeam s t with
  | none => .next s
  | some T => match tabFind T.units u with
    | none => .next s
    | some w => match w.flight with
      | none => .next s
      | some f => match f.term with
        | none => .next s
        | some term =>
          if !commitReady s t u f then .next s
          else match decideSuccs w f term (diePtc s (dieOf T.core)) with
            | none => .next (abortTrap s t u (blockTrap f .splitOverflow .engine 0))
            | some w' => .next (commitBlock s t u T w f term w')

/-! ## Fusion (R78) -/

/-- The members of a group: its live fragments. -/
def members (w : WUnit) (g : Nat) : List (Nat × SplitEntry) := w.splits.filter (fun x => x.2.live && x.2.group == some g)

/-- A group can resolve: it has a record, no group of its own under it, and every member has parked. -/
def mayFuse (w : WUnit) (g : Nat) : Bool :=
  (getSplit w g).record.isSome &&
  !w.splits.any (fun x => match x.2.record with
    | some r => r.parent == some g
    | none => false) &&
  (members w g).all (fun x => x.2.state == .parked)

/-- The member that keeps its entry: the oldest stamp, then the lowest entry. -/
def keeper (l : List (Nat × SplitEntry)) : Option (Nat × SplitEntry) :=
  l.foldl (fun (b : Option (Nat × SplitEntry)) x => match b with
    | none => some x
    | some y => if x.2.stamp < y.2.stamp then some x else some y) none

/-- The fusion of a group, or its resolution with an empty mask. R78 does not name the ageing counter of the fragment that results: it
keeps that of the member whose entry it keeps (log 47, DESIGN CHOICE). -/
def fuse (w : WUnit) (g : Nat) : WUnit :=
  match (getSplit w g).record with
  | none => w
  | some r =>
    let ms := members w g
    match keeper ms with
    | none => setSplit w g { (getSplit w g) with record := none }
    | some (k, e) =>
      let mask := ms.foldl (fun m x => m ||| x.2.mask) 0
      let traps := ms.flatMap (fun x => x.2.traps)
      let w := ms.foldl (fun w x => if x.1 = k then w else dropFrag w x.1) w
      let w := setSplit w g { (getSplit w g) with record := none }
      setSplit w k { (getSplit w k) with mask := mask, group := r.parent, block := r.rejoin, state := .ready, stack := e.stack
                                         traps := traps, ageing := e.ageing, seen := 0
                                         resume := ms.foldl (fun m x => max m x.2.resume) 0 }

/-- GROUP_FUSION (R78). -/
def execGroupFusion (t u g : Nat) (s : State) : Result :=
  .next (updUnit s t u (fun w => if mayFuse w g then retireCheck (settle (fuse w g)) else w))

/-! ## Delivery of traps (R82, R313) -/

/-- TRAP_DELIVERY (R313): at a block boundary, while no handler runs. -/
def execTrapDelivery (t u : Nat) (s : State) : Result :=
  match getTeam s t with
  | none => .next s
  | some T => match tabFind T.units u with
    | none => .next s
    | some w =>
      if w.flight.isSome || w.done || w.tm || T.term.isSome || T.retired then .next s
      else match nextTrapped T w with
        | none => .next s
        | some i => match (getSplit w i).traps.head? with
          | none => .next s
          | some tr => .next (takeTrap s t u i tr)

/-! ## CINV (R175) -/

/-- A cached block that holds a byte of a range of virtual addresses. -/
def blockInRange (a n : Nat) (b : BlockEnt) : Bool :=
  let lo := a % 2 ^ 57
  b.addr < lo + n && lo < b.addr + 16 * b.words.length

/-- CINV_COMPLETE (R175): 24 cycles after the commit or later, every block cache of the partition has dropped the
ranges, and the unit may enter its next block. -/
def execCinvComplete (t u : Nat) (s : State) : Result :=
  match getTeam s t with
  | none => .next s
  | some T => match tabFind T.units u with
    | none => .next s
    | some w =>
      if w.cinvs.isEmpty || w.cinvs.any (fun c => s.ptc < c.2.2 + 24) then .next s
      else
        let cores := match getPart s (getTenant s T.vf).cfg.part with
          | some P => partCores s P
          | none => [T.core]
        let s := cores.foldl (fun s k => updCore s k (fun c => { c with blocks := c.blocks.filter (fun b =>
          !w.cinvs.any (fun r => r.2.1 != 0 && blockInRange r.1 r.2.1 b)) })) s
        .next (updUnit s t u (fun w => { w with cinvs := [] }))

end Sys2Proof.Machine
end

