-- ==== Sys2Proof/Machine/MemFam.lean ====
section
/-! DEFINITION. Memory instructions (chapter 6, R165 to R177). Loads are performed on the die at issue or
wait for their home; stores and atomics are checked at issue and held for the commit (R72). -/

namespace Sys2Proof.Machine

/-! ## Addresses -/

/-- A lane's global address (R165). -/
def gAddr (p : FmtM) (x : Opnds) : Nat := (((x.l.toNat % 2 ^ 64 : Nat) + p.ofs12.toInt) % 2 ^ 64).toNat

/-- How a loaded value fills its token (R167). -/
def loadExt (ty : Ty) (v : Nat) : Val := if ty == .s8 then wrapI 32 (sxNat 8 v) else BitVec.ofNat 128 v

/-- A fault found in a lane: its code, source and sr.trapinfo. -/
structure LaneFault where
  lane : Nat
  code : TrapCode
  src : TrapSource
  info : Nat

/-! ## Loads from global memory (R149, R168) -/

/-- What the lanes of a load have found so far; `slots` is the planned latency of the levels that served them (R27). -/
structure LoadAcc where
  s : State
  lanes : List LoadLane := []
  slots : Nat := 12
  fault : Option LaneFault := none

/-- One piece of a lane's load: on the die now, or a request to the home; a piece after one that waits for its home waits too
(R158). -/
def loadPiece (i : Iss) (wide : Bool) (hint : CacheHint) (lane : Nat) (acc : LoadAcc × LoadLane) (p : Piece) : LoadAcc × LoadLane :=
  let (a, ll) := acc
  if a.fault.isSome then acc
  else
    let s := touch a.s i.T.vf i.T.slot (homeAddr a.s i.T.vf p.va p.pa)
    match if ll.missing = 0 then loadOnDie s i.T.vf (issDie i) i.t i.u lane wide p else none with
    | some v =>
      if accessPoisoned s i.T.vf p.va p.pa p.n then
        ({ a with s := s, fault := some ⟨lane, .dataPoison, .globalMem, p.va - p.off⟩ }, ll)
      else ({ a with s := fillL1 s i.T.core (p.pa / 128) hint, slots := max a.slots (dieSlots s i.T.core (p.pa / 128)) },
        { ll with val := ll.val ||| BitVec.ofNat 128 (v * 256 ^ p.off) })
    | none =>
      let (s, id) := freshId s
      let r : LoadReq := { id := id, vf := i.T.vf, team := i.t, unit := i.u, die := issDie i, core := i.T.core,
                           issued := s.ptc, idx := i.f.idx, lane := lane, off := p.off, va := p.va, pa := p.pa,
                           n := p.n, cached := p.mt == .cached, hint := hint }
      ({ a with s := { s with loads := s.loads ++ [r] } }, { ll with missing := ll.missing + 1 })

/-- One lane of a load of `n` bytes. -/
def loadLane (i : Iss) (n : Nat) (wide : Bool) (hint : CacheHint) (addr : Opnds → Nat) (a : LoadAcc) (x : Nat × Opnds) : LoadAcc :=
  if a.fault.isSome then a
  else
    let va := addr x.2
    let (s, r) := checkAccess a.s i.T.core i.T.vf va n .rd false
    match r with
    | .error c => { a with s := s, fault := some ⟨x.1, c, .globalMem, va⟩ }
    | .ok ps =>
      let (a', ll) := ps.foldl (loadPiece i wide hint x.1) ({ a with s := s }, ⟨i.f.idx, x.1, 0, 0⟩)
      { a' with lanes := a'.lanes ++ [ll] }

/-- The token of a load whose lanes have all returned. -/
def loadToken (u : Nat) (ty : Ty) (idx : Nat) (lanes : List LoadLane) : List Lane :=
  (List.range (laneCount u)).map (fun l =>
    (lanes.find? (fun x => x.idx == idx && x.lane == l)).map (fun x => loadExt ty x.val.toNat))

/-- LD (R168): at issue every lane is checked; if the die serves every piece the result comes after the latency of the level
(R27), else when the last home has answered (LOAD_AT_HOME). -/
def execLd (c : Ctl) (p : FmtM) (s : State) : Result :=
  atTurn .ld c (.m p) s (fun i =>
    if acquireHeld s i then .next s
    else
      let ops := firing (allOpnds i .ld c (.m p))
      let a := ops.foldl (loadLane i (widthBytes p.width) (5 ≤ scopeCode p.scope) p.cache (gAddr p)) { s := s }
      match a.fault with
      | some k => .next (raise a.s i.t i.u i.f.idx k.lane (blockTrap i.f k.code k.src k.info))
      | none =>
        if a.lanes.all (fun l => l.missing == 0) then
          .next (finish a.s i .ld c (.m p) (loadToken i.u c.ty i.f.idx a.lanes) (8 * a.slots) 0)
        else
          let s := advance a.s i .ld c (.m p) 0
          .next (pendSb (updFlight s i.t i.u (fun f => { f with loads := f.loads ++ a.lanes })) i c))

/-! ## Constants and the scratchpad (R140, R168, R169) -/

/-- The planned latency of a load in cycles: its slots are those of a warp on the Bridle too (R27, R227). -/
def memLatency (o : Op) (c : Ctl) (p : FmtM) : Nat := 8 * (if longForm o c (.m p) then (opInfo o).lat64 else (opInfo o).lat)

/-- The lowest firing lane with a fault, among what a load finds for each lane. -/
def nowFault (rs : List (Option (Except (TrapCode × TrapSource × Nat) Nat))) : Option (Nat × TrapCode × TrapSource × Nat) :=
  (rs.zipIdx).findSome? (fun x => match x.1 with
    | some (.error e) => some (x.2, e)
    | _ => none)

/-- A load of the window at one lane: the bytes as they stand, or the fault (R168, R177). -/
def ldsNow (s : State) (i : Iss) (p : FmtM) (x : Opnds) : Except (TrapCode × TrapSource × Nat) Nat :=
  let off := sAddr p x
  let n := widthBytes p.width
  if i.T.spBytes < off + n then .error (.xlateNotMapped, .scratchpad, off)
  else if spPoisoned s i.T off n then .error (.dataPoison, .scratchpad, off)
  else .ok (spNum s i.t i.u i.T off n)

/-- The pieces of an LDS's lanes (R158). -/
def ldsPieces (i : Iss) (p : FmtM) (ops : List (Nat × Opnds)) : List SpPiece :=
  ops.flatMap (fun x => (pieces (sAddr p x.2) (widthBytes p.width)).map (fun q => ⟨i.f.idx, x.1, q.1, sAddr p x.2 + q.1, q.2⟩))

/-- A piece of an LDS can be read in this cycle: its banks are free (R252), and so are those of the earlier pieces of its lane
(R158). -/
def spPieceFree (s : State) (T : Team) (l : List SpPiece) (q : SpPiece) : Bool :=
  l.all (fun x => !(x.idx == q.idx && x.lane == q.lane && x.off ≤ q.off) || banksFree s T.core (spBanks T x.addr x.n))

/-- A piece read in this cycle, in the lane that it belongs to; one that meets poison traps (R335). -/
def readSpPiece (t u : Nat) (T : Team) (s : State) (q : SpPiece) : State :=
  let s := updFlight s t u (fun f => { f with spLoads := f.spLoads.filter (fun x => x != q) })
  if spPoisoned s T q.addr q.n then
    match (getUnit s t u).bind WUnit.flight with
    | none => s
    | some f => raise s t u q.idx q.lane (blockTrap f .dataPoison .scratchpad (q.addr - q.off))
  else updFlight s t u (fun f => { f with loads := f.loads.map (fun x =>
    if x.idx = q.idx && x.lane = q.lane then
      { x with val := x.val ||| BitVec.ofNat 128 (spNum s t u T q.addr q.n * 256 ^ q.off), missing := x.missing - 1 } else x) })

/-- A load instruction whose lanes have all returned: its result is sent, at hand after `lat` cycles, and its token completes (R158,
R36). -/
def loadDone (s : State) (t u idx lat : Nat) : State :=
  match getTeam s t, (getUnit s t u).bind WUnit.flight with
  | some T, some f =>
    let ls := f.loads.filter (fun x => x.idx == idx)
    if ls.isEmpty || ls.any (fun x => x.missing != 0) then s
    else
      let c := match f.words[idx]? with
        | some w => ctlOf w
        | none => ctlOf 0
      let s := updFlight s t u (fun f =>
        { (sendResult f c idx ⟨loadToken u c.ty idx ls, s.ptc + lat⟩) with
          loads := f.loads.filter (fun x => x.idx != idx), sbLoads := f.sbLoads.filter (fun x => x.1 != idx) })
      match sbOf c with
      | some b => updUnit s t u (fun w => setTok w b
          { (getTok w b) with state := .complete, promise := if lat = 0 then 0 else diePtc s (dieOf T.core) + lat })
      | none => s
  | _, _ => s

/-- A fault held for earlier loads is taken once they have returned (R177). -/
def recheckFault (s : State) (t u : Nat) : State :=
  match (getUnit s t u).bind WUnit.flight with
  | none => s
  | some f => match f.fault with
    | none => s
    | some h => if earlierLoad s t u h.idx h.lane then s else abortTrap s t u h.trap

/-- The pieces of a unit's LDSs whose banks are free in this cycle are read, and the instructions that have them all produce their
results (R27, R252). -/
def readSp (s : State) (t u : Nat) : State :=
  match getTeam s t, (getUnit s t u).bind WUnit.flight with
  | some T, some f =>
    if f.spLoads.isEmpty then s
    else
      let now := f.spLoads.filter (spPieceFree s T f.spLoads)
      recheckFault ((now.map SpPiece.idx).eraseDups.foldl (fun s n => loadDone s t u n 32) (now.foldl (readSpPiece t u T) s)) t u
  | _, _ => s

/-- LDS (R162, R168): the window bytes as they stand at issue. The pieces of its lanes whose banks are not free then are read in the
first cycle in which they are (R252, log 45). -/
def execLds (c : Ctl) (p : FmtM) (s : State) : Result :=
  atTurn .lds c (.m p) s (fun i =>
    if acquireHeld s i then .next s
    else
      let ops := allOpnds i .lds c (.m p)
      let rs := ops.map (fun x => x.map (ldsNow s i p))
      match nowFault rs with
      | some (l, e) => .next (trapHere s i l e.1 e.2.1 e.2.2)
      | none =>
        let ps := ldsPieces i p (firing ops)
        if ps.all (spPieceFree s i.T ps) then
          let lanes := rs.map (fun x => match x with
            | some (.ok v) => some (loadExt c.ty v)
            | _ => none)
          .next (finish s i .lds c (.m p) lanes (memLatency .lds c p) 0)
        else
          let lanes := (firing ops).map (fun x => (⟨i.f.idx, x.1, 0, (ps.filter (fun q => q.lane == x.1)).length⟩ : LoadLane))
          let s := pendSb (advance s i .lds c (.m p) 0) i c
          .next (readSp (updFlight s i.t i.u (fun f => { f with loads := f.loads ++ lanes, spLoads := f.spLoads ++ ps })) i.t i.u))

/-- The bytes of a constant buffer from an offset of `n` bytes: past its size they read zero (R169). The bytes are those at
their homes at issue (log 9), translated as the core does; the faults come in the order of R177. -/
def constNum (s : State) (T : Team) (e : ResEntry) (off n : Nat) : Except (TrapCode × TrapSource × Nat) Nat :=
  let va := fun i => (e.base + off + i) % 2 ^ 64
  let ts := ((List.range n).filter (fun i => off + i < e.size)).map (fun i => (i, transl s T.core T.vf (va i)))
  let fault := fun k => Except.error (k, TrapSource.globalMem, va 0)
  if ts.any (fun t => match t.2 with | .ok _ => false | .error _ => true) then fault .xlateNotMapped
  else
    let bs := ts.filterMap (fun t => match t.2 with
      | .ok p => some (t.1, p.rd, homeAddr s T.vf (va t.1) (leafPa p (va t.1)))
      | .error _ => none)
    if bs.any (fun b => !b.2.1) then fault .xlatePerm
    else if bs.any (fun b => rangePoisoned s b.2.2 1) then fault .dataPoison
    else .ok (bs.foldl (fun x b => x + 256 ^ b.1 * (memByte s.mem b.2.2).toNat) 0)

/-- A load of a constant buffer at one lane. -/
def ldcNow (s : State) (i : Iss) (p : FmtM) (x : Opnds) : Except (TrapCode × TrapSource × Nat) Nat :=
  match readEntry s i.T p.ridx.toNat with
  | .error (k, a) => .error (k, if k == .resourceKind then .engine else .globalMem, a)
  | .ok e =>
    if e.kind != .const then .error (.resourceKind, .engine, p.ridx.toNat)
    else constNum s i.T e (sAddr p x) (widthBytes p.width)

/-- LDC (R169): a load of bytes of a page in transition tries again (R163). -/
def execLdc (c : Ctl) (p : FmtM) (s : State) : Result :=
  atTurn .ldc c (.m p) s (fun i =>
    if acquireHeld s i || constMoves s i c p then .next s
    else
      let rs := (allOpnds i .ldc c (.m p)).map (fun x => x.map (ldcNow s i p))
      match nowFault rs with
      | some (l, e) => .next (trapHere s i l e.1 e.2.1 e.2.2)
      | none =>
        let lanes := rs.map (fun x => match x with
          | some (.ok v) => some (loadExt c.ty v)
          | _ => none)
        .next (finish s i .ldc c (.m p) lanes (memLatency .ldc c p) 0))

/-! ## Stores and atomics at issue (R72, R159, R168 to R172) -/

/-- Lanes checked in ascending order; each gives the stores it holds for the commit, or a fault. -/
def holdLanes (f : State → Nat × Opnds → State × Except LaneFault (List HeldStore)) (s : State)
    (ops : List (Nat × Opnds)) : State × Except LaneFault (List HeldStore) :=
  ops.foldl (fun (acc : State × Except LaneFault (List HeldStore)) x =>
    match acc.2 with
    | .error _ => acc
    | .ok l =>
      let r := f acc.1 x
      match r.2 with
      | .error e => (r.1, .error e)
      | .ok m => (r.1, .ok (l ++ m))) (s, .ok [])

/-- A block holds the stores and atomics of an instruction for its commit. -/
def holdAll (s : State) (i : Iss) (l : List HeldStore) : State :=
  updFlight s i.t i.u (fun f => { f with stores := f.stores ++ l })

/-- An atomic, a CLAIM or a SPAWN issues with its requests: a token that it sets is busy until their values return (R36). -/
def holdAtomic (s : State) (i : Iss) (o : Op) (c : Ctl) (pl : Payload) (l : List HeldStore) : State :=
  pendSb (advance (holdAll s i l) i o c pl 0) i c

/-- A store or atomic at its turn: the checks of R177, then the block holds it until the commit. -/
def execHold (o : Op) (c : Ctl) (pl : Payload)
    (f : Iss → State → Nat × Opnds → State × Except LaneFault (List HeldStore)) (s : State) : Result :=
  atTurn o c pl s (fun i =>
    let r := holdLanes (f i) s (firing (allOpnds i o c pl))
    match r.2 with
    | .error e => .next (raise r.1 i.t i.u i.f.idx e.lane (blockTrap i.f e.code e.src e.info))
    | .ok l =>
      if l.all (fun h => h.kind == .store) then .next (finishNone (holdAll r.1 i l) i o c pl)
      else .next (holdAtomic r.1 i o c pl l))

/-- ST (R168): the pieces of each lane's low WIDTH bytes of R. -/
def execSt (c : Ctl) (p : FmtM) (s : State) : Result :=
  execHold .st c (.m p) (fun i s x =>
    let va := gAddr p x.2
    let n := widthBytes p.width
    let (s, r) := checkAccess s i.T.core i.T.vf va n .rw false
    match r with
    | .error k => (s, .error ⟨x.1, k, .globalMem, va⟩)
    | .ok ps => (s, .ok (ps.map (fun q =>
        ⟨c.lsid.toNat, i.f.idx, x.1, false, .store, q.va, q.pa, q.n,
         BitVec.ofNat 128 (x.2.r.toNat / 256 ^ q.off % 256 ^ q.n), 0, []⟩)))) s

/-- STS (R168). -/
def execSts (c : Ctl) (p : FmtM) (s : State) : Result :=
  execHold .sts c (.m p) (fun i s x =>
    let off := sAddr p x.2
    let n := widthBytes p.width
    if i.T.spBytes < off + n then (s, .error ⟨x.1, .xlateNotMapped, .scratchpad, off⟩)
    else (s, .ok [⟨c.lsid.toNat, i.f.idx, x.1, true, .store, off, 0, n, wrapN (8 * n) x.2.r.toNat, 0, []⟩])) s

/-- The atomics that a host accepts as PCI Express AtomicOps (R160). -/
def hostAtom (k : ReqKind) (ty : Ty) : Bool :=
  match k with
  | .atom .add _ => ty == .n32 || ty == .n64
  | .atom .exch _ => tyWidth ty == 32 || tyWidth ty == 64
  | .cas _ => true
  | _ => false

/-- A global atomic at issue: one held event for each lane (R170, R171). -/
def execAtomic (o : Op) (k : ReqKind) (n : Nat) (c : Ctl) (p : FmtM) (s : State) : Result :=
  execHold o c (.m p) (fun i s x =>
    let va := gAddr p x.2
    let (s, r) := checkAccess s i.T.core i.T.vf va n .atom true
    match r with
    | .error e => (s, .error ⟨x.1, e, .globalMem, va⟩)
    | .ok ps =>
      if ps.any (fun q => paKind s q.pa == .host) && !hostAtom k c.ty then
        (s, .error ⟨x.1, .xlatePerm, .globalMem, va⟩)
      else (s, .ok (ps.map (fun q => ⟨c.lsid.toNat, i.f.idx, x.1, false, k, q.va, q.pa, n, x.2.r, x.2.p, []⟩)))) s

/-- A scratchpad atomic at issue (R172). -/
def execSatom (o : Op) (k : AtomOp) (c : Ctl) (p : FmtM) (s : State) : Result :=
  execHold o c (.m p) (fun i s x =>
    let off := sAddr p x.2
    let n := widthBytes p.width
    if off % n != 0 then (s, .error ⟨x.1, .align, .scratchpad, off⟩)
    else if i.T.spBytes < off + n then (s, .error ⟨x.1, .xlateNotMapped, .scratchpad, off⟩)
    else (s, .ok [⟨c.lsid.toNat, i.f.idx, x.1, true, .atom k c.ty, off, 0, n, x.2.r, 0, []⟩])) s

/-! ## Atomics by minor (R170, R172) -/

/-- ATOM.add (R170). -/
def execAtomAdd (c : Ctl) (p : FmtM) (s : State) : Result :=
  execAtomic .atomAdd (.atom .add c.ty) (widthBytes p.width) c p s

/-- ATOM.min (R170). -/
def execAtomMin (c : Ctl) (p : FmtM) (s : State) : Result :=
  execAtomic .atomMin (.atom .min c.ty) (widthBytes p.width) c p s

/-- ATOM.max (R170). -/
def execAtomMax (c : Ctl) (p : FmtM) (s : State) : Result :=
  execAtomic .atomMax (.atom .max c.ty) (widthBytes p.width) c p s

/-- ATOM.and (R170). -/
def execAtomAnd (c : Ctl) (p : FmtM) (s : State) : Result :=
  execAtomic .atomAnd (.atom .and c.ty) (widthBytes p.width) c p s

/-- ATOM.or (R170). -/
def execAtomOr (c : Ctl) (p : FmtM) (s : State) : Result :=
  execAtomic .atomOr (.atom .or c.ty) (widthBytes p.width) c p s

/-- ATOM.xor (R170). -/
def execAtomXor (c : Ctl) (p : FmtM) (s : State) : Result :=
  execAtomic .atomXor (.atom .xor c.ty) (widthBytes p.width) c p s

/-- ATOM.exch (R170). -/
def execAtomExch (c : Ctl) (p : FmtM) (s : State) : Result :=
  execAtomic .atomExch (.atom .exch c.ty) (widthBytes p.width) c p s

/-- SATOM.add (R172). -/
def execSatomAdd (c : Ctl) (p : FmtM) (s : State) : Result :=
  execSatom .satomAdd .add c p s

/-- SATOM.min (R172). -/
def execSatomMin (c : Ctl) (p : FmtM) (s : State) : Result :=
  execSatom .satomMin .min c p s

/-- SATOM.max (R172). -/
def execSatomMax (c : Ctl) (p : FmtM) (s : State) : Result :=
  execSatom .satomMax .max c p s

/-- SATOM.and (R172). -/
def execSatomAnd (c : Ctl) (p : FmtM) (s : State) : Result :=
  execSatom .satomAnd .and c p s

/-- SATOM.or (R172). -/
def execSatomOr (c : Ctl) (p : FmtM) (s : State) : Result :=
  execSatom .satomOr .or c p s

/-- SATOM.xor (R172). -/
def execSatomXor (c : Ctl) (p : FmtM) (s : State) : Result :=
  execSatom .satomXor .xor c p s

/-- SATOM.exch (R172). -/
def execSatomExch (c : Ctl) (p : FmtM) (s : State) : Result :=
  execSatom .satomExch .exch c p s

/-- ATOMCAS (R170): R compares, P is the new value. -/
def execAtomcas (c : Ctl) (p : FmtM) (s : State) : Result :=
  execAtomic .atomcas (.cas c.ty) (widthBytes p.width) c p s

/-! ## Vector atomics (R171): TY n64 is the index form -/

/-- ATOMV.or (R171). -/
def execAtomvOr (c : Ctl) (p : FmtM) (s : State) : Result :=
  execAtomic .atomvOr (.vec .or (c.ty == .n64)) (widthBytes p.width) c p s

/-- ATOMV.and (R171). -/
def execAtomvAnd (c : Ctl) (p : FmtM) (s : State) : Result :=
  execAtomic .atomvAnd (.vec .and (c.ty == .n64)) (widthBytes p.width) c p s

/-- ATOMV.add (R171). -/
def execAtomvAdd (c : Ctl) (p : FmtM) (s : State) : Result :=
  execAtomic .atomvAdd (.vec .add (c.ty == .n64)) (widthBytes p.width) c p s

/-- ATOMV.max (R171). -/
def execAtomvMax (c : Ctl) (p : FmtM) (s : State) : Result :=
  execAtomic .atomvMax (.vec .max (c.ty == .n64)) (widthBytes p.width) c p s

/-! ## Fences (R157, R173) -/

/-- A fence: the release part holds the instruction at its turn, the acquire part holds the later loads. -/
def execFence (o : Op) (rel acq : Bool) (c : Ctl) (p : FmtS) (s : State) : Result :=
  atTurn o c (.s p) s (fun i =>
    if (leader (allOpnds i o c (.s p))).isNone then .next (finishNone s i o c (.s p))
    else if rel && !releaseDone s i.t i.u i.T i.w (scopeCode p.scope) then .next s
    else
      let s := if acq then updFlight s i.t i.u (fun f => { f with acq := f.idx }) else s
      .next (finishNone s i o c (.s p)))

/-- FENCE.acq (R173). -/
def execFenceAcq (c : Ctl) (p : FmtS) (s : State) : Result := execFence .fenceAcq false true c p s
/-- FENCE.rel (R173). -/
def execFenceRel (c : Ctl) (p : FmtS) (s : State) : Result := execFence .fenceRel true false c p s
/-- FENCE.ar (R173). -/
def execFenceAr (c : Ctl) (p : FmtS) (s : State) : Result := execFence .fenceAr true true c p s

/-! ## Cache instructions and re-homing (R174 to R176) -/

/-- The address a lane of PFETCH names: directly, or an offset into a BUFFER or TENSOR in global memory;
nothing where the resource is bad (R174). -/
def pfetchAddr (s : State) (i : Iss) (p : FmtM) (x : Opnds) : Option Nat :=
  if p.width == .w1 then some (gAddr p x)
  else match readEntry s i.T p.ridx.toNat with
    | .error _ => none
    | .ok e =>
      if (e.kind == .buffer || e.kind == .tensor) && !e.sp then some ((e.base + sAddr p x) % 2 ^ 64) else none

/-- One lane of PFETCH: a fill of the line asked of its home, or nothing. -/
def pfetchLane (i : Iss) (p : FmtM) (s : State) (x : Nat × Opnds) : State :=
  match pfetchAddr s i p x.2 with
  | none => s
  | some va =>
    let a := va / 128 * 128
    let (s, r) := translate s i.T.core i.T.vf a
    match r with
    | .error _ => s
    | .ok e =>
      if !e.rd || e.mt != .cached || !homedPa s (leafPa e a) then s
      else
        let s := touch s i.T.vf i.T.slot (homeAddr s i.T.vf a (leafPa e a))
        let (s, id) := freshId s
        let r : LoadReq := { id := id, vf := i.T.vf, team := i.t, unit := noUnit, die := issDie i,
                             core := i.T.core, issued := s.ptc, idx := 0, lane := 0, off := 0, va := a,
                             pa := leafPa e a, n := 0, cached := true
                             hint := p.cache }
        { s with loads := s.loads ++ [r] }

/-- PFETCH (R174): no trap and no result. -/
def execPfetch (c : Ctl) (p : FmtM) (s : State) : Result :=
  atTurn .pfetch c (.m p) s (fun i =>
    .next (finishNone ((firing (allOpnds i .pfetch c (.m p))).foldl (pfetchLane i p) s) i .pfetch c (.m p)))

/-- CINV (R175): the range is discarded at the commit. -/
def execCinv (c : Ctl) (p : FmtM) (s : State) : Result :=
  atTurn .cinv c (.m p) s (fun i =>
    let s := match leader (allOpnds i .cinv c (.m p)) with
      | some (_, x) => updFlight s i.t i.u (fun f => { f with cinv := f.cinv ++ [(gAddr p x, x.r.toNat % 2 ^ 32)] })
      | none => s
    .next (finishNone s i .cinv c (.m p)))

/-- The 64 KiB pages of a range rounded outward (R163). -/
def rangePages (a n : Nat) : List Nat :=
  if n = 0 then [] else (List.range ((a + n - 1) / 2 ^ 16 + 1 - a / 2 ^ 16)).map (fun k => (a / 2 ^ 16 + k) * 2 ^ 16)

/-- The pages of a claim translated at its issue (R176): a page that is not mapped comes before one that lacks a right (R177),
and each fault names its first page. -/
def claimTranslate (core vf : Nat) (s : State) (pages : List Nat) : State × Except (TrapCode × Nat) (List Nat) :=
  let r := translatePieces s core vf 0 (pages.map (fun va => (va, 2 ^ 16)))
  (r.1,
    match r.2.find? (fun p => match p.2.2 with | .ok _ => false | .error _ => true) with
    | some p => .error (.xlateNotMapped, p.1 % 2 ^ 64)
    | none => match r.2.find? (fun p => match p.2.2 with | .ok e => !permitted .claim e | .error _ => false) with
      | some p => .error (.xlatePerm, p.1 % 2 ^ 64)
      | none => .ok (r.2.filterMap (fun p => match p.2.2 with | .ok e => some e.ppage | .error _ => none)))

/-- CLAIM and CLAIM.rel at issue (R176): the pages are translated and the request is held for the commit. -/
def execClaimOp (o : Op) (rel : Bool) (c : Ctl) (p : FmtM) (s : State) : Result :=
  atTurn o c (.m p) s (fun i =>
    match leader (allOpnds i o c (.m p)) with
    | none => .next (finishNone s i o c (.m p))
    | some (l, x) =>
      let a := gAddr p x
      let n := x.r.toNat % 2 ^ 32
      let (s, r) := claimTranslate i.T.core i.T.vf s (rangePages a n)
      match r with
      | .error (k, va) => .next (trapHere s i l k .globalMem va)
      | .ok pages => .next (holdAtomic s i o c (.m p) [⟨c.lsid.toNat, i.f.idx, l, false, .claim rel, a, 0, n, 0, 0, pages⟩]))

/-- CLAIM (R176). -/
def execClaim (c : Ctl) (p : FmtM) (s : State) : Result := execClaimOp .claim false c p s
/-- CLAIM.rel (R176). -/
def execClaimRel (c : Ctl) (p : FmtM) (s : State) : Result := execClaimOp .claimRel true c p s

end Sys2Proof.Machine
end

