-- ==== Sys2Proof/Machine/Records.lean ====
section
/-! DEFINITION. Launch records: reading, checking and accepting them, the done word, wakes and the taking of ring
records (R283 to R285, R290, R292 to R295, R301, R310). -/

namespace Sys2Proof.Machine

/-! ## Reading (R283, R287, R310) -/

/-- `n` pieces of 16 bytes read at their homes from a virtual address, as one little-endian number; the first fault in
ascending order. -/
def homePieces (s : State) (vf va : Nat) : Nat → Except TrapCode Nat
  | 0 => .ok 0
  | n + 1 =>
    match homeRead s vf (va % 2 ^ 64) 16 with
    | .error c => .error c
    | .ok x => match homePieces s vf (va + 16) n with
      | .error c => .error c
      | .ok r => .ok (x + 2 ^ 128 * r)

/-- A format slot of 16 bytes (R122). -/
def slotOf (x : Nat) : FmtSlot :=
  { dmult := BitVec.ofNat 32 (x / 2 ^ 64), dkeep := x / 2 ^ 48 % 2 ^ 16, wexp := sxNat 16 (x / 2 ^ 32),
    sexp := sxNat 16 (x / 2 ^ 16), flush := x.testBit 11
    rmode := rmOf (x / 2 ^ 8 % 8)
    efmt := tyOfCode (x % 16) }

/-- R123: EFMT, RMODE and the reserved bits of a slot. -/
def slotValid (x : Nat) : Bool := x % 256 < 16 && x / 2 ^ 8 % 8 < 5 && x / 2 ^ 12 % 16 == 0 && x / 2 ^ 96 % 2 ^ 32 == 0

/-- The fields of a record of 256 bytes. -/
def recOf (x : Nat) : LaunchRec :=
  { entry := bytesOf x 0 8, bentry := bytesOf x 8 8, teams := bytesOf x 16 4, warps := bytesOf x 20 1
    ncopy := bytesOf x 21 1, nmat := bytesOf x 22 1, gpages := bytesOf x 23 1, regs := bytesOf x 24 2
    spad := bytesOf x 26 2, lastn := bytesOf x 28 1, thresh := bytesOf x 29 1
    views := (List.range (min 16 (bytesOf x 30 1))).map (fun i => bytesOf x (64 + 2 * i) 2)
    idem := (bytesOf x 31 1).testBit 0, defer := bytesOf x 32 2, rcount := bytesOf x 36 4, rtab := bytesOf x 40 8
    region := bytesOf x 48 8, seed := BitVec.ofNat 64 (bytesOf x 56 8), done := bytesOf x 96 8
    slots := (List.range 8).map (fun i => slotOf (bytesOf x (128 + 16 * i) 16)) }

/-! ## Checking (R284) -/

/-- Reason 2: the fields of bytes 0 to 127. -/
def recFieldsOk (x : Nat) : Bool :=
  let r := recOf x
  let vcnt := bytesOf x 30 1
  r.entry % 16 == 0 && r.bentry % 16 == 0 && 1 ≤ r.teams && r.teams ≤ 16777215 && 1 ≤ r.warps && r.warps ≤ 16 &&
  r.ncopy + r.nmat ≤ r.warps && r.gpages ≤ 4 && (r.gpages == 0 || r.bentry != 0) &&
  16 ≤ r.regs && r.regs ≤ 512 && r.regs % 16 == 0 && r.spad ≤ 128 && 1 ≤ r.lastn && r.lastn ≤ 128 && r.thresh ≤ 100 &&
  vcnt ≤ 16 && bytesOf x 31 1 < 2 && zeroBytes x 34 35 && 1 ≤ r.rcount && r.rcount ≤ 65536 && r.rtab % 64 == 0 &&
  r.region % 128 == 0 && (List.range 16).all (fun i => i < vcnt || bytesOf x (64 + 2 * i) 2 == 0) && r.done % 8 == 0 &&
  zeroBytes x 104 127

/-- Reason 1: the format slots. -/
def recSlotsOk (x : Nat) : Bool := (List.range 8).all (fun i => slotValid (bytesOf x (128 + 16 * i) 16))

/-- An address lies in a code object that has been revoked. -/
def inRevoked (s : State) (vf a : Nat) : Bool :=
  (codeObjAt s vf a).any CodeObj.revoked

/-- A region that launches may name: the scheduler accepts it (R290) and it is not FAULTED (R292). -/
def regionUsable (s : State) (vf addr : Nat) : Bool :=
  match regionChain s vf addr with
  | some (r :: _) => !r.ctl.testBit 1
  | _ => false

/-- The VIEWS entries in index order: each one's base and size, or the first reason. -/
def viewRanges (s : State) (vf : Nat) (r : LaunchRec) : List Nat → Except Nat (List (Nat × Nat))
  | [] => .ok []
  | v :: vs =>
    if r.rcount ≤ v then .error 2
    else match homePieces s vf (r.rtab + 64 * v) 4 with
      | .error _ => .error 8
      | .ok x => match parseEntry x with
        | none => .error 2
        | some e =>
          if e.kind != .buffer || !e.sp || !e.shadow || e.size % 16 != 0 || 4096 * r.spad < e.base + 2 * e.size then .error 2
          else match viewRanges s vf r vs with
            | .error k => .error k
            | .ok l => .ok ((e.base, e.size) :: l)

/-- The check of a record read as `x` (R284, steps 3 to 8), filed in the ring of a region or spawned (`ring` 0): the
record with its views, or the reason of the first check that fails. -/
def checkRec (s : State) (vf ring x : Nat) : Except Nat LaunchRec :=
  let r := recOf x
  if !recFieldsOk x then .error 2
  else if !recSlotsOk x then .error 1
  else if 524288 < r.warps * r.regs * 512 then .error 3
  else if inRevoked s vf r.entry || (r.bentry != 0 && inRevoked s vf r.bentry) then .error 7
  else if !regionUsable s vf r.region || (ring != 0 && !regionUsable s vf ring) then .error 4
  else match viewRanges s vf r r.views with
    | .error k => .error k
    | .ok l => .ok { r with vranges := l }

/-! ## Done words (R300, R301) -/

/-- The done word written, or a fault record: of KIND 10 on a page that takes no write, of KIND 4 in a poisoned granule. -/
def writeDone (s : State) (vf rnum addr seq reason status : Nat) : State :=
  if addr = 0 || addr % 8 != 0 then s
  else
    let bad := fun (s : State) => faultRecord s vf { kind := 10, info := addr, rnum := rnum, seq := seq }
    match walk s vf addr with
    | .error _ => bad s
    | .ok e =>
      if !e.wr then bad s
      else
        let s := if accessDrops s vf addr (leafPa e addr) 8 then
            faultRecord s vf { kind := 4, info := addr, rnum := rnum, seq := seq } else s
        accessWrite s vf addr (leafPa e addr) (numBytes 8 (2 ^ 32 * seq + 256 * reason + status))

/-- The piece of 16 bytes at an offset of a record, read alone. -/
def recPiece (s : State) (vf va off : Nat) : Except TrapCode Nat := homeRead s vf ((va + off) % 2 ^ 64) 16

/-- A record that is not placed: its done word, where its DONE field can be read (log 17). -/
def refuseRecord (s : State) (vf rnum va reason status : Nat) : State :=
  match recPiece s vf va 96 with
  | .error _ => s
  | .ok y => writeDone s vf rnum (bytesOf y 0 8) 0 reason status

/-! ## Acceptance (R295) -/

/-- The ready store is full. -/
def storeFull (s : State) (vf : Nat) : Bool := 64 ≤ (getTenant s vf).ready.length

/-- While the store is full every region that is woken waits for room. -/
def holdScans (s : State) (vf : Nat) : State :=
  if storeFull s vf then updTenant s vf (fun V => { V with scans := V.scans.map (fun x => { x with hold := true }) }) else s

/-- A record placed in the ready store with the tenant's next sequence number. Its teams start after the host's writes that have
been applied so far are visible on every die (R299). -/
def acceptRec (s : State) (vf : Nat) (r : LaunchRec) : State :=
  let rnum := match rcbAt s vf r.region with
    | some b => b.rnum
    | none => 0
  holdScans (updTenant s vf (fun V =>
    { V with ready := V.ready ++ [{ seq := V.nextSeq.toNat, lrec := r, rnum := rnum, after := tabGet 0 s.ioLast 16 }]
             nextSeq := V.nextSeq + 1 })) vf

/-! ## Wakes (R294, R338) -/

/-- A region woken: a scan to come, one more if it is being scanned, or the fault record of an empty directory
entry. -/
def wakeRegion (s : State) (vf rnum : Nat) : State :=
  if regionAddr s vf rnum = 0 then faultRecord s vf { kind := 9, rnum := rnum }
  else holdScans (updTenant s vf (fun V =>
    if V.scans.any (fun x => x.rnum == rnum) then
      { V with scans := V.scans.map (fun x => if x.rnum = rnum then { x with again := true } else x) }
    else { V with scans := V.scans ++ [{ rnum := rnum }] })) vf

/-- The host port that a VF is reached through (R336). -/
def vfPort (V : Tenant) (vf : Nat) : Nat := if V.rebound then 1 - (vf - 1) / 32 else (vf - 1) / 32

/-- A host access reaches a VF's register page: the device is in service, the VF is enabled with VF MSE set, its port is up and its
interface is not in ERROR (R336, R342, R347). -/
def vfReached (s : State) (vf : Nat) : Bool :=
  let V := getTenant s vf
  1 ≤ vf && vf ≤ 64 && s.boot.mode == .full && V.enabled && s.vfMse && tabGet 0 s.hostLanes (vfPort V vf) != 0 && V.tdisp != .error

/-- A host access reaches the PF's BAR0. -/
def pfReached (s : State) : Bool :=
  (s.boot.mode == .full || s.boot.mode == .halter) && (tabGet 0 s.hostLanes 0 != 0 || tabGet 0 s.hostLanes 1 != 0)

/-- WAKE (R338). -/
def execWake (vf rnum : Nat) (s : State) : Result :=
  if !vfReached s vf || (getTenant s vf).resetting then .next s
  else .next (wakeRegion s vf (rnum % 4096))

/-- PF_WAKE (R340): a region of tenant 0 in Halter mode; otherwise the write is dropped. -/
def execPfWake (rnum : Nat) (s : State) : Result :=
  if s.boot.mode == .halter && pfReached s then .next (wakeRegion s 0 (rnum % 4096)) else .next s

/-! ## Taking ring records (R294) -/

/-- The ring of a block can be read. -/
def ringUsable (b : Rcb) : Bool :=
  b.lring % 256 == 0 && b.lrsize == 2 ^ Nat.log2 b.lrsize && 1 ≤ b.lrsize && b.lrsize ≤ 65536

/-- The ring slot of an index. -/
def ringSlot (b : Rcb) (h : Nat) : Nat := b.lring + 256 * (h % b.lrsize)

/-- LHEAD written. -/
def writeHead (s : State) (vf : Nat) (b : Rcb) (h : Nat) : State := homeStore s vf (b.addr + 28) 4 (h % 2 ^ 32)

/-- One ring record taken: accepted into the ready store or refused with its reason, and LHEAD advanced. -/
def takeRecord (s : State) (vf : Nat) (b : Rcb) (h : Nat) : State :=
  let s := match homePieces s vf (ringSlot b h) 16 with
    | .error _ => refuseRecord s vf b.rnum (ringSlot b h) 8 1
    | .ok x => match checkRec s vf b.addr x with
      | .error k => refuseRecord s vf b.rnum (ringSlot b h) k 1
      | .ok r => acceptRec s vf r
  writeHead s vf b (h + 1)

/-- One ring record of a conditional node whose predicate is zero: it is consumed with status 2 (R293). -/
def skipRecord (s : State) (vf : Nat) (b : Rcb) (h : Nat) : State :=
  writeHead (refuseRecord s vf b.rnum (ringSlot b h) 0 2) vf b (h + 1)

/-- Records taken one by one while the ready store has room. -/
def takeRecords (vf : Nat) (b : Rcb) : Nat → Nat → State → State
  | 0, _, s => s
  | n + 1, h, s => if storeFull s vf then s else takeRecords vf b n (h + 1) (takeRecord s vf b h)

def skipRecords (vf : Nat) (b : Rcb) : Nat → Nat → State → State
  | 0, _, s => s
  | n + 1, h, s => skipRecords vf b n (h + 1) (skipRecord s vf b h)

/-- Records between two ring indices. -/
def ringCount (head tail : Nat) : Nat := (tail + 2 ^ 32 - head) % 2 ^ 32

def updScan (s : State) (vf rnum : Nat) (f : Scan → Scan) : State :=
  updTenant s vf (fun V => { V with scans := V.scans.map (fun x => if x.rnum = rnum then f x else x) })

/-- A scan ends; a wake that came meanwhile starts one more. -/
def endScan (s : State) (vf rnum : Nat) : State :=
  holdScans (updTenant s vf (fun V => { V with scans := V.scans.filterMap (fun x =>
    if x.rnum != rnum then some x else if x.again then some { rnum := rnum } else none) })) vf

/-- The records of a scan that has its LTAIL, up to `most` of them: the scan ends, or it waits for room. -/
def scanTake (s : State) (vf rnum tail most : Nat) : State :=
  match rcbAt s vf (regionAddr s vf rnum) with
  | none => endScan s vf rnum
  | some b =>
    if !ringUsable b || b.lrsize < ringCount b.lhead tail then endScan s vf rnum
    else
      let s := takeRecords vf b (min most (ringCount b.lhead tail)) b.lhead s
      match rcbAt s vf b.addr with
      | none => endScan s vf rnum
      | some b =>
        if ringCount b.lhead tail = 0 then endScan s vf rnum
        else updScan s vf rnum (fun x => { x with upTo := some tail, hold := true })

/-- The effective priority of a region by number; 8 where its chain cannot be read. -/
def regionPrio (s : State) (vf rnum : Nat) : Nat :=
  match rcbChain s vf (regionAddr s vf rnum) with
  | some c => effPrio c
  | none => 8

/-- The block of a region woken, where its ring has records to take. -/
def scanBlock (s : State) (vf rnum : Nat) : Option Rcb :=
  (rcbAt s vf (regionAddr s vf rnum)).filter (fun b => b.lhead != b.ltail && ringUsable b)

/-- A scan has records that it may take: those up to its LTAIL, or the waiting ones of a region that is no conditional node. -/
def scanWaits (s : State) (vf : Nat) (x : Scan) : Bool :=
  x.upTo.isSome || ((scanBlock s vf x.rnum).map (fun b => !b.ctl.testBit 0)).getD false

/-- Once a region has waited for a full store, the region whose records come next: that of highest effective priority, and of lowest number
among equals (R295). -/
def nextHeld (s : State) (vf : Nat) : Option Nat :=
  let scans := (getTenant s vf).scans
  if !scans.any (fun x => x.hold) then none
  else ((scans.filter (scanWaits s vf)).foldl (fun (b : Option (Nat × Nat)) x =>
    let p := regionPrio s vf x.rnum
    match b with
    | none => some (p, x.rnum)
    | some y => if y.1 < p || (y.1 == p && x.rnum < y.2) then some (p, x.rnum) else some y) none).map Prod.snd

/-- How many records a region may take now: none while the store is full or another region comes first, one at a time once one
has waited for a full store (R295). -/
def scanTurn (s : State) (vf rnum : Nat) : Option Nat :=
  if storeFull s vf then none
  else match nextHeld s vf with
    | some k => if k = rnum then some 1 else none
    | none => some 65536

/-- The records of a scan up to an LTAIL are taken as its turn allows, or wait. -/
def scanGo (s : State) (vf rnum tail : Nat) : State :=
  match scanTurn s vf rnum with
  | some most => scanTake s vf rnum tail most
  | none => updScan s vf rnum (fun x => { x with upTo := some tail, hold := true })

/-- REGION_SCAN (R294, R295): the block is read and its records are taken. A conditional node waits for its evaluation (R293). -/
def execRegionScan (vf rnum : Nat) (s : State) : Result :=
  match (getTenant s vf).scans.find? (fun x => x.rnum == rnum) with
  | none => .next s
  | some x => match x.upTo, scanBlock s vf rnum with
    | some n, _ => .next (scanGo s vf rnum n)
    | none, none => .next (endScan s vf rnum)
    | none, some b => if b.ctl.testBit 0 then .next s else .next (scanGo s vf rnum b.ltail)

/-! ## Conditional nodes (R293) -/

/-- The addresses of a block and its ancestors, up to `fuel` of them, by PARENT alone. -/
def ancestors (s : State) (vf : Nat) : Nat → Nat → List Nat
  | 0, _ => []
  | fuel + 1, addr => addr :: (match rcbAt s vf addr with
    | none => []
    | some r => if r.parent = 0 then [] else ancestors s vf fuel r.parent)

/-- A region's block lies at an address or below it. -/
def under (s : State) (vf anc addr : Nat) : Bool := (ancestors s vf 8 addr).contains anc

/-- The region at an address, with its descendants, has no unretired launch and no waiting record. -/
def drained (s : State) (vf addr : Nat) : Bool :=
  addr == 0 ||
  (!(getTenant s vf).ready.any (fun l => under s vf addr l.lrec.region) &&
   !(getTenant s vf).cfg.regions.any (fun r => under s vf addr r.2 && (match rcbAt s vf r.2 with
     | some b => b.lhead != b.ltail
     | none => false)))

/-- CONDITIONAL_EVALUATION (R293): the predicate decides whether the records that wait now are taken or skipped. A
predicate that cannot be read has a free value (log 2). -/
def execConditionalEvaluation (vf rnum : Nat) (s : State) : Result :=
  match (getTenant s vf).scans.find? (fun x => x.rnum == rnum), scanBlock s vf rnum with
  | some x, some b =>
    if x.upTo.isSome || !b.ctl.testBit 0 || b.lrsize < ringCount b.lhead b.ltail || !drained s vf b.after then .next s
    else
      let (s, v) := match homeRead s vf b.pred 8 with
        | .ok v => (s, v)
        | .error _ => let (s, k) := freshFree s; (s, (Config.freeVal k).toNat)
      if v != 0 then .next (scanGo s vf rnum b.ltail)
      else .next (endScan (skipRecords vf b (ringCount b.lhead b.ltail) b.lhead s) vf rnum)
  | _, _ => .next s

/-! ## SPAWN at the scheduler (R310) -/

/-- The outcome of a spawned record, of which its unit has read the first pieces already: the state and SPAWN's result. Reasons 6 and 5
come before those of R284. -/
def spawnRecord (s : State) (vf region va : Nat) (seen : List Nat) : State × Nat :=
  let reg := match recPiece s vf va 48 with
    | .ok y => some (bytesOf (seen.getD 3 y) 0 8)
    | .error _ => none
  let rnum := match reg.bind (rcbAt s vf) with
    | some b => b.rnum
    | none => 0
  let refuse := fun (k : Nat) => (match seen[6]? with
    | some y => writeDone s vf rnum (bytesOf y 0 8) 0 k 1
    | none => refuseRecord s vf rnum va k 1, k)
  if reg.any (fun a => !under s vf region a) then refuse 6
  else if storeFull s vf then refuse 5
  else match homePieces s vf va 16 with
    | .error _ => refuse 8
    | .ok x => match checkRec s vf 0 (mixPieces (seen.take 16) x) with
      | .error k => refuse k
      | .ok r =>
        let seq := (getTenant s vf).nextSeq.toNat
        let s := acceptRec s vf r
        (wakeRegion s vf (((getTenant s vf).ready.getLast?.map Launch.rnum).getD 0), seq * 2 ^ 32)

end Sys2Proof.Machine
end

