-- ==== Sys2Proof/Machine/MemEvents.lean ====
section
/-! DEFINITION. The memory system's own steps (chapter 6): forwarding, homes, atomics and their responses, leases,
posted writes, claims, invalidation, poison and the scratchpad's atomics. -/

namespace Sys2Proof.Machine

/-! ## Requests -/

def findReq (s : State) (id : Nat) : Option MemReq := s.reqs.find? (fun r => r.id == id)
def updReq (s : State) (id : Nat) (f : MemReq → MemReq) : State :=
  { s with reqs := s.reqs.map (fun r => if r.id = id then f r else r) }
def dropReq (s : State) (id : Nat) : State := { s with reqs := s.reqs.filter (fun r => r.id != id) }

/-- The die of a request's home: the claiming die's, else the hub's (R146). -/
def homeDie (s : State) (pa : Nat) : Nat := (claimedBy s pa).getD 8

/-- An atomic of the memory system, not a claim or a SPAWN. -/
def isAtomKind : ReqKind → Bool
  | .atom _ _ | .cas _ | .vec _ _ => true
  | _ => false

/-- Requests that are performed in the order of their release (R158, R249): an earlier one of the same order is still to be. The
stores and atomics of a block behind a SPAWN wait until it has been performed (R310). -/
def orderHeld (s : State) (r : MemReq) : Bool :=
  s.reqs.any (fun q => q.team == r.team && q.unit == r.unit && q.core == r.core && q.id < r.id && q.phase != .applied &&
    !sameEvent q.event r.event && (q.kind == .spawn || (r.order.isSome && q.order == r.order)))

/-- Requests of one die reach one home in release order unless their route is rerouted (R275); a CLAIM or a SPAWN
on its way holds none of them. A request to a page in transition is refused and tries again (R163). -/
def arrives (s : State) (r : MemReq) : Bool :=
  r.phase == .forwarded && !orderHeld s r && !moving s r.id r.pa &&
  !s.reqs.any (fun q => (q.kind == .store || isAtomKind q.kind) && q.id < r.id && q.die == r.die && q.phase != .applied &&
    paKind s q.pa != .host && !sameEvent q.event r.event &&
    homeDie s q.pa == homeDie s r.pa && !tabGet false s.rr (16 * physDie s r.die + physDie s (homeDie s r.pa)))

/-- STORE_DIE_FORWARD (R148): at commit plus 24 a released store or atomic leaves for its home. -/
def execStoreDieForward (id : Nat) (s : State) : Result :=
  match findReq s id with
  | none => .next s
  | some r =>
    if r.phase == .released && r.t + 24 ≤ s.ptc then .next (updReq s id (fun r => { r with phase := .forwarded }))
    else .next s

/-- A GWCT reaches the writer's CT (R152). -/
def raiseCt (s : State) (t u g : Nat) : State := updUnit s t u (fun w => { w with ct := max w.ct g })

/-- A store's GWCT reaches its writer, a warp or a stream, and the request ends. -/
def writeAnswered (s : State) (r : MemReq) (g : Nat) : State :=
  dropReq (if isStream r then streamWrote s r g else raiseCt s r.team r.unit g) r.id

/-- The bytes of a store's piece. -/
def reqBytes (r : MemReq) : List Byte := numBytes r.n r.data.toNat

/-- A fault record about a request (R161, R314). -/
def reqRecord (s : State) (r : MemReq) (kind : Nat) : State :=
  match getTeam s r.team with
  | none => s
  | some T => teamRecord s T kind 0 0 r.va

/-- A store to part of a poisoned granule is dropped with a fault record (R161); that of a stream engine raises STREAM (R250). -/
def dropWrite (s : State) (r : MemReq) : State :=
  if isStream r then reqRecord (streamPoison s r) r 4 else reqRecord s r 4

/-- The stores that are performed with one: the pieces of its event (R248), those to host memory or the others. -/
def eventStores (s : State) (r : MemReq) : List MemReq :=
  if r.event.isNone then [r]
  else s.reqs.filter (fun q => sameEvent q.event r.event && (paKind s q.pa == .host) == (paKind s r.pa == .host))

/-- A store at its home (R151): it is applied, its GWCT goes to the writer, and its die's copy follows. A store to part of a
poisoned granule is dropped (R161), and one to a device register that is read-only is ignored. -/
def applyStore (s : State) (r : MemReq) : State :=
  if paKind s r.pa == .device then writeAnswered s r (s.ptc + 8)
  else
    let s' := writeAnswered s r (gwctOf s r.die r.pa r.n)
    if accessDrops s r.vf r.va r.pa r.n then dropWrite s' r
    else
      let s' := (homeSegs s r.vf r.va r.pa r.n).foldl (fun s g =>
        storeWrite s r g.2.2 (((reqBytes r).drop g.1).take g.2.1)) (fillHub s' (r.pa / 128))
      updateCopy s' r.die r.pa (reqBytes r)

/-- HOME_APPLY_WRITE (R151): the pieces of one event are applied together (R248). -/
def execHomeApplyWrite (id : Nat) (s : State) : Result :=
  match findReq s id with
  | none => .next s
  | some r =>
    let rs := eventStores s r
    if r.kind != .store || paKind s r.pa == .host || !rs.all (arrives s) then .next s
    else if rs.any (fun q => paKind s q.pa == .device && !deviceKnown q.pa q.n) then .refused .deviceRegister
    else .next (rs.foldl applyStore s)

/-- A store to host memory placed on the link and acknowledged. -/
def ackStore (s : State) (r : MemReq) : State :=
  let s' := homeWrite (dropReq (if isStream r then streamWrote s r 0 else s) r.id) (cellOf r.pa) (reqBytes r)
  updUnit s' r.team r.unit (fun w => { w with hostOut := w.hostOut - 1 })

/-- HOST_WRITE_ACK (R152): a die's writes to host memory are placed on a link, that of the I/O die that the address names (R143),
and acknowledged, in order. -/
def execHostWriteAck (id : Nat) (s : State) : Result :=
  match findReq s id with
  | none => .next s
  | some r =>
    if r.kind != .store || paKind s r.pa != .host || r.phase != .forwarded || orderHeld s r ||
        s.reqs.any (fun q => q.id < id && q.die == r.die && q.kind == .store && paKind s q.pa == .host &&
          hostIo q.pa == hostIo r.pa && !sameEvent q.event r.event) then .next s
    else .next ((eventStores s r).foldl ackStore s)

/-! ## Loads at their home (R149) -/

/-- The lines that a die cache of 48 MiB holds (R11, R25). -/
def dieLines : Nat := 393216

/-- The die receives a copy of a line under a lease (R147), and the core's L1 the line; the oldest copies give way (log 8), and
leave the L1 caches with it. A page in transition gets no new lease (R163): there, and where the load is not cached, the die's
older copy goes, so that no later load finds what is older than this one's value (R150). -/
def grantCopy (s : State) (l : LoadReq) (lease : Nat) : State :=
  let line := l.pa / 128
  if !homedPa s l.pa || claimedBy s l.pa == some l.die then s
  else if !l.cached || inTransition s l.pa then dropLines s l.die (fun x => x == line)
  else
    let c : LineCopy := { line := line, bytes := homeLine s l.vf (l.va / 128 * 128) (l.pa / 128 * 128),
                          expiry := s.ptc + max 64 (min lease 4096) }
    let cs := (getDie s l.die).copies.filter (fun x => x.line != line)
    let out := cs.take (cs.length + 1 - dieLines)
    let s := dropLines s l.die (fun x => x == line || out.any (fun o => o.line == x))
    fillL1 (updDie s l.die (fun d => { d with copies := d.copies ++ [c] })) l.core line l.hint

/-- The bytes that answer a load: plain memory, or device registers; nothing for an unspecified register. -/
def answerLoad (s : State) (l : LoadReq) : Option Nat :=
  if paKind s l.pa == .device then deviceRead s l.pa l.n else some (servedNum s l 0 l.n)

/-- A load waits at its home for its thread's earlier loads of the same bytes (R150) and for the earlier pieces of its own access
(R158), for a page in transition (R163), and for the planned time of the level that serves it (R27). -/
def loadHeld (s : State) (l : LoadReq) : Bool :=
  s.loads.any (fun q => q.id < l.id && q.team == l.team && q.unit == l.unit && q.unit != noUnit && q.lane == l.lane &&
    !sameEvent q.event l.event && (q.idx == l.idx || spansMeet (cellOf q.pa) q.n (cellOf l.pa) l.n)) ||
  moving s l.id l.pa || s.ptc < l.issued + 8 * homeSlots s l.pa

/-- The loads that are performed with one: the pieces of its event (R248). -/
def eventLoads (s : State) (l : LoadReq) : List LoadReq :=
  if l.event.isNone then [l] else s.loads.filter (fun q => sameEvent q.event l.event)

/-- A load's piece served by its home, with the value `v` of its bytes; its die is granted a lease of the line. -/
def serveLoad (lease : Nat) (s : State) (l : LoadReq) (v : Nat) : State :=
  let bad := accessPoisoned s l.vf l.va l.pa l.n
  let s := if l.cached && homedPa s l.pa then fillHub s (l.pa / 128) else s
  let s := grantCopy { s with loads := s.loads.filter (fun q => q.id != l.id) } l lease
  if l.unit = noUnit then s
  else if l.unit = gridUnit then streamLoaded s l bad v
  else match (getUnit s l.team l.unit).bind WUnit.flight with
  | none => s
  | some f =>
    if bad then
      recheckFault (raise s l.team l.unit l.idx l.lane (blockTrap f .dataPoison .globalMem (l.va - l.off))) l.team l.unit
    else
      let s := updFlight s l.team l.unit (fun f => { f with loads := f.loads.map (fun x =>
        if x.idx = l.idx && x.lane = l.lane then
          { x with val := x.val ||| BitVec.ofNat 128 (v * 256 ^ l.off), missing := x.missing - 1 } else x) })
      recheckFault (loadDone s l.team l.unit l.idx 0) l.team l.unit

/-- LOAD_AT_HOME (R149): the home serves a load's piece, and the pieces of one event together (R248). -/
def execLoadAtHome (id lease : Nat) (s : State) : Result :=
  match s.loads.find? (fun l => l.id == id) with
  | none => .next s
  | some l =>
    let ls := eventLoads s l
    if ls.any (fun l => loadHeld s l || (l.unit == gridUnit && !streamLoadReady s l)) then .next s
    else if ls.any (fun l => (answerLoad s l).isNone) then .refused .deviceRegister
    else .next (ls.foldl (fun s l =>
      if s.loads.any (fun q => q.id == l.id) then serveLoad lease s l ((answerLoad s l).getD 0) else s) s)

/-- LEASE_EXPIRY (R147): where the lease has ended, the die's copy goes, and so does the line from the L1 caches of its cores. -/
def execLeaseExpiry (die line : Nat) (s : State) : Result :=
  if (getDie s die).copies.any (fun c => c.line == line && c.expiry ≤ diePtc s die) then
    .next (dropLines s die (fun x => x == line))
  else .next s

/-! ## Atomics (R159 to R161, R170 to R172) -/

/-- The new value of a location under an atomic (R170). -/
def atomNew (op : AtomOp) (ty : Ty) (m r : Val) : Val :=
  match op with
  | .add => if ty == .f32 then (fFadd fmt32 .rne false (m.toNat % 2 ^ 32) (r.toNat % 2 ^ 32)).1 else fAdd ty m r
  | .min => fMin ty m r
  | .max => fMax ty m r
  | .and => fAnd ty m r
  | .or => fOr ty m r
  | .xor => fXor ty m r
  | .exch => wrapN (tyWidth ty) r.toNat

/-- One 64-bit word of a vector atomic (R171). -/
def vecWord (op : VecOp) (index : Bool) (j m r : Nat) : Nat :=
  let w := r / 2 ^ (64 * j) % 2 ^ 64
  let b := 2 ^ (r / 2 ^ (6 * j) % 2 ^ 6)
  match op with
  | .or => if index then m ||| b else m ||| w
  | .and => if index then m &&& (2 ^ 64 - 1 - b) else m &&& w
  | .add => (m + w) % 2 ^ 64
  | .max => max m w

/-- The words of a vector atomic over a vector of `n` bytes: the new vector and the mask of changed words. -/
def vecNew (op : VecOp) (index : Bool) (n m r : Nat) : Nat × Nat :=
  (List.range (n / 8)).foldl (fun x j =>
    let old := m / 2 ^ (64 * j) % 2 ^ 64
    let new := vecWord op index j old r
    (x.1 + 2 ^ (64 * j) * new, if new = old then x.2 else x.2 + 2 ^ j)) (0, 0)

/-- What an atomic writes, and the value it returns (R170, R171). -/
def atomEffect (k : ReqKind) (n old : Nat) (data cmp : Val) : Nat × Val :=
  match k with
  | .atom op ty => ((atomNew op ty (BitVec.ofNat 128 old) data).toNat, BitVec.ofNat 128 old)
  | .cas ty => (if old = data.toNat % 2 ^ tyWidth ty then cmp.toNat % 2 ^ tyWidth ty else old, BitVec.ofNat 128 old)
  | .vec op index => let r := vecNew op index n old data.toNat; (r.1, BitVec.ofNat 128 r.2)
  | _ => (old, 0)

/-- The release before a SPAWN is done: its unit's earlier stores and atomics are complete (R310). -/
def spawnReady (s : State) (r : MemReq) : Bool :=
  !s.reqs.any (fun q => q.id < r.id && q.team == r.team && q.unit == r.unit && paKind s q.pa != .host) &&
  (match getUnit s r.team r.unit with
   | some w => w.ct < diePtc s r.die
   | none => true)

/-- A page of a SPAWN's record is in transition (R163). -/
def recordMoves (s : State) (r : MemReq) : Bool :=
  [r.va, r.va + r.n - 1].any (fun a => match walk s r.vf (a % 2 ^ 64) with
    | .ok e => moving s r.id (leafPa e a)
    | .error _ => false)

/-- A SPAWN reaches the scheduler (R310). -/
def spawnAtHome (s : State) (r : MemReq) : State :=
  if r.phase == .applied || !spawnReady s r || recordMoves s r then s
  else
    let (s, v) := spawnRecord s r.vf (((getTeam s r.team).map (fun T => T.lrec.region)).getD 0) r.va
      (seenPieces s (r.team, r.unit) r.va)
    updReq s r.id (fun r => { r with phase := .applied, old := BitVec.ofNat 128 v })

/-- ATOMIC_AT_HOME (R159): read, modify and write as one event in arrival order; on poisoned data nothing is
applied (R161). A SPAWN is performed by the scheduler. R145 traps an atomic to a page of MT device; what one does through a
cached or uncacheable page that maps a device register is not said: it acts on plain bytes there (log 44, DESIGN CHOICE). -/
def execAtomicAtHome (id : Nat) (s : State) : Result :=
  match findReq s id with
  | none => .next s
  | some r =>
    if r.kind == .spawn then .next (spawnAtHome s r)
    else if !isAtomKind r.kind || (if paKind s r.pa == .host then orderHeld s r else !arrives s r) || r.phase != .forwarded then
      .next s
    else
      if accessPoisoned s r.vf r.va r.pa r.n then
        .next (reqRecord (updReq s id (fun r => { r with phase := .applied, poison := true })) r 3)
      else
        let (new, ret) := atomEffect r.kind r.n (accessNum s r.vf r.va r.pa r.n) r.data r.cmp
        let bytes := numBytes r.n new
        let g := gwctOf s r.die r.pa r.n
        let s := updReq s id (fun r => { r with phase := .applied, old := ret, gwct := g })
        .next (updateCopy (accessWrite (fillHub s (r.pa / 128)) r.vf r.va r.pa bytes) r.die r.pa bytes)

/-- The value of an atomic has returned: a token that its instruction set completes with the last of its lanes (R36). -/
def atomDone (s : State) (t u : Nat) (sb : Option Nat) : State :=
  match sb with
  | none => s
  | some b =>
    if s.reqs.any (fun q => q.team == t && q.unit == u && q.sb == some b) ||
        s.cores.any (fun c => c.2.satoms.any (fun q => q.team == t && q.unit == u && q.sb == some b)) then s
    else updUnit s t u (fun w => setTok w b { (getTok w b) with state := .complete, promise := 0 })

/-- An atomic's return: its value, or poison, reaches its registers, and its GWCT its warp's CT. -/
def respond (s : State) (r : MemReq) (poison : Bool) (g : Nat) : State :=
  if isStream r then dropReq (streamWrote (if r.poison then streamPoison s r else s) r g) r.id
  else atomDone (updUnit (dropReq s r.id) r.team r.unit (fun w =>
    let w := r.dests.foldl (fun w d => if poison then poisonReg w d else writeReg w d r.old) w
    syncBuf { w with pendRegs := w.pendRegs.filter (fun p => p.id != r.id), atomics := w.atomics - 1, ct := max w.ct g }))
    r.team r.unit r.sb

/-- ATOMIC_RESPONSE (R159). -/
def execAtomicResponse (id : Nat) (s : State) : Result :=
  match findReq s id with
  | none => .next s
  | some r => if r.kind == .store || r.phase != .applied then .next s else .next (respond s r r.poison r.gwct)

/-- ATOMIC_RESPONSE_LOST (R161). -/
def execAtomicResponseLost (id : Nat) (s : State) : Result :=
  match findReq s id with
  | none => .next s
  | some r =>
    if r.kind == .store || r.phase != .applied || r.poison then .next s
    else .next (respond (reqRecord s r 2) r true (diePtc s r.die + 4104))

/-- The core's byte that a scratchpad atomic's byte `i` is: the half of a view that is visible as it executes (R184). -/
def satomAddr (s : State) (r : SatomReq) (i : Nat) : Nat :=
  match getTeam s r.team with
  | some T => spAddr T (r.addr + i)
  | none => r.addr + i

/-- The bytes of a scratchpad atomic, and the banks of its window. -/
def satomBytes (s : State) (r : SatomReq) : List Nat := (List.range r.n).map (satomAddr s r)
def satomBanks (s : State) (r : SatomReq) : List Nat := ((satomBytes s r).map (fun a => a / 4 % 32)).eraseDups

/-- The three-cycle window of a scratchpad atomic, sole to it, recorded under no engine's number. -/
def holdWindow (s : State) (core : Nat) (banks : List Nat) : State :=
  let new := banks.flatMap (fun b => [0, 1, 2].map (fun j => (s.ptc + j, b, 8, 0)))
  updGrid s core (fun g => { g with bankUse := g.bankUse.filter (fun x => s.ptc ≤ x.1) ++ new })

/-- SCRATCHPAD_ATOMIC_EXECUTE (R162): in a window of its banks that the grid's schedule and other atomics leave free, after
earlier ones on its word. -/
def execScratchpadAtomicExecute (core id : Nat) (s : State) : Result :=
  match (getCore s core).satoms.find? (fun r => r.id == id) with
  | none => .next s
  | some r =>
    let at_ := satomBytes s r
    if (getCore s core).satoms.any (fun q => q.id < id && (satomBytes s q).any (fun a => at_.any (fun b => a / 8 == b / 8))) ||
        !(satomBanks s r).all (windowFree s core) then .next s
    else
      let c := getCore s core
      let poison := at_.any (fun a => tabGet false c.spPoison (a / 32))
      let old := bytesNum (at_.map (fun a => tabGet 0 c.scratch a))
      let new := (atomNew r.op r.ty (BitVec.ofNat 128 old) r.data).toNat
      let s := updCore (holdWindow s core (satomBanks s r)) core (fun c =>
        let c := { c with satoms := c.satoms.filter (fun q => q.id != id) }
        (at_.zip (numBytes r.n new)).foldl (fun c x => if poison then c else spSet (dropSpKept c x.1) x.1 x.2) c)
      let s := match getTeam s r.team with
        | some T => if poison then teamRecord s T 3 0 0 r.addr else s
        | none => s
      let s := updUnit s r.team r.unit (fun w =>
        let w := r.dests.foldl (fun w d => if poison then poisonReg w d else writeReg w d (BitVec.ofNat 128 old)) w
        syncBuf { w with pendRegs := w.pendRegs.filter (fun p => p.id != id), atomics := w.atomics - 1 })
      .next (atomDone s r.team r.unit r.sb)

/-! ## Posted writes, claims, invalidation and poison -/

/-- The sources of posted writes, numbered as R195 numbers targets: 0 to 11 the peer of a scale-out port, 16 and 17 the host
through IO0 and IO1, which is one source (R153). -/
def writeSource (src : Nat) : Nat := if 16 ≤ src then 16 else src

/-- The I/O die that receives a source's writes: ports 0 to 5 and 16 belong to IO0, the others to IO1 (R346). -/
def sourceDie (src : Nat) : Nat := if src < 6 || src == 16 then 9 else 10

/-- A host's or peer's write drops on poison: a fault record of the PF names the address (R161; the function is log 44's). -/
def hostDrop (s : State) (addr : Nat) : State := faultRecord s 0 { kind := 4, core := 0xFFFF, info := addr }

/-- A source's link to the package is up: a host port that serves (R336, R348), or a scale-out port, of which Halter mode has none
(R346). -/
def sourceUp (s : State) (src : Nat) : Bool :=
  if 16 ≤ src then pfReached s && tabGet 0 s.hostLanes (src - 16) != 0 else s.boot.mode == .full && tabGet 0 s.ports src != 0

/-- A scale-out port is up. -/
def scaleOut (s : State) : Bool := (List.range 12).any (sourceUp s)

/-- HOST_POSTED_WRITE (R153): the writes of a source whose link is up are applied in order, each after its I/O die's view of the PTC
has passed the GWCT of the one before it; one to a page in transition tries again (R163). -/
def execHostPostedWrite (src addr : Nat) (bytes : List Byte) (s : State) : Result :=
  if !sourceUp s src || diePtc s (sourceDie src) ≤ tabGet 0 s.ioLast (writeSource src) || bytes.isEmpty ||
      rangeMoves s addr bytes.length then .next s
  else match paKind s addr with
    | .hole | .host => .fault .physicalHole
    | .device => if deviceKnown addr bytes.length then .next s else .refused .deviceRegister
    | _ =>
      if paKind s (addr + bytes.length - 1) == .hole then .fault .physicalHole
      else
        let g := gwctOf s 99 addr bytes.length
        let s := if writeDrops s addr bytes.length then hostDrop s addr else s
        .next (homeWrite { s with ioLast := tabSet 0 s.ioLast (writeSource src) g } addr bytes)

/-- Every access to the pages released before a claim has completed and every lease on them has expired (R163). -/
def claimQuiet (s : State) (r : MemReq) (pages : List Nat) : Bool :=
  !s.reqs.any (fun q => (q.kind == .store || isAtomKind q.kind) && q.id < r.id && q.phase != .applied && pages.contains (q.pa / 2 ^ 16)) &&
  !s.loads.any (fun l => l.id < r.id && pages.contains (l.pa / 2 ^ 16)) &&
  s.dies.all (fun d => d.2.copies.all (fun c => !pages.contains (c.line / 512) || c.expiry ≤ s.ptc))

/-- CLAIM_COMPLETE (R163): a CLAIM or CLAIM.rel is done, or refused with its status. -/
def execClaimComplete (id : Nat) (s : State) : Result :=
  match findReq s id with
  | none => .next s
  | some r => match r.kind with
    | .claim rel =>
      if r.phase == .applied then .next s
      else
        let pages := claimPages s r
        let st := if rel || r.n = 0 then 0 else claimStatus s r.die pages
        if st == 0 && !claimQuiet s r pages then .next s
        else
          let s := updReq s id (fun r => { r with phase := .applied, old := BitVec.ofNat 128 st, gwct := s.ptc })
          if st != 0 then .next s
          else if rel then
            .next { s with claims := s.claims.filter (fun c => !(c.die == r.die && pages.contains c.page)) }
          else
            let new := (pages.filter (fun p => !s.claims.any (fun c => c.page == p))).eraseDups
            .next { s with claims := s.claims ++ new.map (fun p => ⟨r.vf, r.die, p⟩) }
    | _ => .next s

/-- TLB entries of one page of a tenant dropped everywhere (R144). -/
def dropTlb (s : State) (vf page : Nat) : State :=
  { s with
    cores := tabMapD {} (fun _ c => { c with tlb := c.tlb.filter (fun e => !(e.vf == vf && e.vpage == page)) }) s.cores
    dies := tabMapD {} (fun _ d => { d with tlb := d.tlb.filter (fun e => !(e.vf == vf && e.vpage == page)) }) s.dies }

/-- TLB_INVALIDATION (R144): of the 64 KiB page with this number. -/
def execTlbInvalidation (vf page : Nat) (s : State) : Result := .next (dropTlb s vf page)

/-- POISON_MARK_SET (R161): an uncorrectable error marks a granule. -/
def execPoisonMarkSet (granule : Nat) (s : State) : Result :=
  if homedPa s (32 * granule) then .next { s with memPoison := tabSet false s.memPoison granule true } else .next s

end Sys2Proof.Machine
end

