-- ==== Sys2Proof/Machine/CopyEngine.lean ====
section
/-! DEFINITION. The copy engine (chapter 7): the pieces of a request, where they are read and written, the
order among requests, views and publishes, completion and failure. -/

namespace Sys2Proof.Machine

/-! ## The pieces of a request (R190 to R195, R378) -/

/-- One side of a piece: nothing (zeros, or skipped), window bytes, global bytes, accumulator words, host memory, or
a peer. -/
inductive Place where
  | none
  | sp (off : Nat)
  | gl (va : Nat)
  | acc (word : Nat)
  | host (pa : Nat)
  | peer
  deriving DecidableEq, Repr

/-- A piece: `n` bytes read, `len` bytes written, the rest of them zero. -/
structure CopyPiece where
  n : Nat
  src : Place
  dst : Place
  len : Nat
  deriving DecidableEq, Repr

/-- Box extents, extents and coordinates of a tensor, those beyond the rank as R190 gives. -/
def boxAt (e : ResEntry) (d : Nat) : Nat := if d < e.rank then e.box.getD d 1 else 1
def dimAt (e : ResEntry) (d : Nat) : Nat := if d < e.rank then e.dim.getD d 1 else 1
def strideAt (e : ResEntry) (d : Nat) : Nat := if d < e.rank then e.stride.getD d 0 else 0
def coordAt (e : ResEntry) (c : List Int) (d : Nat) : Int := if d < e.rank then c.getD d 0 else 0

/-- PITCH (R190). -/
def pitchOf (e : ResEntry) : Nat := (boxAt e 0 * e.esize + 15) / 16 * 16

/-- Rows of a tile. -/
def tileRows (e : ResEntry) : Nat := boxAt e 1 * boxAt e 2 * boxAt e 3

/-- The box indices of element `k` of a tile. -/
def tileIdx (e : ResEntry) (k : Nat) : List Nat :=
  [k % boxAt e 0, k / boxAt e 0 % boxAt e 1, k / (boxAt e 0 * boxAt e 1) % boxAt e 2,
   k / (boxAt e 0 * boxAt e 1 * boxAt e 2)]

/-- An element lies in the tensor's bounds. -/
def inBounds (e : ResEntry) (c : List Int) (i : List Nat) : Bool :=
  (List.range 4).all (fun d => let x := coordAt e c d + i.getD d 0; 0 ≤ x && x < dimAt e d)

/-- An element's byte offset in the tensor. -/
def elemOfs (e : ResEntry) (c : List Int) (i : List Nat) : Int :=
  (List.range 4).foldl (fun x d => x + (coordAt e c d + i.getD d 0) * (strideAt e d : Int)) 0

/-- A byte offset of a resource: in the window for SP = 1, else global. -/
def resPlace (e : ResEntry) (ofs : Int) : Place :=
  if e.sp then .sp ((e.base : Int) + ofs).toNat else .gl (((e.base : Int) + ofs) % 2 ^ 64).toNat

/-- How many pieces a request has: elements of tiles and rows (and the padding of each row of a tile that is
loaded), 16-byte pieces of the others. -/
def pieceCount (r : CopyReq) : Nat :=
  match r.kind with
  | .tileLd => tileRows r.res * boxAt r.res 0 + tileRows r.res
  | .tileSt => tileRows r.res * boxAt r.res 0
  | .gather | .scatter => r.count * boxAt r.res 0
  | .bufLd | .bufSt | .get | .put => r.count / 16
  | .accIn | .accOut => 32 * r.count
  | .publ | .cancel | .cred => 0

/-- Element `k` of a tile. -/
def tilePiece (r : CopyReq) (load : Bool) (k : Nat) : CopyPiece :=
  let e := r.res
  let n := tileRows e * boxAt e 0
  if k < n then
    let i := tileIdx e k
    let s := Place.sp (r.sp + k / boxAt e 0 * pitchOf e + k % boxAt e 0 * e.esize)
    let g := if inBounds e r.coords i then resPlace e (elemOfs e r.coords i) else .none
    if load then ⟨e.esize, g, s, e.esize⟩ else ⟨e.esize, s, g, e.esize⟩
  else
    let row := boxAt e 0 * e.esize
    ⟨0, .none, .sp (r.sp + (k - n) * pitchOf e + row), pitchOf e - row⟩

/-- Element `k` of the rows of a gather or scatter. R192 does not say what becomes of a row longer than DIM0: its columns past DIM0 are
zeros in a CPYG and skipped by a CPYS; and a CPYG leaves the bytes between one row and the next unwritten (log 47, DESIGN CHOICE). -/
def rowPiece (r : CopyReq) (load : Bool) (k : Nat) : CopyPiece :=
  let e := r.res
  let b := boxAt e 0
  let j := (r.list.getD []).getD (k / b) 0
  let s := Place.sp (r.sp + k / b * pitchOf e + k % b * e.esize)
  let g := if j < dimAt e 1 && k % b < dimAt e 0 then
      resPlace e (((j * strideAt e 1 + k % b * e.esize : Nat)) : Int) else .none
  if load then ⟨e.esize, g, s, e.esize⟩ else ⟨e.esize, s, g, e.esize⟩

/-- Piece `k` of a request. R195 and R196 name no check of a local range against the BUFFER's SIZE: the bytes past it are copied like
the others (log 47, DESIGN CHOICE). -/
def copyPiece (r : CopyReq) (k : Nat) : CopyPiece :=
  let o := r.ofs + 16 * k
  let inside := min 16 (r.res.size - o)
  match r.kind with
  | .tileLd => tilePiece r true k
  | .tileSt => tilePiece r false k
  | .gather => rowPiece r true k
  | .scatter => rowPiece r false k
  | .bufLd => ⟨inside, if inside = 0 then .none else resPlace r.res o, .sp (r.sp + 16 * k), 16⟩
  | .bufSt => ⟨inside, .sp (r.sp + 16 * k), if inside = 0 then .none else resPlace r.res o, inside⟩
  | .accIn => ⟨16, .sp (r.sp + 16 * k), .acc (128 * r.row + 4 * k), 16⟩
  | .accOut => ⟨16, .acc (128 * r.row + 4 * k), .sp (r.sp + 16 * k), 16⟩
  | .get => ⟨16, if r.target < 12 then .peer else
      .host (2 ^ 56 + (r.target - 16) * 2 ^ 55 + (r.remote + 16 * k) % 2 ^ 55), .gl ((r.res.base + o) % 2 ^ 64), 16⟩
  | .put => ⟨16, .gl ((r.res.base + o) % 2 ^ 64), if r.target < 12 then .peer else
      .host (2 ^ 56 + (r.target - 16) * 2 ^ 55 + (r.remote + 16 * k) % 2 ^ 55), 16⟩
  | .publ | .cancel | .cred => ⟨0, .none, .none, 0⟩

/-- The value's bytes of a CRED. -/
def credWidth (r : CopyReq) : Nat := if r.lg then 8 else 16

/-- The destination bytes of a whole request (R188). -/
def destTotal (r : CopyReq) : Nat :=
  let e := r.res
  match r.kind with
  | .tileLd => pitchOf e * tileRows e
  | .tileSt => ((List.range (tileRows e * boxAt e 0)).filter (fun k => inBounds e r.coords (tileIdx e k))).length * e.esize
  | .gather => r.count * boxAt e 0 * e.esize
  | .scatter => ((r.list.getD []).filter (fun j => j < dimAt e 1)).length * min (boxAt e 0) (dimAt e 0) * e.esize
  | .bufLd | .get | .put => r.count
  | .bufSt => min r.count (e.size - r.ofs)
  | .accIn | .accOut => 512 * r.count
  | .cred => (r.count) * credWidth r
  | .publ | .cancel => 0

/-- A request whose bytes count when the GWCT of their write has passed (R188). -/
def globalDest (r : CopyReq) : Bool :=
  match r.kind with
  | .tileSt | .bufSt | .scatter => !r.res.sp
  | .put => true
  | _ => false

/-! ## Ranges and order (R183) -/

/-- The bounds of a resource's bytes that a request reaches, as offsets. -/
def resBounds (r : CopyReq) : Nat × Nat :=
  let e := r.res
  match r.kind with
  | .tileLd | .tileSt =>
    let lo := (List.range 4).foldl (fun x d => x + (max 0 (coordAt e r.coords d)).toNat * strideAt e d) 0
    let hi := (List.range 4).foldl (fun x d =>
      x + (min ((dimAt e d : Int) - 1) (coordAt e r.coords d + boxAt e d - 1)).toNat * strideAt e d) 0
    let none_ := (List.range 4).any (fun d => dimAt e d ≤ (coordAt e r.coords d).toNat ||
      coordAt e r.coords d + boxAt e d ≤ 0)
    if none_ then (0, 0) else (lo, hi + e.esize)
  | .gather | .scatter =>
    let row := min (boxAt e 0) (dimAt e 0) * e.esize
    match r.list with
    | none => if dimAt e 1 = 0 then (0, 0) else (0, (dimAt e 1 - 1) * strideAt e 1 + row)
    | some l => match l.filter (fun j => j < dimAt e 1) with
      | [] => (0, 0)
      | j :: js => (js.foldl min j * strideAt e 1, js.foldl max j * strideAt e 1 + row)
  | .bufLd | .bufSt => (min r.ofs e.size, min (r.ofs + r.count) e.size)
  | .get | .put => (r.ofs, r.ofs + r.count)
  | .cred => (r.ofs, r.ofs + r.count * credWidth r)
  | _ => (0, 0)

/-- The window bytes of a request's scratchpad side. -/
def spLen (r : CopyReq) : Nat :=
  match r.kind with
  | .tileLd | .tileSt => pitchOf r.res * tileRows r.res
  | .gather | .scatter => (r.count - 1) * pitchOf r.res + boxAt r.res 0 * r.res.esize
  | .bufLd | .bufSt => r.count
  | .accIn | .accOut => 512 * r.count
  | _ => 0

/-- The request writes its scratchpad operand, not its resource. -/
def loadsSp (r : CopyReq) : Bool :=
  match r.kind with
  | .tileLd | .bufLd | .gather | .accOut => true
  | _ => false

/-- A range of a request: 0 scratchpad, 1 global, 2 accumulator rows, 3 host memory, 4 + n the memory of target n; and whether it is
written. -/
structure CopyRange where
  space : Nat
  key : Nat
  lo : Nat
  hi : Nat
  wr : Bool

/-- A window range as the direct addresses of the bytes that it reaches: a shadowed one lies in the upper half of its
view (R184). -/
def spRange (s : State) (team : Nat) (hidden : Bool) (lo hi : Nat) (wr : Bool) : CopyRange :=
  match hidden, (getTeam s team).bind (fun T => spViewAt T lo) with
  | true, some v => ⟨0, team, lo + v.size, hi + v.size, wr⟩
  | _, _ => ⟨0, team, lo, hi, wr⟩

/-- What a range leaves outside a view's primary range. -/
def outsideView (g : GView) (x : Nat × Nat) : List (Nat × Nat) :=
  [(x.1, min x.2 g.base), (max x.1 (g.base + g.size), x.2)].filter (fun y => y.1 < y.2)

/-- A global range at the backings that the views it meets select for it (R184). -/
def glRanges (s : State) (vf : Nat) (hidden : Bool) (lo hi : Nat) (wr : Bool) : List CopyRange :=
  let vs := (getTenant s vf).gviews
  let out := vs.foldl (fun l g => l.flatMap (outsideView g)) [(lo, hi)]
  let inside := vs.filterMap (fun g =>
    let a := max lo g.base
    let b := min hi (g.base + g.size)
    if b ≤ a then none
    else some (if g.st.bit != hidden then (a - g.base + g.alt, b - g.base + g.alt) else (a, b)))
  (out ++ inside).map (fun x => ⟨1, vf, x.1, x.2, wr⟩)

/-- The remote range of a CPYR: in host memory, which either I/O die reaches (R143), or in a peer's. -/
def remoteRange (r : CopyReq) : List CopyRange :=
  if r.kind != .get && r.kind != .put then []
  else if 16 ≤ r.target then
    let a := r.remote % 2 ^ 55
    [⟨3, 0, a, min (a + r.count) (2 ^ 55), r.kind == .put⟩, ⟨3, 0, 0, a + r.count - 2 ^ 55, r.kind == .put⟩]
  else [⟨4 + r.target, 0, r.remote, r.remote + r.count, r.kind == .put⟩]

/-- Every range of a request; a CRED reads the visible half of the view whose hidden one it writes. -/
def reqRanges (s : State) (r : CopyReq) : List CopyRange :=
  let b := resBounds r
  let lo := r.res.base + b.1
  let hi := r.res.base + b.2
  let res := if r.kind == .accIn || r.kind == .accOut then [⟨2, 0, r.row, r.row + r.count, r.kind == .accIn⟩]
    else if r.res.sp then [spRange s r.team (r.sh && !loadsSp r) lo hi (!loadsSp r)]
    else glRanges s r.vf (r.sh && !loadsSp r) lo hi (!loadsSp r && r.kind != .put) ++
      (if r.kind == .cred && r.sh then glRanges s r.vf false lo hi false else [])
  let list := if r.kind == .gather || r.kind == .scatter then [⟨0, r.team, r.row, r.row + 4 * r.count, false⟩] else []
  spRange s r.team (r.sh && loadsSp r) r.sp (r.sp + spLen r) (loadsSp r) :: res ++ list ++ remoteRange r

def rangesMeet (a b : CopyRange) : Bool :=
  a.space == b.space && a.key == b.key && (a.wr || b.wr) && a.lo < b.hi && b.lo < a.hi

/-- An earlier request of the core that overlaps and has not landed (R183). -/
def copyBlocked (s : State) (core : Nat) (r : CopyReq) : Bool :=
  (getCore s core).copyQ.any (fun q => q.id < r.id && underWay q &&
    (reqRanges s q).any (fun a => (reqRanges s r).any (fun b => rangesMeet a b)))

/-- Stores and atomics that the issuing warp released before the copy's issue and that are not applied (R183). -/
def priorStores (s : State) (r : CopyReq) : Bool :=
  s.reqs.any (fun q => q.team == r.team && q.unit == r.unit && q.id < r.id && q.phase != .applied)

/-- Matrix instructions issued earlier that touch a request's rows (R193). -/
def matrixBefore (c : Core) (r : CopyReq) : Bool :=
  (r.kind == .accIn || r.kind == .accOut) &&
    c.mat.queue.any (fun m => m.id < r.id && m.row < r.row + r.count && r.row < m.row + m.rows)

/-! ## Reading and writing a piece -/

/-- A side's fault (R187), a register that the specification does not give, or a page in transition, whose access tries again
(R163). -/
inductive CopyStop where
  | fault (code : TrapCode) (addr : Nat)
  | device
  | moving
  deriving DecidableEq, Repr

/-- A page of an access's pieces is in transition. -/
def piecesMove (s : State) (ps : List Piece) : Bool := ps.any (fun p => inTransition s p.pa)

/-- The bytes of global pieces at their homes. -/
def readPieces (s : State) (vf : Nat) : List Piece → Except CopyStop (List Byte)
  | [] => .ok []
  | p :: ps =>
    let bytes : Except CopyStop (List Byte) :=
      if paKind s p.pa == .device then
        match deviceRead s p.pa p.n with
        | some v => .ok (numBytes p.n v)
        | none => .error .device
      else if accessPoisoned s vf p.va p.pa p.n then .error (.fault .dataPoison p.va)
      else .ok (numBytes p.n (accessNum s vf p.va p.pa p.n))
    match bytes, readPieces s vf ps with
    | .ok a, .ok b => .ok (a ++ b)
    | .error e, _ => .error e
    | _, .error e => .error e

/-- A window byte as a copy reads it: what stood there before an STS of its own block, else what stands there (R183). -/
def copyByte (s : State) (T : Team) (r : CopyReq) (off : Nat) : Byte :=
  match tabFind r.kept (spAddr T off) with
  | some b => b
  | none => tabGet 0 (getCore s T.core).scratch (spAddr T off)

/-- The bytes of a piece's source. -/
def readPlace (s : State) (core : Nat) (r : CopyReq) (T : Team) (pl : Place) (n : Nat) : State × Except CopyStop (List Byte) :=
  match pl with
  | .none => (s, .ok [])
  | .sp off =>
    if T.spBytes < off + n then (s, .error (.fault .xlateNotMapped off))
    else if spPoisoned s T off n then (s, .error (.fault .dataPoison off))
    else (s, .ok ((List.range n).map (fun i => copyByte s T r (off + i))))
  | .gl va =>
    let (s, x) := checkAccess s core r.vf va n .rd false
    match x with
    | .error c => (s, .error (.fault c va))
    | .ok ps => if piecesMove s ps then (s, .error .moving) else (touchPieces s T ps, readPieces s r.vf ps)
  | .acc w => (s, .ok ((List.range (n / 4)).flatMap (fun i => numBytes 4 (tabGet 0 (getCore s core).mat.acc (w + i)).toNat)))
  | .host pa => (s, .ok (memBytes s.mem (cellOf pa) n))
  | .peer =>
    let (s, k) := freshFree s
    (s, .ok (numBytes n (Config.freeVal k).toNat))

/-- The address that a shadowed write of a global view reaches: the hidden backing (R184). -/
def hiddenVa (s : State) (vf va : Nat) : Nat :=
  match (getTenant s vf).gviews.find? (fun g => g.base ≤ va && va < g.base + g.size) with
  | some g => if g.st.bit then va else va - g.base + g.alt
  | none => va

/-- An address in the primary range of a global view. -/
def inPrimary (s : State) (vf va : Nat) : Bool := (getTenant s vf).gviews.any (fun g => g.base ≤ va && va < g.base + g.size)

/-- A copy's write at a home (R151, R183): the later of the GWCTs is returned. The primary range is cached as its visible half
stands, so a write of the half hidden there leaves the die's copy alone (R184). -/
def writePieces (s : State) (r : CopyReq) (T : Option Team) (die : Nat) : List (Piece × List Byte) → Except CopyStop (State × Nat)
  | [] => .ok (s, 0)
  | (p, bytes) :: ps =>
    if paKind s p.pa == .device then
      if deviceKnown p.pa p.n then writePieces s r T die ps else .error .device
    else
      let g := gwctOf s die p.pa p.n
      let drops := if r.sh then writeDrops s p.pa p.n else accessDrops s r.vf p.va p.pa p.n
      let s := match T with
        | some T => if drops then teamRecord s T 4 0 0 p.va else s
        | none => s
      let hidden := r.sh && inPrimary s r.vf p.va
      let s := if r.sh then homeWrite s (cellOf p.pa) bytes else accessWrite s r.vf p.va p.pa bytes
      let s := if hidden then s else updateCopy s die p.pa bytes
      match writePieces s r T die ps with
      | .ok (s, g') => .ok (s, max g g')
      | .error e => .error e

/-- The pieces of a copy's write set the bits of the units that they reach: those of the backing that a view selects, or for a
shadowed write those of the pages that it names (R184, R304). -/
def touchWritten (s : State) (T : Team) (sh : Bool) (ps : List Piece) : State :=
  if sh then ps.foldl (fun s p => touch s T.vf T.slot p.pa) s else touchPieces s T ps

/-- A piece's bytes written. -/
def writePlace (s : State) (core : Nat) (r : CopyReq) (T : Option Team) (pl : Place) (bytes : List Byte) :
    Except CopyStop (State × Nat) :=
  match pl with
  | .none => .ok (s, 0)
  | .sp off =>
    match T with
    | none => .ok (s, 0)
    | some T =>
      if T.spBytes < off + bytes.length then .error (.fault .xlateNotMapped off) else
      let addr := fun i => T.spBase + (if r.sh then spHidden T (off + i) else spView T (off + i))
      .ok (spStore s true r.team noUnit T off addr bytes, 0)
  | .gl va =>
    let va := if r.sh then hiddenVa s r.vf va else va
    let (s, x) := checkAccess s core r.vf va bytes.length .rw false
    match x with
    | .error c => .error (.fault c va)
    | .ok ps =>
      if piecesMove s ps then .error .moving else
      let s := match T with
        | some T => touchWritten s T r.sh ps
        | none => s
      writePieces s r T (dieOf core) (ps.map (fun p => (p, (bytes.drop p.off).take p.n)))
  | .acc w =>
    let word := fun i => BitVec.ofNat 32 (bytesNum ((bytes.drop (4 * i)).take 4))
    let put := fun t => (List.range (bytes.length / 4)).foldl (fun t i => tabSet 0 t (w + i) (word i)) t
    .ok (updCore s core (fun c => let m := { c.mat with acc := put c.mat.acc }; { c with mat := m }), 0)
  | .host pa => .ok (homeWrite s (cellOf pa) bytes, s.ptc + 8)
  | .peer => .ok (s, 0)

/-- A piece moved: its source read and its destination written. A port moves no byte while it is down (R346). A row list read from poisoned bytes fails it (R187), and so
does a scale-out port that is down (R346). -/
def movePiece (s : State) (core : Nat) (r : CopyReq) (T : Team) (k : Nat) : Except CopyStop (State × Nat) :=
  let p := copyPiece r k
  if r.landed.isEmpty && (r.kind == .gather || r.kind == .scatter) && spPoisoned s T r.row (4 * r.count) then
    .error (.fault .dataPoison r.row)
  else if (p.src == .peer || p.dst == .peer) && !sourceUp s r.target then .error (.fault .xlatePerm (r.remote + 16 * k))
  else match readPlace s core r T p.src p.n with
  | (_, .error e) => .error e
  | (s, .ok bytes) => writePlace s core r (some T) p.dst (bytes ++ List.replicate (p.len - bytes.length) 0)

/-! ## Views (R184, R185) -/

def getView (s : State) : ViewRef → Option ViewSt
  | .scratch t i => (getTeam s t).bind (fun T => (T.views[i]?).map SpView.st)
  | .global vf b => ((getTenant s vf).gviews.find? (fun g => g.base == b)).map GView.st

/-- A view's items changed; a global view's record with nothing in it is freed (R184). -/
def updView (s : State) (v : ViewRef) (f : ViewSt → ViewSt) : State :=
  match v with
  | .scratch t i =>
    let one := fun (j : Nat) (x : SpView) => if j = i then { x with st := f x.st } else x
    updTeam s t (fun T => { T with views := T.views.mapIdx one })
  | .global vf b =>
    let one := fun (g : GView) => if g.base = b then { g with st := f g.st } else g
    let held := fun (l : List GView) => (l.map one).filter (fun g => g.st != {})
    updTenant s vf (fun V => { V with gviews := held V.gviews })

/-- The scratchpad view of a team whose visible range holds a range. -/
def viewHolding (T : Team) (off n : Nat) : Option Nat :=
  T.views.findIdx? (fun v => v.base ≤ off && off + n ≤ v.base + v.size)

/-- The view that an entry names: a listed scratchpad view, or the tenant's global view of the entry (R184). A
record of another size or backing is refused; where `make`, a missing record is made, but for one beyond 4,096. -/
def entryView (make : Bool) (s : State) (vf t : Nat) (T : Team) (idx : Nat) (e : ResEntry) : Option (State × ViewRef) :=
  if e.sp then
    if e.kind != .buffer || !e.shadow then none
    else (T.views.findIdx? (fun v => v.ridx == idx)).map (fun i => (s, .scratch t i))
  else if !e.shadow || !(e.kind == .buffer || e.kind == .tensor) then none
  else match (getTenant s vf).gviews.find? (fun g => g.base == e.base) with
    | some g => if g.size = e.size && g.alt = e.alt then some (s, .global vf e.base) else none
    | none =>
      if !make then some (s, .global vf e.base)
      else if 4096 ≤ (getTenant s vf).gviews.length then none
      else some (updTenant s vf (fun V => { V with gviews := V.gviews ++ [⟨e.base, e.alt, e.size, {}⟩] }), .global vf e.base)

/-- Pending bytes taken from a team's barrier (R188); where it is saved they are taken at its restore. -/
def takeBytes (s : State) (t : Nat) (b n : Nat) : State :=
  let saved := fun (x : SavedTeam) => if x.id = t then { x with owed := x.owed ++ [(b, n)] } else x
  if n = 0 then s
  else if (getTeam s t).isSome then updTeam s t (fun T => barTake T b n)
  else { s with tenants := tabMap (fun _ V => { V with saved := V.saved.map saved }) s.tenants }

/-- A team, on its core or as it was saved. -/
def anyTeam (s : State) (t : Nat) : Option Team :=
  match getTeam s t with
  | some T => some T
  | none => s.tenants.findSome? (fun V => (V.2.saved.find? (fun x => x.id == t)).map SavedTeam.team)

/-! ## Requests in the queue -/

def findCopy (s : State) (core id : Nat) : Option CopyReq := (getCore s core).copyQ.find? (fun r => r.id == id)
def updCopy (s : State) (core id : Nat) (f : CopyReq → CopyReq) : State :=
  updCore s core (fun c => { c with copyQ := c.copyQ.map (fun r => if r.id = id then f r else r) })
def dropCopy (s : State) (core id : Nat) : State :=
  updCore s core (fun c => { c with copyQ := c.copyQ.filter (fun r => r.id != id) })

/-- A request ends: its entry frees and its token, if it still is the request's, takes its last state. -/
def endCopy (s : State) (core : Nat) (r : CopyReq) (st : TokState) : State :=
  completeTok (dropCopy s core r.id) r.team r.unit r.sb r.id st

/-- The list of a gather or scatter (R192): its entries as they were read, and the others as they stand. -/
def readList (s : State) (T : Team) (r : CopyReq) : List Nat :=
  (List.range r.count).map (fun k => (tabFind r.got k).getD
    (bytesNum ((List.range 4).map (fun i => copyByte s T r (r.row + 4 * k + i)))))

/-- A request whose list is still to be read. -/
def wantsList (r : CopyReq) : Bool := (r.kind == .gather || r.kind == .scatter) && r.list.isNone

/-- The request with its list as it stands. -/
def startCopy (s : State) (T : Team) (r : CopyReq) : CopyReq :=
  if wantsList r then { r with list := some (readList s T r) } else r

/-- The banks of an entry of a list. -/
def entryBanks (T : Team) (r : CopyReq) (k : Nat) : List Nat := spBanks T (r.row + 4 * k) 4

/-- The engine reads the list of a request that starts, once: each entry in the first cycle in which its banks are free (R192,
R252). -/
def readEntries (s : State) (core : Nat) (T : Team) (r : CopyReq) : CopyReq :=
  if !wantsList r then r
  else
    let l := readList s T r
    let now := (List.range r.count).filter (fun k => (tabFind r.got k).isSome || banksFree s core (entryBanks T r k))
    if now.length = r.count then { r with list := some l } else { r with got := now.map (fun k => (k, l.getD k 0)) }

/-- The bytes that a request still owes its barrier, taken now (R188); those of a scatter that has not started follow its list
as it stands. -/
def settleBytes (s : State) (r : CopyReq) : State :=
  match r.bv with
  | some b =>
    let r := match getTeam s r.team with
      | some T => startCopy s T r
      | none => r
    takeBytes s r.team b (destTotal r - r.counted)
  | none => s

/-- All bytes have landed: a shadowed request is no longer in flight into its view; one without auto-publish leaves
its bytes to the next publish (R185, R186, R188). -/
def landedAll (s : State) (core : Nat) (r : CopyReq) : State :=
  let s := updCopy s core r.id (fun r => { r with phase := .landed })
  match r.view with
  | none => s
  | some v => updView s v (fun x =>
      { x with count := x.count - 1
               unpub := match r.bv with
                 | some b => if r.ap then x.unpub else x.unpub ++ [(r.team, b, destTotal r)]
                 | none => x.unpub })

/-- One more piece has landed. -/
def landPiece (s : State) (core : Nat) (r : CopyReq) (k g : Nat) : State :=
  let len := match (copyPiece r k).dst with
    | .none => 0
    | _ => (copyPiece r k).len
  let now := !r.sh && !globalDest r
  let r' := { r with
    landed := k :: r.landed, gwct := max r.gwct g, counted := if now then r.counted + len else r.counted
    owed := if !r.sh && globalDest r then r.owed ++ [(g, len)] else r.owed }
  let s := updCopy s core r.id (fun _ => r')
  let s := match r.view with
    | some v => if len = 0 then s else updView s v (fun x => { x with dirty := true })
    | none => s
  let s := match r.bv with
    | some b => if now then takeBytes s r.team b len else s
    | none => s
  if r'.landed.length = pieceCount r then landedAll s core r' else s

/-- The banks of a side of a piece. -/
def placeBanks (T : Team) (hidden : Bool) (pl : Place) (n : Nat) : List Nat :=
  match pl with
  | .sp off => (List.range n).map (fun i => (if hidden then spHidden T (off + i) else spView T (off + i)) / 4 % 32)
  | _ => []

/-- The banks of a piece. -/
def pieceBanks (T : Team) (r : CopyReq) (k : Nat) : List Nat :=
  let p := copyPiece r k
  placeBanks T false p.src p.n ++ placeBanks T r.sh p.dst p.len

/-- R183 and R193 let a request start. -/
def mayMove (s : State) (core : Nat) (r : CopyReq) : Bool :=
  !priorStores s r && !copyBlocked s core r && !matrixBefore (getCore s core) r

/-- The requests that may start read the entries of their lists whose banks are free in this cycle. -/
def readLists (s : State) (core : Nat) : State :=
  let mine := (getCore s core).copyQ.filter (fun r => wantsList r && underWay r && mayMove s core r)
  mine.foldl (fun s r => match getTeam s r.team with
    | some T => updCopy s core r.id (fun _ => readEntries s core T r)
    | none => s) s

/-- A piece may move now: it has not landed, its request's list is at hand, R183, R192 and R193 let it, and the banks that it
reaches are free (R252). -/
def pieceReady (s : State) (core : Nat) (T : Team) (r : CopyReq) (k : Nat) : Bool :=
  underWay r && k < pieceCount r && !r.landed.contains k && !wantsList r && mayMove s core r &&
    (r.kind != .scatter || k == r.landed.length) && banksFree s core (pieceBanks T r k)

/-- The bytes that a step takes from a request's barrier come before the arrivals of their cycle (R266): after one, the step waits
for the next cycle. -/
def bvLate (s : State) (r : CopyReq) : Bool :=
  match r.bv with
  | some b => arrivedNow s r.team b
  | none => false

/-- The token of a failed request: Failed, with the trap code and the first faulting address (R187). -/
def failToken (s : State) (r : CopyReq) (code : TrapCode) (addr : Nat) : State :=
  match r.sb with
  | some b => updUnit s r.team r.unit (fun w =>
      if (getTok w b).req = r.id && tokBusy 0 (getTok w b) then
        setTok w b { (getTok w b) with state := .failed, code := some code, addr := BitVec.ofNat 57 addr } else w)
  | none => s

/-- A request that ends without its bytes leaves its view and its barrier (R187, R188). -/
def leaveCopy (s : State) (r : CopyReq) : State :=
  let s := settleBytes s r
  match r.view with
  | some v => updView s v (fun x => { x with count := x.count - 1 })
  | none => s

/-- A request fails (R187): its token is Failed with the trap code and the first faulting address, and a fault
record is written. -/
def failCopy (s : State) (core : Nat) (r : CopyReq) (code : TrapCode) (addr : Nat) (record : Bool) : State :=
  let s := failToken (leaveCopy (dropCopy s core r.id) r) r code addr
  match getTeam s r.team with
  | some T => if record then teamRecord s T 5 (trapNum code) 0 addr else s
  | none => s

/-! ## The engine's steps -/

/-- COPY_BYTES_LAND (R183): one piece of a request lands; a piece that meets a fault does not (R187). -/
def execCopyBytesLand (core id piece : Nat) (s : State) : Result :=
  match findCopy s core id with
  | none => .next s
  | some r => match getTeam s r.team with
    | none => .next s
    | some T =>
      let r := readEntries s core T r
      if !pieceReady s core T r piece || bvLate s r then .next s
      else match movePiece s core r T piece with
        | .ok (s', g) => .next (landPiece s' core r piece g)
        | .error (.fault _ _) | .error .moving => .next s
        | .error .device => .refused .deviceRegister

/-- The first piece still to land that meets a fault. -/
def firstStop (s : State) (core : Nat) (r : CopyReq) (T : Team) : Option (TrapCode × Nat) :=
  ((List.range (pieceCount r)).filter (fun k => !r.landed.contains k)).findSome? (fun k =>
    match movePiece s core r T k with
    | .error (.fault c a) => some (c, a)
    | _ => none)

/-- COPY_SLOW_PATH (R187): a piece meets a fault, and the firmware takes the remainder; the token is Slow. -/
def execCopySlowPath (core id : Nat) (s : State) : Result :=
  match findCopy s core id with
  | none => .next s
  | some r => match getTeam s r.team with
    | none => .next s
    | some T =>
      let r := readEntries s core T r
      if r.phase != .running || wantsList r || !mayMove s core r then .next s
      else match firstStop s core r T with
        | none => .next s
        | some k =>
          let s := updCopy s core id (fun _ => { r with phase := .slow, fault := some k })
          .next (completeTok s r.team r.unit r.sb id .slow)

/-- The firmware moves those of the remaining pieces that can move in this cycle (R252); the state, or the fault that stays. -/
def moveRest (core : Nat) (T : Team) (id : Nat) : List Nat → State → Except CopyStop State
  | [], s => .ok s
  | k :: ks, s =>
    match findCopy s core id with
    | none => .ok s
    | some r =>
      if !pieceReady s core T r k then moveRest core T id ks s
      else match movePiece s core r T k with
        | .error .moving => moveRest core T id ks s
        | .error e => .error e
        | .ok (s, g) => moveRest core T id ks (landPiece s core r k g)

/-- The values of a CRED's buffer. -/
def credValues (s : State) (core : Nat) (r : CopyReq) : Except CopyStop (List Val) :=
  (List.range r.count).foldr (fun i acc =>
    match checkAccess s core r.vf ((r.res.base + r.ofs + credWidth r * i) % 2 ^ 64) (credWidth r) .rd false, acc with
    | (_, .error c), _ => .error (.fault c ((r.res.base + r.ofs + credWidth r * i) % 2 ^ 64))
    | (_, .ok ps), .ok l =>
      if piecesMove s ps then .error .moving
      else match readPieces s r.vf ps with
      | .ok b => .ok (BitVec.ofNat 128 (bytesNum b) :: l)
      | .error e => .error e
    | _, .error e => .error e) (.ok [])

/-- The values of a CRED written to its buffer. -/
def credWrite (s : State) (core : Nat) (r : CopyReq) (T : Option Team) (l : List Nat) : Except CopyStop (State × Nat) :=
  (l.zipIdx).foldl (fun acc x => match acc with
    | .error e => .error e
    | .ok (s, g) => match writePlace s core r T (.gl ((r.res.base + r.ofs + credWidth r * x.2) % 2 ^ 64)) (numBytes (credWidth r) x.1) with
      | .ok (s, g') => .ok (s, max g g')
      | .error e => .error e) (.ok (s, 0))

/-- The fault that a CRED's buffer still meets, read or written. -/
def credMeets (s : State) (core : Nat) (r : CopyReq) : Option (TrapCode × Nat) :=
  match credValues s core r, credWrite s core r none (List.replicate r.count 0) with
  | .error (.fault c a), _ => some (c, a)
  | _, .error (.fault c a) => some (c, a)
  | _, _ => none

/-- The firmware's end of a CRED whose buffer met a fault: it goes on, or fails (R187). -/
def credSlowEnd (s : State) (core : Nat) (r : CopyReq) : State :=
  match credMeets s core r with
  | some (c, a) => failCopy s core r c a true
  | none => updCopy s core r.id (fun q => { q with phase := .running, fault := none })

/-- SLOW_PATH_END (R187): the firmware moves what it can of the remainder, or the request fails. -/
def execSlowPathEnd (core id : Nat) (s : State) : Result :=
  match findCopy s core id with
  | none => .next s
  | some r => match getTeam s r.team with
    | none => .next s
    | some T =>
      if r.phase != .slow || bvLate s r then .next s
      else if r.kind == .cred then .next (credSlowEnd s core r)
      else match moveRest core T id (List.range (pieceCount r)) s with
        | .ok s => .next s
        | .error (.fault c a) => .next (failCopy s core r c a true)
        | .error .moving => .next s
        | .error .device => .refused .deviceRegister

/-- The bytes of the global writes whose GWCT has passed are counted (R188). -/
def countOwed (s : State) (core : Nat) (r : CopyReq) : State :=
  let due := r.owed.filter (fun x => x.1 < diePtc s (dieOf core))
  let n := (due.map Prod.snd).sum
  match r.bv with
  | none => s
  | some b =>
    if n = 0 then s
    else takeBytes (updCopy s core r.id (fun q =>
      { q with counted := q.counted + n, owed := r.owed.filter (fun x => !(x.1 < diePtc s (dieOf core))) })) r.team b n

/-- The end of a request (R181): the bytes of global writes are counted. -/
def completeCopy (s : State) (core : Nat) (r : CopyReq) : State :=
  endCopy (if r.sh || !globalDest r then s else settleBytes s r) core r .complete

/-- COPY_COMPLETE (R181): the token completes, and the bytes of global writes are counted; before that, those whose
GWCT has passed (R188). -/
def execCopyComplete (core id : Nat) (s : State) : Result :=
  match findCopy s core id with
  | none => .next s
  | some r =>
    if bvLate s r then .next s
    else if !copyFinished s core r then .next (countOwed s core r)
    else .next (completeCopy s core r)

/-- The requests of every core that a publish of a view covers: landed auto-publishes and waiting PUBLs. The
auto-publishes of a team that has stopped for a save are deferred to its restore (R324 step 3). -/
def publishing (s : State) (v : ViewRef) : List (Nat × CopyReq) :=
  s.cores.flatMap (fun c => (c.2.copyQ.filter (fun r => r.view == some v &&
    ((r.ap && r.phase == .landed && !((getTeam s r.team).map (saveStopped s)).getD false) || (r.kind == .publ && r.phase == .running)))).map (fun r => (c.1, r)))

/-- The GWCT of a publish of a global view: one write event over its primary range (R164). -/
def publishGwct (s : State) (vf base size : Nat) : Nat :=
  (rangePages base size).foldl (fun g p => match walk s vf (p % 2 ^ 64) with
    | .error _ => g
    | .ok e =>
      let lo := leafPa e (max p base)
      let hi := leafPa e p + (min (p + 2 ^ 16) (base + size) - p)
      max g (gwctOf s 99 lo (hi - lo))) (s.ptc + 8)

/-- The publisher's die drops its own copies of the range that a publish changes (R151, R164). -/
def publishDie (s : State) (die vf base size : Nat) : State :=
  (rangePages base size).foldl (fun s p => match walk s vf (p % 2 ^ 64) with
    | .error _ => s
    | .ok e => dropCopies s die (leafPa e (max p base) / 128) ((leafPa e p + (min (p + 2 ^ 16) (base + size) - p) - 1) / 128)) s

/-- A publish covers the complete requests of saved teams too, which end at the restore (R324, R327). -/
def publishSaved (s : State) (v : ViewRef) (g : Nat) : State :=
  let covered := fun (r : CopyReq) => if r.view == some v then { r with phase := .published, gwct := max r.gwct g } else r
  let saved := fun (x : SavedTeam) => { x with publishes := x.publishes.map covered }
  { s with
    creds := s.creds.map (fun x => if x.outcome == some .complete then { x with copy := covered x.copy } else x)
    tenants := tabMap (fun _ V => { V with saved := V.saved.map saved }) s.tenants }

/-- A publish (R185): a dirty view's bit inverts; the bytes of the requests that it covers are counted (R188). -/
def publishView (s : State) (v : ViewRef) : State :=
  match getView s v with
  | none => s
  | some x =>
    let rs := publishing s v
    let g := match v with
      | .scratch _ _ => 0
      | .global vf b => if !x.dirty then 0 else match (getTenant s vf).gviews.find? (fun k => k.base == b) with
        | some k => publishGwct s vf k.base k.size
        | none => 0
    let s := match v with
      | .global vf b => if !x.dirty then s else match (getTenant s vf).gviews.find? (fun k => k.base == b) with
        | some k => rs.foldl (fun s r => publishDie s (dieOf r.1) vf k.base k.size) s
        | none => s
      | .scratch _ _ => s
    let s := rs.foldl (fun s r =>
      let s := updCopy s r.1 r.2.id (fun r => { r with phase := .published, gwct := max r.gwct g })
      if r.2.kind == .publ then s else settleBytes s r.2) s
    let s := x.unpub.foldl (fun s b => takeBytes s b.1 b.2.1 b.2.2) (publishSaved s v g)
    let s := updView s v (fun x => { x with bit := x.bit != x.dirty, dirty := false, unpub := [], deferred := false })
    match v with
    | .global vf b => match (getTenant s vf).gviews.find? (fun k => k.base == b) with
      | some k => if x.dirty then touchWaits s (fun w va _ => w == vf && k.base ≤ va && va < k.base + k.size) else s
      | none => s
    | .scratch _ _ => s

/-- The bytes that a view's end takes from barriers, in a cycle in which one of them has had an arrival (R266). -/
def viewLate (s : State) (v : ViewRef) (rs : List CopyReq) : Bool :=
  rs.any (bvLate s) || (((getView s v).getD {}).unpub).any (fun b => arrivedNow s b.1 b.2.1)

/-- A publish of a view is due: no request is in flight into it and one is asked for. -/
def publishDue (s : State) (v : ViewRef) : Bool :=
  match getView s v with
  | none => false
  | some x => x.count == 0 && !(publishing s v).isEmpty && !viewLate s v ((publishing s v).map Prod.snd)

/-- PUBLISH (R185): once no request is in flight into the view and a publish is asked for. -/
def execPublish (view : ViewRef) (s : State) : Result :=
  if publishDue s view then .next (publishView s view) else .next s

/-- By the end of a cycle the publishes of a core's requests that are due in it are performed, and the requests that are complete end,
so that what waits for them proceeds in the cycle after (R182, R185). -/
def endCopies (s : State) (core : Nat) : State :=
  let s := (getCore s core).copyQ.foldl (fun s r => match r.view with
    | some v => if publishDue s v then publishView s v else s
    | none => s) s
  ((getCore s core).copyQ.filter (fun r => copyFinished s core r && !bvLate s r)).foldl (fun s r => completeCopy s core r) s

/-! ## Collectives (R196) -/

/-- The CREDs of a tenant on a group whose instances have not ended: those in queues, and those of saved teams. -/
def credReqs (s : State) (vf group : Nat) : List (Nat × CopyReq) :=
  s.cores.flatMap (fun c => (c.2.copyQ.filter (fun r => r.kind == .cred && r.vf == vf && r.remote == group &&
    underWay r)).map (fun r => (c.1, r))) ++
  (s.creds.filter (fun x => x.copy.vf == vf && x.copy.remote == group && x.outcome.isNone)).map (fun x => (x.core, x.copy))

/-- The instance in flight: the CRED issued first; the others of its group wait, while the firmware has it too. -/
def oldestCred (s : State) (vf group : Nat) : Option (Nat × CopyReq) :=
  (credReqs s vf group).foldl (fun (b : Option (Nat × CopyReq)) x => match b with
    | none => some x
    | some y => if x.2.id < y.2.id then some x else some y) none

/-- The end of a saved team's CRED: its view and its barrier follow at once, as for any other request, and its token waits for the
restore, as does an auto-publish (R185, R188, R327). -/
def endSaved (s : State) (r : CopyReq) (st : TokState) : State :=
  let r' := if st == .complete then { r with phase := .landed, counted := destTotal r } else r
  let s := { s with creds :=
    if (anyTeam s r.team).isNone then s.creds.filter (fun x => x.copy.id != r.id)
    else s.creds.map (fun x => if x.copy.id = r.id then { x with copy := r', outcome := some st } else x) }
  match st, r.view with
  | .complete, some v => updView s v (fun x =>
      { x with dirty := true, count := x.count - 1, deferred := x.deferred || r.ap
               unpub := match r.bv with
                 | some b => x.unpub ++ [(r.team, b, destTotal r)]
                 | none => x.unpub })
  | _, _ => leaveCopy s r

/-- The end of a CRED (R196). -/
def endCred (s : State) (core : Nat) (r : CopyReq) (st : TokState) (go : State → State) : State :=
  if s.creds.any (fun x => x.copy.id == r.id) then endSaved s r st
  else if st == .complete then go s
  else if st == .failed then failCopy s core r .resourceKind 0 false
  else endCopy (leaveCopy s r) core r st

/-- The exact sum of one value over the members (R196). -/
def credSum (lg : Bool) (vs : List Val) : Nat :=
  if lg then
    let xs := vs.map (fun v => sxNat 64 v.toNat)
    let sum := xs.foldl (fun a b => a + b) 0
    if xs.any (fun x => x == -(2 ^ 63)) || sum < -(2 ^ 63 - 1) || 2 ^ 63 - 1 < sum then 2 ^ 63 else (sum % 2 ^ 64).toNat
  else (vs.foldl (fun a v => a + v.toNat) 0) % 2 ^ 128

/-- A CRED's buffer meets a fault: the firmware takes it over, and a saved team's fails, with the code, the address and the fault
record of R187 (R327). -/
def credFault (s : State) (core : Nat) (r : CopyReq) (c : TrapCode) (a : Nat) : State :=
  if s.creds.any (fun x => x.copy.id == r.id) then
    let s := match anyTeam s r.team with
      | some T => teamRecord s T 5 (trapNum c) 0 a
      | none => s
    endCred s core { r with fault := some (c, a) } .failed id
  else completeTok (updCopy s core r.id (fun q => { q with phase := .slow, fault := some (c, a) })) r.team r.unit r.sb r.id .slow

/-- A CRED's result stands in its buffer: its bytes are counted unless a publish is to count them (R188). -/
def credLanded (s : State) (core : Nat) (r : CopyReq) (g : Nat) : State :=
  let s := match r.view with
    | some v => updView s v (fun x => { x with dirty := true })
    | none => s
  let s := if r.sh then s else settleBytes s r
  landedAll (updCopy s core r.id (fun q => { q with gwct := g, counted := if r.sh then q.counted else destTotal r })) core { r with gwct := g }

/-- What a CRED reads sets the access bits of its units (R304). -/
def credTouch (s : State) (core : Nat) (r : CopyReq) (T : Option Team) : State :=
  match T with
  | none => s
  | some T => (List.range r.count).foldl (fun s i =>
      let (s, x) := checkAccess s core r.vf ((r.res.base + r.ofs + credWidth r * i) % 2 ^ 64) (credWidth r) .rd false
      match x with
      | .ok ps => touchPieces s T ps
      | .error _ => s) s

/-- CRED_INSTANCE_COMPLETE (R196): every member has contributed. Members that name different counts or kinds make
it fail. -/
def execCredInstanceComplete (vf group kind count : Nat) (contributions : List (List Val)) (s : State) : Result :=
  match oldestCred s vf group with
  | none => .next s
  | some (core, r) =>
    if priorStores s r || copyBlocked s core r || r.phase != .running || !scaleOut s || bvLate s r then .next s
    else if count != r.count || (kind == 1) != r.lg || contributions.any (fun c => c.length != count) then
      .next (endCred s core r .failed id)
    else match credValues s core r with
      | .error .device => .refused .deviceRegister
      | .error .moving => .next s
      | .error (.fault c a) => .next (credFault s core r c a)
      | .ok own =>
        let T := anyTeam s r.team
        let s := credTouch s core r T
        let sums := (List.range count).map (fun i => credSum r.lg (own.getD i 0 :: contributions.map (fun c => c.getD i 0)))
        match credWrite s core r T sums with
        | .error .device => .refused .deviceRegister
        | .error .moving => .next s
        | .error (.fault c a) => .next (credFault s core r c a)
        | .ok (s, g) => .next (endCred s core { r with gwct := g } .complete (fun s => credLanded s core r g))

/-- CRED_WITHDRAWN (R196): a peer member's tenant was reset. -/
def execCredWithdrawn (vf group : Nat) (s : State) : Result :=
  match oldestCred s vf group with
  | none => .next s
  | some (core, r) => if bvLate s r then .next s else .next (endCred s core r .withdrawn id)

end Sys2Proof.Machine
end

