-- ==== Sys2Proof/Machine/CopyFam.lean ====
section
/-! DEFINITION. The copy instructions at issue (R178 to R197) and the header prefetch (R44, R64). -/

namespace Sys2Proof.Machine

/-! ## Checks at issue (R180, R189) -/

/-- A fault found at issue: its code, source and sr.trapinfo. -/
structure IssueFault where
  code : TrapCode
  src : TrapSource
  info : Nat

/-- The order of R177 among the faults of one lane. -/
def trapRank : TrapCode → Nat
  | .align => 0
  | .xlateNotMapped => 1
  | .xlatePerm => 2
  | .resourceKind => 3
  | .dataPoison => 4
  | _ => 5

/-- The fault that is reported (R177). -/
def firstOf (l : List IssueFault) : Option IssueFault :=
  l.foldl (fun (b : Option IssueFault) f => match b with
    | none => some f
    | some g => if trapRank f.code < trapRank g.code then some f else some g) none

/-- A fault if a condition holds. -/
def faultIf (b : Bool) (code : TrapCode) (src : TrapSource) (info : Nat) : List IssueFault :=
  if b then [⟨code, src, info⟩] else []

/-- A value that must be a multiple of 16 (R189). -/
def align16 (src : TrapSource) (v : Nat) : List IssueFault := faultIf (v % 16 != 0) .align src v

/-- A window range (R140). -/
def inWindow (T : Team) (off n : Nat) : List IssueFault := faultIf (T.spBytes < off + n) .xlateNotMapped .scratchpad off

/-- The fault of an entry that cannot be read (R287). -/
def entryFault (f : ResFault) : IssueFault := ⟨f.1, if f.1 == .resourceKind then .engine else .globalMem, f.2⟩

/-- The window range of an SP = 1 resource (R378). -/
def resInWindow (T : Team) (r : CopyReq) : List IssueFault :=
  let b := resBounds r
  faultIf (r.res.sp && b.1 < b.2 && T.spBytes < r.res.base + b.2) .xlateNotMapped .scratchpad (r.res.base + b.1)

/-- The view of a shadowed request (R184). -/
def shView (s : State) (i : Iss) (r : CopyReq) : Option (State × ViewRef) :=
  if loadsSp r then (viewHolding i.T r.sp (spLen r)).map (fun k => (s, .scratch i.t k))
  else if r.res.sp then
    let b := resBounds (startCopy s i.T r)
    (viewHolding i.T (r.res.base + b.1) (b.2 - b.1)).map (fun k => (s, .scratch i.t k))
  else if r.res.size < (resBounds (startCopy s i.T r)).2 then none
  else entryView true s i.T.vf i.t i.T r.ridx r.res

/-- The barrier of BV and NB (R188, R189). -/
def copyBv (p : FmtE) : Option Nat := if modeBit p 2 then some (p.aux8.extractLsb' 4 4).toNat else none

/-- SUBF (R189). -/
def subF (p : FmtE) : Nat := (p.aux8.extractLsb' 0 4).toNat

/-- A request as its instruction names it, its operands still to be filled in. -/
def newCopy (i : Iss) (c : Ctl) (p : FmtE) (kind : CopyKind) (e : ResEntry) : CopyReq :=
  { id := 0, vf := i.T.vf, team := i.t, unit := i.u, kind := kind, sb := sbOf c, ap := modeBit p 4, sh := modeBit p 3,
    bv := copyBv p, res := e, ridx := p.ridx.toNat }

/-! ## Acceptance (R178, R179, R181) -/

/-- The engine takes a request: an identifier, the promise and an entry of the queue; the view counts it. -/
def enqueueCopy (s : State) (core : Nat) (r : CopyReq) : State × CopyReq :=
  let (s, id) := freshId s
  let (s, k) := freshFree s
  let r := { r with id := id, issued := s.ptc, promise := diePtc s (dieOf core) + Config.freeTime k }
  let s := updCore s core (fun c => { c with copyQ := c.copyQ ++ [r] })
  let s := match r.view with
    | some v => if r.sh then updView s v (fun x => { x with count := x.count + 1 }) else s
    | none => s
  (s, r)

/-- The token of an accepted request is pending with its promise. -/
def pendCopyTok (s : State) (r : CopyReq) : State :=
  match r.sb with
  | some b => updUnit s r.team r.unit (fun w => setTok w b { state := .pending, copy := true, promise := r.promise, req := r.id })
  | none => s

/-- A copy instruction issues with its request. -/
def acceptCopy (s : State) (i : Iss) (o : Op) (c : Ctl) (p : FmtE) (r : CopyReq) : State × CopyReq :=
  let s := advance s i o c (.e p) 0
  let (s, r) := enqueueCopy s i.T.core r
  (updFlight (pendCopyTok s r) i.t i.u (fun f => { f with copies := f.copies ++ [r.id] }), r)

/-- A copy instruction at its turn: the leader's operands, or none; a full queue holds it (R178, R179). -/
def atCopy (o : Op) (c : Ctl) (p : FmtE) (s : State) (k : Iss → Nat → Opnds → Result) : Result :=
  atTurn o c (.e p) s (fun i =>
    if acquireHeld s i then .next s
    else match leader (allOpnds i o c (.e p)) with
      | none => .next (finishNone s i o c (.e p))
      | some (l, x) => if 32 ≤ (getCore s i.T.core).copyQ.length then .next (setWaitKind s i .queue) else k i l x)

/-- A request whose faults are known: it traps, or it finds its view and is accepted. -/
def issueCopy (s : State) (i : Iss) (l : Nat) (o : Op) (c : Ctl) (p : FmtE) (r : CopyReq) (fs : List IssueFault) : Result :=
  let view := if r.sh then shView s i r else none
  match firstOf (fs ++ faultIf (r.sh && view.isNone) .resourceKind .engine r.ridx) with
  | some f => .next (trapHere s i l f.code f.src f.info)
  | none => match view with
    | some (s, v) => .next (acceptCopy s i o c p { r with view := some v }).1
    | none => .next (acceptCopy s i o c p r).1

/-- The entry of a copy, checked with the instruction's own conditions. -/
def withEntry (s : State) (i : Iss) (l : Nat) (o : Op) (c : Ctl) (p : FmtE) (pre : List IssueFault)
    (k : ResEntry → CopyReq × List IssueFault) : Result :=
  match readEntry s i.T p.ridx.toNat with
  | .error e => match firstOf (pre ++ [entryFault e]) with
    | some f => .next (trapHere s i l f.code f.src f.info)
    | none => .next s
  | .ok e => issueCopy s i l o c p (k e).1 (pre ++ (k e).2)

/-! ## CPYT, CPYB, CPYG and CPYS (R190 to R192) -/

/-- The four s32 coordinates of CPYT. -/
def coordsOf (v : Val) : List Int := (List.range 4).map (fun d => sxNat 32 (v.toNat / 2 ^ (32 * d)))

/-- A tensor that CPYT, CPYG and CPYS accept. -/
def tensorOk (e : ResEntry) : Bool := e.kind == .tensor && (List.range e.rank).all (fun d => strideAt e d % e.esize == 0)

/-- CPYT of either kind. -/
def execCpyt (o : Op) (kind : CopyKind) (c : Ctl) (p : FmtE) (s : State) : Result :=
  atCopy o c p s (fun i l x =>
    let off := x.r.toNat % 2 ^ 32
    withEntry s i l o c p (align16 .scratchpad off) (fun e =>
      let r := { newCopy i c p kind e with coords := coordsOf x.l, sp := off }
      if !tensorOk e then (r, faultIf true .resourceKind .engine r.ridx)
      else (r, inWindow i.T off (spLen r) ++ resInWindow i.T r)))

/-- CPYT.ld (R190). -/
def execCpytLd (c : Ctl) (p : FmtE) (s : State) : Result := execCpyt .cpytLd .tileLd c p s
/-- CPYT.st (R190). -/
def execCpytSt (c : Ctl) (p : FmtE) (s : State) : Result := execCpyt .cpytSt .tileSt c p s

/-- CPYB of either kind. -/
def execCpyb (o : Op) (kind : CopyKind) (c : Ctl) (p : FmtE) (s : State) : Result :=
  atCopy o c p s (fun i l x =>
    let ofs := x.l.toNat % 2 ^ 64
    let off := x.r.toNat % 2 ^ 32
    let n := p.imm32.toNat
    withEntry s i l o c p (align16 .globalMem ofs ++ align16 .scratchpad off ++ align16 .engine n ++ inWindow i.T off n) (fun e =>
      let r := { newCopy i c p kind e with ofs := ofs, sp := off, count := n }
      if e.kind != .buffer && e.kind != .tensor then (r, faultIf true .resourceKind .engine r.ridx)
      else (r, resInWindow i.T r)))

/-- CPYB.ld (R191). -/
def execCpybLd (c : Ctl) (p : FmtE) (s : State) : Result := execCpyb .cpybLd .bufLd c p s
/-- CPYB.st (R191). -/
def execCpybSt (c : Ctl) (p : FmtE) (s : State) : Result := execCpyb .cpybSt .bufSt c p s

/-- The window bytes of the rows that a list names in an SP = 1 resource (R378). -/
def rowsInWindow (T : Team) (r : CopyReq) : List IssueFault :=
  let js := (r.list.getD []).filter (fun j => j < dimAt r.res 1)
  let row := min (boxAt r.res 0) (dimAt r.res 0) * r.res.esize
  match js.find? (fun j => row != 0 && T.spBytes < r.res.base + j * strideAt r.res 1 + row) with
  | some j => faultIf true .xlateNotMapped .scratchpad (r.res.base + j * strideAt r.res 1)
  | none => []

/-- CPYG and CPYS: rows named by a list in the window. The rows of an SP = 1 resource are checked by the list as it
stands at issue (log 41). -/
def execRows (o : Op) (kind : CopyKind) (c : Ctl) (p : FmtE) (s : State) : Result :=
  atCopy o c p s (fun i l x =>
    let list := x.l.toNat % 2 ^ 32
    let off := x.r.toNat % 2 ^ 32
    let n := p.imm32.toNat % 2 ^ 12 + 1
    withEntry s i l o c p (align16 .scratchpad list ++ align16 .scratchpad off ++ inWindow i.T list (4 * n)) (fun e =>
      let r := { newCopy i c p kind e with row := list, sp := off, count := n }
      if !tensorOk e || e.rank < 2 then (r, faultIf true .resourceKind .engine r.ridx)
      else
        (r, inWindow i.T off (spLen r) ++ (if e.sp then rowsInWindow i.T (startCopy s i.T r) else []))))

/-- CPYG (R192). -/
def execCpyg (c : Ctl) (p : FmtE) (s : State) : Result := execRows .cpyg .gather c p s
/-- CPYS (R192). -/
def execCpys (c : Ctl) (p : FmtE) (s : State) : Result := execRows .cpys .scatter c p s

/-! ## CPYACC (R193) -/

/-- CPYACC of either kind: the team must hold the engine (R208). -/
def execCpyacc (o : Op) (kind : CopyKind) (c : Ctl) (p : FmtE) (s : State) : Result :=
  atCopy o c p s (fun i l x =>
    let off := x.l.toNat % 2 ^ 32
    let row := p.imm32.toNat % 2 ^ 9
    let n := p.imm32.toNat / 2 ^ 16 % 2 ^ 9 + 1
    let m := (getCore s i.T.core).mat
    let r := { newCopy i c p kind {} with sp := off, row := row, count := n }
    if m.holder != some i.t then .next (trapHere s i l .engineRole .engine (i.f.hdr.hcnt + i.f.idx))
    else issueCopy s i l o c p r
      (align16 .scratchpad off ++ inWindow i.T off (512 * n) ++ faultIf (512 < row + n) .accRange .engine row ++
       faultIf (m.chains.any (fun k => chainTouches k row n)) .chainOrder .engine row))

/-- CPYACC.in (R193). -/
def execCpyaccIn (c : Ctl) (p : FmtE) (s : State) : Result := execCpyacc .cpyaccIn .accIn c p s
/-- CPYACC.out (R193). -/
def execCpyaccOut (c : Ctl) (p : FmtE) (s : State) : Result := execCpyacc .cpyaccOut .accOut c p s

/-! ## PUBL and CPYCAN (R194) -/

/-- The view that PUBL and CPYCAN name, or the fault; PUBL makes a missing record (R184). -/
def namedView (make : Bool) (s : State) (i : Iss) (p : FmtE) : Except IssueFault (State × ViewRef) :=
  match readEntry s i.T p.ridx.toNat with
  | .error e => .error (entryFault e)
  | .ok e => match entryView make s i.T.vf i.t i.T p.ridx.toNat e with
    | some r => .ok r
    | none => .error ⟨.resourceKind, .engine, p.ridx.toNat⟩

/-- PUBL (R194): a clean view completes at once. What TOKQ then reads as P is not said: the token is set as one that no engine
completes, and P reads 0 (log 47, DESIGN CHOICE). -/
def execPubl (c : Ctl) (p : FmtE) (s : State) : Result :=
  atCopy .publ c p s (fun i l _ =>
    match namedView true s i p with
    | .error f => .next (trapHere s i l f.code f.src f.info)
    | .ok (s', v) =>
      let x := (getView s v).getD {}
      if x.count == 0 && !x.dirty then .next (finishNone s i .publ c (.e p))
      else .next (acceptCopy s' i .publ c p { newCopy i c p .publ {} with view := some v }).1)

/-- The requests of saved teams into a view are cancelled: a CRED in flight, and an auto-publish that was put off to a restore and
that no publish has covered since; their tokens are Cancelled (R186). -/
def cancelSaved (s : State) (v : ViewRef) : State :=
  let mine := fun (x : CredInst) => x.copy.view == some v && x.outcome.isNone
  let late := fun (r : CopyReq) => r.view == some v && r.ap && r.phase != .published
  let n := (s.creds.filter mine).length
  let s := (s.creds.filter mine).foldl (fun s x => settleBytes s x.copy) s
  let tok := fun (ids : List Nat) (k : SbTok) =>
    if ids.contains k.req && k.deferred == some v then { k with deferred := none, state := .cancelled } else k
  let team := fun (ids : List Nat) (T : Team) =>
    { T with units := tabMap (fun _ w => { w with toks := tabMapD {} (fun _ k => tok ids k) w.toks }) T.units }
  let saved := fun (x : SavedTeam) =>
    { x with publishes := x.publishes.filter (fun r => !late r)
             team := team ((x.publishes.filter late).map CopyReq.id) x.team }
  let s := { s with
    creds := s.creds.map (fun x =>
      if mine x || (x.outcome == some .complete && late x.copy) then { x with outcome := some .cancelled } else x)
    tenants := tabMap (fun _ V => { V with saved := V.saved.map saved }) s.tenants }
  updView s v (fun x => { x with count := x.count - n })

/-- The requests into a view that have neither been published nor completed, with their cores. -/
def cancelled (s : State) (v : ViewRef) : List (Nat × CopyReq) :=
  s.cores.flatMap (fun c => (c.2.copyQ.filter (fun r => r.view == some v && r.kind != .publ &&
    r.phase != .published && !copyFinished s c.1 r)).map (fun r => (c.1, r)))

/-- Every request into a view that has not been published is cancelled; one that has completed keeps its token (R186).
The bytes of a request without auto-publish that has landed are among the view's unpublished ones. -/
def cancelView (s : State) (v : ViewRef) : State :=
  let rs := cancelled s v
  let s := rs.foldl (fun s r =>
    endCopy (if r.2.phase == .landed && !r.2.ap then s else settleBytes s r.2) r.1 r.2 .cancelled) s
  let s := (((getView s v).getD {}).unpub).foldl (fun s b => takeBytes s b.1 b.2.1 b.2.2) s
  let s := cancelSaved s v
  updView s v (fun x =>
    { x with count := x.count - (rs.filter (fun r => underWay r.2)).length, dirty := false, unpub := [], deferred := false })

/-- CPYCAN (R194): it takes effect as it issues, and its own request, which has nothing more to land, ends as any other (R178,
R181). -/
def execCpycan (c : Ctl) (p : FmtE) (s : State) : Result :=
  atCopy .cpycan c p s (fun i l _ =>
    match namedView false s i p with
    | .error f => .next (trapHere s i l f.code f.src f.info)
    | .ok (_, v) =>
      if viewLate s v ((cancelled s v).map Prod.snd) then .next s
      else .next (acceptCopy (cancelView s v) i .cpycan c p { newCopy i c p .cancel {} with phase := .landed }).1)

/-! ## CPYR, CRED and TOKQ (R195 to R197) -/

/-- CPYR of either kind. -/
def execCpyr (o : Op) (kind : CopyKind) (c : Ctl) (p : FmtE) (s : State) : Result :=
  atCopy o c p s (fun i l x =>
    let ofs := x.l.toNat % 2 ^ 64
    let rem := x.r.toNat % 2 ^ 64
    let tgt := p.imm32.toNat / 2 ^ 27
    let n := p.imm32.toNat % 2 ^ 27
    withEntry s i l o c p (align16 .globalMem ofs ++ align16 .engine n ++
        faultIf (tgt < 12 && !(getTenant s i.T.vf).cfg.ports.contains tgt) .xlatePerm .engine rem) (fun e =>
      let r := { newCopy i c p kind e with ofs := ofs, remote := rem, target := tgt, count := n }
      (r, faultIf (e.kind != .buffer || e.sp) .resourceKind .engine r.ridx)))

/-- CPYR.get (R195). -/
def execCpyrGet (c : Ctl) (p : FmtE) (s : State) : Result := execCpyr .cpyrGet .get c p s
/-- CPYR.put (R195). -/
def execCpyrPut (c : Ctl) (p : FmtE) (s : State) : Result := execCpyr .cpyrPut .put c p s

/-- The view of a shadowed CRED, whose range is that of its values. -/
def credView (s : State) (i : Iss) (r : CopyReq) : Option (State × ViewRef) :=
  if r.ofs + r.count * credWidth r ≤ r.res.size then entryView true s i.T.vf i.t i.T r.ridx r.res else none

/-- CRED (R196). A group that is not installed refuses it: its token is Failed. -/
def execCred (c : Ctl) (p : FmtE) (s : State) : Result :=
  atCopy .cred c p s (fun i l x =>
    let ofs := x.l.toNat % 2 ^ 64
    let g := p.imm32.toNat / 2 ^ 24
    let idx := p.ridx.toNat
    match readEntry s i.T idx with
    | .error e => match firstOf (align16 .globalMem ofs ++ [entryFault e]) with
      | some f => .next (trapHere s i l f.code f.src f.info)
      | none => .next s
    | .ok e =>
      let r := { newCopy i c p .cred e with ofs := ofs, remote := g, count := p.imm32.toNat % 2 ^ 24 + 1, lg := subF p % 2 == 1 }
      let view := if r.sh then credView s i r else none
      match firstOf (align16 .globalMem ofs ++ faultIf (e.kind != .buffer || e.sp || (r.sh && view.isNone)) .resourceKind .engine idx) with
      | some f => .next (trapHere s i l f.code f.src f.info)
      | none =>
        let installed := (getTenant s i.T.vf).cfg.groups.any (fun x => x.1 == g)
        if !installed && bvLate s r then .next s else
        let (s, r) := match view with
          | some (s, v) => acceptCopy s i .cred c p { r with view := some v }
          | none => acceptCopy s i .cred c p r
        if installed then .next s
        else .next (failCopy s i.T.core r .resourceKind 0 false))

/-- The state code of R181. -/
def tokCode : TokState → Nat
  | .complete => 0
  | .pending => 1
  | .slow => 2
  | .late => 3
  | .failed => 4
  | .withdrawn => 5
  | .cancelled => 6

/-- What TOKQ reads (R197). -/
def tokqVal (now : Nat) (k : SbTok) : Val :=
  if k.copy then
    BitVec.ofNat 128 (k.promise % 2 ^ 64 + 2 ^ 64 * tokCode k.state +
      2 ^ 67 * (if k.state == .failed then (k.code.map trapNum).getD 0 else 0))
  else BitVec.ofNat 128 (if tokBusy now k then 2 ^ 64 else 0)

/-- TOKQ (R197). -/
def execTokq (c : Ctl) (p : FmtE) (s : State) : Result :=
  execAlu1 .tokq c (.e p) (fun i => tokqVal (issPtc s i) (getTok i.w (subF p % 8))) s

/-! ## The header prefetch (R44, R64) -/

/-- HEADER_PREFETCH_ISSUE (R64): one CPYB.ld for the fragment once its token is free and the queue has room; then
the reads are delivered. A Failed token traps at the entry. -/
def execHeaderPrefetchIssue (t u : Nat) (s : State) : Result :=
  match getTeam s t with
  | none => .next s
  | some T => match tabFind T.units u with
    | none => .next s
    | some w => match w.flight with
      | none => .next s
      | some f => match f.hdr.prefetch with
        | none => .next s
        | some p =>
          if f.entered || entryReads w f (getSplit w f.frag).mask (viewsOf f.words) f.hdr.reads.zipIdx != .go ||
              readPending w (getSplit w f.frag).mask (kregRead p) 1 then .next s
          else match prefetchCheck s T w f p with
            | .error tr => .next (abortTrap s t u tr)
            | .ok e =>
              let k := getTok w p.token
              if k.state == .failed then
                .next (abortTrap (updUnit s t u (fun w => setTok w p.token { k with state := .complete })) t u (tokTrap f p.token k false))
              else if prefetchWait s T w p != .none then .next (entryRest s t u)
              else
                let kv := (getK w p.kreg).toNat
                let r : CopyReq :=
                  { id := 0, vf := T.vf, team := t, unit := u, kind := .bufLd, sb := some p.token, ap := false, sh := false,
                    bv := none, res := e, ridx := p.ridx, ofs := prefetchOfs e kv, sp := kv / 2 ^ 32, count := p.bytes }
                let (s, r) := enqueueCopy (touchEntry s T p.ridx) T.core r
                .next (deliverReads (pendCopyTok s r) t u)

/-! ## Missed promises (R182) -/

/-- MISSED_PROMISE (R182): at P a pending copy token that the unit's block waits on, in a WAIT field or a TOKW, and whose request is
not complete, makes it trap. -/
def execMissedPromise (t u sb : Nat) (s : State) : Result :=
  match getTeam s t with
  | none => .next s
  | some T => match tabFind T.units u with
    | none => .next s
    | some w => match w.flight with
      | none => .next s
      | some f =>
        let now := diePtc s (dieOf T.core)
        let waiting := match f.wait with
          | some (.tokens m force) => if force then 0 else m
          | some _ => 0
          | none => match f.words[f.idx]? with
            | some x => if f.waitKind == .token then (ctlOf x).wait.toNat else 0
            | none => 0
        if f.entered && f.fault.isNone && firstWait now (reqDone s T.core) w waiting == some (sb, .late) then .next (tokRaise s t u f.idx sb true)
        else .next s

end Sys2Proof.Machine
end

