-- ==== Sys2Proof/Machine/Lg.lean ====
section
/-! DEFINITION. The logarithmic formats of R115 to R121 and the instructions of R137 on one lane. -/

namespace Sys2Proof.Machine

/-- The tables of R117. -/
def lgT4 : List Nat := [32768, 38968, 46341, 55109]
def lgT8 : List Nat := [32768, 35734, 38968, 42495, 46341, 50535, 55109, 60098]

/-- lgterm(s, c, q) (R62, R63). -/
def lgterm (s : Bool) (c : Int) (q : Nat) : Int :=
  let t := (if q = 4 then lgT4 else lgT8).getD (c % q).toNat 0
  let sh := c / q + 8
  signed s (if 0 ≤ sh then t * 2 ^ sh.toNat else t / 2 ^ (-sh).toNat)

/-- An LG element. -/
inductive LgV where
  | zero | nar
  | val (s : Bool) (c : Int)
  deriving DecidableEq, Repr

/-- The quantum of a type (R115). -/
def lgQ (ty : Ty) : Nat := if ty == .lg6 then 4 else 8

/-- Bits of a code with its sign: 6 for lg6, 8 for lg8. -/
def lgBits (q : Nat) : Nat := if q = 4 then 6 else 8

/-- The element of a byte (R115). -/
def lgDecode (q b : Nat) : LgV :=
  let w := lgBits q
  let s := b.testBit (w - 1)
  let c := sxNat (w - 1) b
  if c = -(2 ^ (w - 2) : Int) then (if s then .nar else .zero) else .val s c

/-- The byte of a sign and a code. -/
def lgByte (q : Nat) (s : Bool) (c : Int) : Nat :=
  let w := lgBits q
  (c % 2 ^ (w - 1)).toNat + (if s then 2 ^ (w - 1) else 0)

/-- lgenc of a value (R121): the byte and the flags. For a nonzero finite x, `t2` is the floor of 2 t. -/
def lgenc (v : FV) (q : Nat) (E : Int) : Nat × Flags :=
  let cmax : Int := if q = 4 then 15 else 63
  let zc := -cmax - 1
  match v with
  | .nan _ => (lgByte q true zc, 0)
  | .inf s => (lgByte q s cmax, flLSAT ||| flNX)
  | .fin s m e =>
    if m = 0 then (lgByte q false zc, 0)
    else
      let pow := m = 2 ^ Nat.log2 m
      let t2 : Int := Nat.log2 (m ^ (2 * q)) + 2 * q * e - 2 * q * E
      if 2 * cmax < t2 || (t2 = 2 * cmax && !pow) then (lgByte q s cmax, flLSAT ||| flNX)
      else if t2 < -2 * cmax - 1 then (lgByte q false zc, flUF ||| flNX)
      else
        let c := (t2 + 1) / 2
        if c = zc then (lgByte q false zc, flUF ||| flNX)
        else (lgByte q s c, if pow then 0 else flNX)

/-- A product: NaR, zero, or sign, code and quantum. -/
inductive LgP where
  | zero | nar
  | val (s : Bool) (c : Int) (q : Nat)
  deriving DecidableEq, Repr

/-- The product of two elements (R118). -/
def lgProd (q : Nat) (a b : LgV) : LgP :=
  match a, b with
  | .nar, _ => .nar
  | _, .nar => .nar
  | .zero, _ => .zero
  | _, .zero => .zero
  | .val s c, .val t d => .val (s != t) (c + d) q

/-- The product word of a product (R118, R119). -/
def lgWord (q : Nat) (p : LgP) : Nat :=
  let pq := if q = 8 then 2 ^ 28 else 0
  match p with
  | .nar => 2 ^ 29 + pq
  | .zero => 2 ^ 30 + pq
  | .val s c _ => (if s then 2 ^ 31 else 0) + pq + (c % 2 ^ 16).toNat

/-- A product word as read (R119). -/
def lgUnword (x : Nat) : LgP :=
  if x.testBit 29 then .nar
  else if x.testBit 30 then .zero
  else .val (x.testBit 31) (sxNat 16 x) (if x.testBit 28 then 8 else 4)

/-- The term of a product: `none` is NaR. -/
def lgTerm : LgP → Option Int
  | .nar => none
  | .zero => some 0
  | .val s c q => some (lgterm s c q)

/-- The NaR sum and the valid range (R120). -/
def lgNarSum : Nat := 2 ^ 63
def lgSumMax : Int := 2 ^ 63 - 1

/-- An LG sum with terms added exactly (R120, R137). -/
def lgAccum (acc : Nat) (terms : List (Option Int)) : Val × Flags :=
  let a := sxNat 64 acc
  if a = -(2 ^ 63) || terms.contains none then (BitVec.ofNat 128 lgNarSum, 0)
  else
    let s := terms.foldl (fun x t => x + t.getD 0) a
    if s < -lgSumMax || lgSumMax < s then (BitVec.ofNat 128 lgNarSum, flLOV) else (wrapI 64 s, 0)

def byteAt (x : Nat) (i : Nat) : Nat := x / 256 ^ i % 256

def fLgmul (ty : Ty) (l r : Nat) : Val :=
  let q := lgQ ty
  BitVec.ofNat 128 (lgWord q (lgProd q (lgDecode q (byteAt l 0)) (lgDecode q (byteAt r 0))))

def fLgcvt (ty : Ty) (slot : FmtSlot) (l : Nat) : FRes :=
  let r := lgenc (fIn fmt32 slot.flush l) (lgQ ty) slot.sexp
  (BitVec.ofNat 128 r.1, r.2)

def fLgdot (ty : Ty) (l r p : Nat) : FRes :=
  if ty == .b32 then lgAccum p [lgTerm (lgUnword l)]
  else
    let q := lgQ ty
    lgAccum p ((List.range 4).map (fun i =>
      lgTerm (lgProd q (lgDecode q (byteAt l i)) (lgDecode q (byteAt r i)))))

/-- An exact integer times 2^(E − 23), rounded to f32 (R137). Scales at which every value overflows, or is far below the least
subnormal, count as one. -/
def lgRound (m : RMode) (fz : Bool) (x : Int) (E : Int) : FRes :=
  fOut fmt32 m fz (.fin (x < 0) x.natAbs (satI (-(Nat.log2 x.natAbs : Int) - 400) 400 (E - 23)), 0)

def fLgexp (ty : Ty) (m : RMode) (s1 s2 : FmtSlot) (l : Nat) : FRes :=
  let nan : FRes := (BitVec.ofNat 128 (fNaN fmt32), 0)
  let fz := s1.flush
  match ty with
  | .b32 => match lgTerm (lgUnword l) with
    | none => nan
    | some t => lgRound m fz t (s1.sexp + s2.sexp)
  | .s64 =>
    let x := sxNat 64 l
    if x = -(2 ^ 63) then nan else lgRound m fz x (s1.sexp + s2.sexp)
  | _ =>
    let q := lgQ ty
    match lgDecode q (byteAt l 0) with
    | .nar => nan
    | .zero => (0, 0)
    | .val s c => lgRound m fz (lgterm s c q) s1.sexp

end Sys2Proof.Machine
end

