-- ==== Sys2Proof/Machine/Grid.lean ====
section
/-! DEFINITION. The grid in time (R229 to R245, R251 to R255) and the stream engines (R246 to R250, R263). -/

namespace Sys2Proof.Machine

/-! ## Generations and states (R254, R255, R259, R260) -/

/-- Something of a generation is in flight in the engines. -/
def inFlightOf (now : Nat) (g : Grid) (n : Nat) (tiles : Bool) : Bool :=
  g.engs.any (fun e => (outGroups now e.2).any (fun x => x.gen == n && (x.byTile || !tiles)))

/-- The active configuration is done (R254). -/
def gridDone (now : Nat) (g : Grid) : Bool :=
  match g.active with
  | none => false
  | some i => i.regions.all (fun d => (getCtx g d).completed) && !inFlightOf now g i.gen true

/-- Some region of the active configuration runs. -/
def gridRuns (g : Grid) : Bool := !g.halted && !g.stopped && (activeRegs g).any (fun d => (getCtx g d).running)

/-- The framed regions that run (R243). -/
def framed (g : Grid) : List RegDesc := (activeRegs g).filter (fun d => d.frame != 0 && (getCtx g d).running)

/-- Frame hold (R245). -/
def frameHold (g : Grid) : Bool :=
  gridRuns g && !(framed g).isEmpty && (framed g).all (fun d => (getCtx g d).hold) && g.budget == some 0

/-- The configuration state of R260. -/
def gridCst (now : Nat) (g : Grid) : Nat :=
  match g.active with
  | none => 0
  | some i =>
    if g.stopped then (if inFlightOf now g i.gen false then 3 else 6)
    else if g.stopping || g.stopFrame then 3
    else if g.halted then 4
    else if gridDone now g then 5
    else if !i.regions.any (fun d => (getCtx g d).begun) then 0
    else if frameHold g then 2
    else 1

/-- The region state of R260. -/
def regState (g : Grid) (d : RegDesc) : Nat :=
  let c := getCtx g d
  if g.stopped then 5
  else if g.halted then 2
  else if !c.begun then 5
  else if c.completed then 4
  else if c.hold then 3
  else if c.freezing then 2
  else 1

/-- What GQRY returns (R260). -/
def gqryVal (now : Nat) (g : Grid) (region : Nat) : Val :=
  let r := match (activeRegs g)[region]? with
    | some d => 2 ^ 40 * ((getCtx g d).iter.toNat % 2 ^ 24) + 2 ^ 36 * regState g d
    | none => 0
  let stg := match g.staging with
    | some x => x.gen
    | none => (g.staged.map GridImage.gen).getD 0
  BitVec.ofNat 128 (r + 2 ^ 32 * gridCst now g + 2 ^ 16 * stg + (g.active.map GridImage.gen).getD 0)

/-- The condition of a GWAIT (R259). -/
def gwaitHolds (now : Nat) (g : Grid) (cond n : Nat) : Bool :=
  match genState g n with
  | .none => cond ≤ 1
  | .old => true
  | .discarded => cond ≤ 2
  | .staged => cond == 1
  | .active => match cond with
    | 0 => g.halted || g.stopped || gridDone now g
    | 1 => frameHold g || !gridRuns g
    | 2 => true
    | _ => g.halted || g.stopped

/-! ## Tokens of the Bridle -/

/-- A token of the grid's holder completes. -/
def gridTok (s : State) (core : Nat) (sb : Option Nat) (id : Nat) : State :=
  match (getGrid s core).holder with
  | some t => completeTok s t 16 sb id .complete
  | none => s

/-! ## Regions (R242, R243) -/

/-- begin(g) (R243). -/
def beginRegion (d : RegDesc) (c : LoopCtx) : LoopCtx :=
  let nb := if c.remaining = 0 then 0 else 1
  let valid := BitVec.ofNat 16 ((c.valid.toNat * 2 + nb) % 2 ^ (d.stg + 1))
  { c with remaining := c.remaining - nb, iter := c.iter + BitVec.ofNat 32 nb, valid := valid, slot := 0, begun := true
           running := valid != 0, completed := valid == 0, freezing := false }

/-- A region starts: at GRUN, and at each restart (R242). -/
def startRegion (g : Grid) (i : GridImage) (k : Nat) (d : RegDesc) : Grid :=
  let g := setCtx g d (beginRegion d { (getCtx g d) with fc := 0 })
  { g with tiles := (i.tiles.zipIdx).foldl (fun t x =>
      if x.1.region = k then let y := tabGet {} t x.2; tabSet {} t x.2 { y with held := y.prev } else t) g.tiles }

/-! ## Configuration commands (R258, R261, R262) -/

/-- GRUN applied. -/
def applyRun (g : Grid) : Grid :=
  match g.active with
  | none => g
  | some i =>
    if gridRuns g || g.halted || g.stopped || g.stopping then g
    else (i.regions.zipIdx).foldl (fun g x => if (getCtx g x.1).running then g else startRegion g i x.2 x.1) g

/-- GFRAME applied (R261). -/
def applyFrame (g : Grid) (add unl : Bool) (n : Nat) : Grid :=
  { g with budget := if unl then none else if add then g.budget.map (fun b => min 65535 (b + n)) else some n }

/-- LCTX applied (R262): a completed region with iterations left starts again, and a context that no region uses is unaffected. -/
def applyLctx (g : Grid) (add : Bool) (key count : Nat) : Grid :=
  match g.active.bind (fun i => ((i.regions.zipIdx).find? (fun x => ctxKey x.1 == key)).map (fun x => (i, x))) with
  | none => g
  | some (i, d, k) =>
    let c := getCtx g d
    let c := { c with remaining := if add then min (2 ^ 32 - 1) (c.remaining + count) else count }
    let g := setCtx g d c
    if c.completed && c.remaining != 0 && !g.stopped then startRegion g i k d else g

/-- A command applied to the active configuration. -/
def applyCmd (g : Grid) : GridCmdKind → Grid
  | .run => applyRun g
  | .frame add unl n => applyFrame g add unl n
  | .lctx add key n => applyLctx g add key n

/-! ## Engines close, commands drop (R254, R258) -/

/-- The engines opened under the generations of a predicate close, and their queued commands are dropped. -/
def dropEngines (s : State) (core : Nat) (p : Nat → Bool) : State :=
  let engs := (getGrid s core).engs
  let s := engs.foldl (fun s e => (e.2.cmds.filter (fun c => p c.gen)).foldl (fun s c => gridTok s core c.sb c.id) s) s
  engs.foldl (fun s e => updEng s core e.1 (fun x =>
    let gone := match x.opened with
      | some o => p o.gen
      | none => false
    { x with
      opened := if gone then none else x.opened
      faulted := x.faulted && !gone
      dropped := x.dropped + (x.cmds.filter (fun c => p c.gen)).length
      cmds := x.cmds.filter (fun c => !p c.gen) })) s

/-- The active configuration stops (R258). -/
def stopNow (s : State) (core : Nat) : State :=
  match (getGrid s core).active with
  | none => s
  | some i =>
    let s := updGrid s core (fun g => { g with stopped := true, halted := false, halting := false, stopping := false, stopFrame := false })
    dropEngines s core (fun n => n == i.gen)

/-- The staged image is discarded: its tokens and those of the commands that wait for it complete (R255, R258). -/
def discardStaged (s : State) (core : Nat) : State :=
  let g := getGrid s core
  let s := match g.staging with
    | some x => gridTok s core x.sb x.id
    | none => s
  let s := match g.staged with
    | some x => gridTok s core x.sb x.id
    | none => s
  let s := g.cmds.foldl (fun s c => gridTok s core c.sb c.id) s
  updGrid s core (fun g => { g with staging := none, staged := none, cmds := [] })

/-- A GSTOP's configuration has stopped with nothing in flight any more (R258). -/
def stopSettled (now : Nat) (g : Grid) (n : Nat) : Bool :=
  !(genState g n == .active && !g.stopped) && !inFlightOf now g n false

/-- GSTOPs whose configuration has settled complete. -/
def settleStops (s : State) (core : Nat) : State :=
  let g := getGrid s core
  let l := g.stops.filter (fun x => stopSettled s.ptc g x.1)
  if l.isEmpty then s
  else updGrid (l.foldl (fun s x => gridTok s core x.2.2 x.2.1) s) core (fun g =>
    { g with stops := g.stops.filter (fun x => !l.contains x) })

/-- The end of a cycle: halts and stops take effect (R256, R258), and finished stores leave their engines. -/
def endGridCycle (s : State) (core : Nat) : State :=
  let s := updGrid s core (fun g => if g.halting then { g with halting := false, halted := !g.stopped } else g)
  let s := if (getGrid s core).stopping then stopNow s core else s
  let s := updGrid s core (fun g => { g with engs := tabMapD {} (fun _ e => { e with groups := outGroups (s.ptc + 1) e }) g.engs })
  settleStops s core

/-! ## Requests enter an engine (R248 to R251) -/

/-- An element of a group: its lane, byte offset, value and bytes; with W = 8 two halves of four bytes. -/
structure Elem where
  lane : Nat
  ofs : Int
  n : Nat
  elem : Int
  deriving DecidableEq, Repr

/-- The elements of a group at byte offsets (R248): those beyond the resource are left out. -/
def groupElems (w size : Nat) (offs : List Int) : List Elem :=
  (offs.zipIdx).flatMap (fun x =>
    if x.1 < 0 || (size : Int) < x.1 + w then []
    else if w = 8 then [⟨2 * x.2, x.1, 4, x.1⟩, ⟨2 * x.2 + 1, x.1 + 4, 4, x.1⟩]
    else [⟨x.2, x.1, w, x.1⟩])

/-- The byte offsets that a tile's indices name (R248). -/
def indexOffs (w : Nat) (idx : Group) : List Int :=
  if w = 8 then [(idx.getD 0 0).toNat * 8, (idx.getD 2 0).toNat * 8]
  else idx.map (fun i => ((i.toNat * w : Nat) : Int))

/-- The window offset of an element of an SP = 1 resource. -/
def elemOff (e : ResEntry) (x : Elem) : Nat := ((e.base : Int) + x.ofs).toNat

/-- The banks that elements of the window touch (R140, R251). -/
def elemBanks (T : Team) (e : ResEntry) (l : List Elem) : List Nat :=
  (l.flatMap (fun x => (List.range x.n).map (fun i => spView T (elemOff e x + i) / 4 % 32))).eraseDups

/-- The grant that covers a bank in a slot of a region. -/
def grantAt (i : GridImage) (region slot bank : Nat) : Option Grant :=
  let ii := ((i.regions[region]?).map RegDesc.ii).getD 1
  i.grants.find? (fun g => g.region == region && g.bank == bank && (grantSlots g ii).contains slot)

/-- The bank uses of this cycle. -/
def banksNow (now : Nat) (g : Grid) : List (Nat × Nat × Nat × Nat) := g.bankUse.filter (fun x => x.1 == now)

/-- The first bank conflict of a request (R251): what sr.trapinfo holds (R253). -/
def bankConflict (now : Nat) (g : Grid) (i : GridImage) (eng region slot : Nat) (rmw : Bool) (banks : List Nat) : Option Nat :=
  (List.range 32).findSome? (fun b =>
    if !banks.contains b then none
    else
      let info := b + 2 ^ 8 * eng + 2 ^ 16 * region + 2 ^ 20 * slot
      match grantAt i region slot b with
      | none => some (info + 2 ^ 15)
      | some k =>
        if k.eng != eng || (rmw && !k.rmw) then some (info + 2 ^ 12 * k.eng)
        else match (banksNow now g).find? (fun x => x.2.1 == b && x.2.2.1 < 8 && x.2.2.1 != eng && x.2.2.2 != region) with
          | some x => some (b + 2 ^ 8 * x.2.2.1 + 2 ^ 12 * eng + 2 ^ 16 * region + 2 ^ 20 * slot)
          | none => none)

/-- The uses of a request's banks recorded: of an atomic one for the three cycles of its window (R251). -/
def useBanks (s : State) (core eng region : Nat) (rmw : Bool) (banks : List Nat) : State :=
  let window := if rmw then [0, 1, 2] else [0]
  let new := banks.flatMap (fun b => window.map (fun k => (s.ptc + k, b, eng, region)))
  updGrid s core (fun g => { g with bankUse := g.bankUse.filter (fun x => s.ptc ≤ x.1) ++ new })

/-- The fault of an element in the window (R250); no element covers a granule, so one that meets poison faults. -/
def spElemFault (s : State) (T : Team) (e : ResEntry) (l : List Elem) : Option (TrapCode × Int) :=
  l.findSome? (fun x =>
    if T.spBytes < elemOff e x + x.n then some (.xlateNotMapped, x.elem)
    else if spPoisoned s T (elemOff e x) x.n then some (.dataPoison, x.elem)
    else none)

/-- A stream's store never writes a hidden half (R250): of the upper half of a scratchpad view it writes no byte (log 45). -/
def spByteHidden (T : Team) (off : Nat) : Bool :=
  match spViewAt T off with
  | some v => v.base + v.size ≤ off
  | none => false

/-- Nor does it of the alternate backing of a global view whose bit is 0 (R250, log 45). -/
def glByteHidden (s : State) (vf va : Nat) : Bool :=
  (getTenant s vf).gviews.any (fun g => !g.st.bit && g.alt ≤ va && va < g.alt + g.size)

/-- What a store writes of a piece: its runs of bytes that are not hidden; an atomic is whole or not at all (log 45). -/
def visibleRuns (s : State) (vf : Nat) (rmw : Bool) (p : Piece) : List Piece :=
  let hid := (List.range p.n).map (fun i => glByteHidden s vf ((p.va + i) % 2 ^ 64))
  if !hid.contains true then [p]
  else if rmw then []
  else ((List.range p.n).filter (fun i => !hid.getD i true)).map (fun i =>
    { p with off := p.off + i, n := 1, va := (p.va + i) % 2 ^ 64, pa := p.pa + i })

/-- Every element of a group translated: its pieces, or the first fault. -/
def glElems (s : State) (core vf : Nat) (e : ResEntry) (need : Need) (l : List Elem) :
    State × Except (TrapCode × Int) (List (Elem × List Piece)) :=
  l.foldl (fun (acc : State × Except (TrapCode × Int) (List (Elem × List Piece))) x =>
    match acc.2 with
    | .error _ => acc
    | .ok ps =>
      let va := (((e.base : Int) + x.ofs) % 2 ^ 64).toNat
      let r := if need == .atom then checkAccess acc.1 core vf va x.n need true else checkOne acc.1 core vf va x.n x.n need
      match r.2 with
      | .error c => (r.1, .error (c, x.elem))
      | .ok p => (r.1, .ok (ps ++ [(x, p)]))) (s, .ok [])

/-- A group takes its place in the engine, and its command's count moves. -/
def pushGroup (s : State) (core e : Nat) (x : StreamGroup) : State :=
  updEng s core e (fun y =>
    { y with
      groups := y.groups ++ [x]
      opened := y.opened.map (fun o => { o with entered := o.entered + 1 })
      cmds := y.cmds.map (fun k => if k.id = x.cmd then { k with left := k.left - 1, done := k.done + 1 } else k) })

/-- A token lane's value as a store of `n` bytes takes it. -/
def laneBytes (v : Word) (n : Nat) : Nat := v.toNat % 256 ^ n

/-- A load group of the window: its elements are read in this cycle (R249, R250). -/
def spLoadGroup (s : State) (T : Team) (t : Nat) (e : ResEntry) (l : List Elem) : Group :=
  (List.range 4).map (fun k => match l.find? (fun x => x.lane == k) with
    | some x => BitVec.ofNat 32 (spNum s t gridUnit T (elemOff e x) x.n)
    | none => 0)

/-- A store group of the window (R250, R251): plain, or each lane's addition as one event. -/
def spStoreGroup (s : State) (core t : Nat) (T : Team) (e : ResEntry) (rmw : Bool) (data : Group) (l : List Elem) : State :=
  l.foldl (fun s x =>
    let addr := fun i => spAddr T (elemOff e x + i)
    let old := (List.range x.n).foldl (fun v i => v + 256 ^ i * (tabGet 0 (getCore s core).scratch (addr i)).toNat) 0
    let d := (data.getD x.lane 0).toNat
    ((numBytes x.n (if rmw then old + d else d)).zipIdx).foldl (fun s b =>
      if spByteHidden T (elemOff e x + b.2) then s else spStoreAt s true t gridUnit core (fun _ => addr b.2) [b.1]) s) s

/-- The event of an element with several pieces (R248): the identifier of the first. -/
def elemEvent (s : State) (ps : List Piece) : Option Nat := if ps.length ≤ 1 then none else some s.nextId

/-- The home reads of a load group. -/
def glLoads (s : State) (T : Team) (t core eng id : Nat) (ps : List (Elem × List Piece)) : State × Nat :=
  ps.foldl (fun a x =>
    let ev := elemEvent a.1 x.2
    x.2.foldl (fun (a : State × Nat) p =>
      let (s, i) := freshId a.1
      let r : LoadReq := { id := i, vf := T.vf, team := t, unit := gridUnit, die := noUnit, core := core, issued := s.ptc
                           idx := eng, lane := 4 * id + x.1.lane, off := p.off, va := p.va, pa := p.pa, n := p.n, cached := false
                           event := ev }
      ({ s with loads := s.loads ++ [r] }, a.2 + 1)) a) (s, 0)

/-- The home writes of a store group, plain or atomic: their identifiers. -/
def glStores (s : State) (T : Team) (t core eng : Nat) (rmw : Bool) (data : Group) (ps : List (Elem × List Piece)) : State × List Nat :=
  ps.foldl (fun a x =>
    let ev := elemEvent a.1 x.2
    x.2.foldl (fun (a : State × List Nat) p =>
      let (s, i) := freshId a.1
      let v := laneBytes (data.getD x.1.lane 0) x.1.n / 256 ^ p.off
      let r : MemReq := { id := i, vf := T.vf, team := t, unit := gridUnit, die := dieOf core, core := core, t := s.ptc
                          kind := if rmw then .atom .add .n32 else .store, va := p.va, pa := p.pa, event := ev
                          order := some (eng, 0), n := p.n, data := BitVec.ofNat 128 (v % 256 ^ p.n), cmp := 0, phase := .forwarded }
      ({ s with reqs := s.reqs ++ [r] }, a.2 ++ [i])) a) (s, [])

/-- A group enters its engine: the checks of its elements, then its accesses; false where it faulted (R250). -/
def enterGroup (s : State) (core e : Nat) (o : StreamOpen) (cmd : Nat) (byTile : Bool) (offs : List Int) (data : Group)
    (rmw : Bool) : State × Bool :=
  match (getGrid s core).holder with
  | none => (s, false)
  | some t => match getTeam s t with
    | none => (s, false)
    | some T =>
      let l := groupElems o.w o.res.size offs
      let (s, id) := freshId s
      let x : StreamGroup := { id := id, cmd := cmd, gen := o.gen, byTile := byTile, store := o.store, sp := o.res.sp, rpl := o.rpl
                               data := [0, 0, 0, 0], missing := 0, reqs := [], entered := s.ptc }
      if o.res.sp then
        match spElemFault s T o.res l with
        | some (c, k) => (streamFault s core e c k.toNat, false)
        | none =>
          if o.store then
            (pushGroup (spStoreGroup s core t T o.res rmw data l) core e x, true)
          else (pushGroup s core e { x with data := spLoadGroup s T t o.res l }, true)
      else
        match glElems s core T.vf o.res (if rmw then .atom else if o.store then .rw else .rd) l with
        | (s, .error (c, k)) => (streamFault s core e c k.toNat, false)
        | (s, .ok ps) =>
          let ps := if o.store then ps.map (fun y => (y.1, y.2.flatMap (visibleRuns s T.vf rmw))) else ps
          let s := ps.foldl (fun s p => touchPieces s T p.2) s
          if o.store then
            let r := glStores s T t core e rmw data ps
            (pushGroup r.1 core e { x with reqs := r.2 }, true)
          else
            let r := glLoads s T t core e id ps
            (pushGroup r.1 core e { x with missing := r.2 }, true)

/-! ## Operations (R238 to R241) -/

/-- The neighbour that a source code 16 to 19 names, and whether it lies behind an edge port (R229, R230). -/
def neighbour (pcnt t code : Nat) : Option (Nat × Bool) :=
  let k := t / 16
  let col := t % 4
  let row := t % 16 / 4
  match code with
  | 16 => if row = 0 then none else some (t - 4, false)
  | 17 => if col < 3 then some (t + 1, false) else if k + 1 < pcnt then some (t + 13, true) else none
  | 18 => if row = 3 then none else some (t + 4, false)
  | _ => if 0 < col then some (t - 1, false) else if 0 < k then some (t - 13, true) else none

def zeroGroup : Group := [0, 0, 0, 0]

/-- A register of a tile: g n is physical entry (n + RB) mod 16. -/
def tileReg (x : TileSt) (n : Nat) : Group :=
  (List.range 4).map (fun l => tabGet 0 x.regs (4 * ((n + x.rb) % 16) + l))

def setTileReg (x : TileSt) (n : Nat) (v : Group) : TileSt :=
  { x with regs := (List.range 4).foldl (fun t l => tabSet 0 t (4 * ((n + x.rb) % 16) + l) (v.getD l 0)) x.regs }

/-- A source's value at the start of the cycle (R238). -/
def srcVal (now : Nat) (g : Grid) (i : GridImage) (t code : Nat) : Group :=
  let x := getTile g t
  if code < 16 then tileReg x code
  else if code < 20 then
    match neighbour i.pcnt t code with
    | none => zeroGroup
    | some (n, edge) =>
      let y := getTile g n
      if !edge then y.latch
      else if (i.tiles[n]?).map TileRec.region == (i.tiles[t]?).map TileRec.region then y.held else y.prev
  else if code < 24 then (inHead now x (code - 20)).getD zeroGroup
  else if code < 28 then List.replicate 4 (((i.tiles[t]?).bind (fun r => r.consts[code - 24]?)).getD 0)
  else if code = 28 then zeroGroup
  else [0, 1, 2, 3]

/-- A word as an exact value under FLUSH. -/
def gf (flush : Bool) (x : Word) : FV := fIn fmt32 flush x.toNat

def gRound (flush : Bool) (v : FV) : Word := BitVec.ofNat 32 (fRound fmt32 .rne flush v).1

/-- Float arithmetic of the grid (R241). -/
def gFloat (flush : Bool) (op sub : Nat) (a b d : Word) : Word :=
  match op with
  | 1 => gRound flush (fvAdd false (gf flush a) (gf flush b)).1
  | 2 => gRound flush (fvAdd false (gf flush a) (fvNeg (gf flush b))).1
  | 3 => gRound flush (fvMul (gf flush a) (gf flush b)).1
  | 4 => gRound flush (fvAdd false (fvMul (gf flush a) (gf flush b)).1 (gf flush d)).1
  | _ => BitVec.ofNat 32 (fFminmax fmt32 flush (sub < 4) a.toNat b.toNat).1.toNat

/-- Integer arithmetic of the grid (R241). -/
def gInt (sgn : Bool) (op sub : Nat) (a b d : Word) : Word :=
  match op with
  | 1 => a + b
  | 2 => a - b
  | 3 => a * b
  | 4 => a * b + d
  | _ =>
    let lt := if sgn then a.slt b else a.ult b
    if sub < 4 then (if lt then b else a) else (if lt then a else b)

/-- GLOG (R240). -/
def gLog (sub : Nat) (a b : Word) : Word :=
  let k := b.toNat % 32
  match sub with
  | 0 => a &&& b
  | 1 => a ||| b
  | 2 => a ^^^ b
  | 3 => a <<< k
  | 4 => a >>> k
  | 5 => a.sshiftRight k
  | _ => a &&& ~~~b

/-- GCVT (R240, R241). -/
def gCvt (slot : FmtSlot) (sub : Nat) (a : Word) : Word :=
  let f := slot.flush
  match sub with
  | 0 => BitVec.ofNat 32 (fFtoi fmt32 .s32 .rne f a.toNat).1.toNat
  | 1 => gRound f (.fin (a.toInt < 0) a.toInt.natAbs 0)
  | 2 => BitVec.ofNat 32 (lgenc (gf f a) 4 slot.sexp).1
  | 3 => BitVec.ofNat 32 (lgenc (gf f a) 8 slot.sexp).1
  | _ =>
    let q := if sub = 4 then 4 else 8
    match lgDecode q (a.toNat % 256) with
    | .nar => BitVec.ofNat 32 (fNaN fmt32)
    | .zero => 0
    | .val s c => let k := lgterm s c q; gRound f (.fin (k < 0) k.natAbs (slot.sexp - 23))

/-- GLGM (R240). -/
def gLgm (sub : Nat) (a b : Word) : Word :=
  let q := if 4 ≤ sub then 8 else 4
  let k := sub % 4
  BitVec.ofNat 32 (lgWord q (lgProd q (lgDecode q (byteAt a.toNat k)) (lgDecode q (byteAt b.toNat k))))

/-- One lane of an operation that is no request, no accumulation and no read-out. -/
def gLane (slot : FmtSlot) (o : GOp) (n : BitVec 32) (a b d : Word) : Word :=
  if 1 ≤ o.op && o.op ≤ 5 then
    (if o.sub % 4 = 0 then gFloat slot.flush o.op o.sub a b d else gInt (o.sub % 4 == 1) o.op o.sub a b d)
  else match o.op with
    | 6 => gLog o.sub a b
    | 7 => if d != 0 then a else b
    | 8 => gCvt slot o.sub a
    | 9 => gLgm o.sub a b
    | 10 => a + b * n
    | _ => a

/-- A term of GACC; nothing is NaR (R241). -/
def gTerm (slot : FmtSlot) (kind : Nat) (a : Word) : Option Int :=
  match kind with
  | 0 => some a.toInt
  | 1 => lgTerm (lgUnword a.toNat)
  | _ => match gf slot.flush a with
    | .fin s m e =>
      if m = 0 then some 0
      else if slot.wexp + 62 ≤ (Nat.log2 m : Int) + e then none
      else some (signed s (rndShift .rne s m (slot.wexp - e)).1)
    | _ => none

/-- GACC on the accumulators (R241). -/
def gAcc (slot : FmtSlot) (o : GOp) (a : Group) (w : List Word64) : List Word64 :=
  let terms := a.map (gTerm slot (o.sub % 4))
  let add := fun (x : Word64) (ts : List (Option Int)) => BitVec.ofNat 64 (lgAccum x.toNat ts).1.toNat
  if 4 ≤ o.sub then w.mapIdx (fun k x => if k = o.dst % 4 then add x terms else x)
  else w.mapIdx (fun k x => add x [terms.getD k (some 0)])

/-- GRDO on an accumulator (R241). -/
def gRdo (slot : FmtSlot) (form : Nat) (w : Word64) : Word :=
  match form with
  | 0 => BitVec.ofNat 32 w.toNat
  | 1 => BitVec.ofNat 32 (w.toNat / 2 ^ 32)
  | _ =>
    if w.toNat = lgNarSum then BitVec.ofNat 32 (fNaN fmt32)
    else gRound slot.flush (.fin (w.toInt < 0) w.toInt.natAbs (if form = 2 then 2 * slot.sexp - 23 else slot.wexp))

/-- A result written to DST and the latch at the end of the cycle (R239). -/
def gWrite (s : State) (core t dst : Nat) (v : Group) : State :=
  updGrid s core (fun g => updTile g t (fun x => { (setTileReg x dst v) with latch := v }))

/-- A request of a tile (R240, R249 to R251): it enters its engine, or raises a trap and does not. -/
def fireReq (s : State) (core : Nat) (g0 : Grid) (i : GridImage) (k slot t : Nat) (o : GOp) (a b : Group) : State :=
  let e := o.sub % 8
  let store := o.op == 12
  let rmw := store && 8 ≤ o.sub
  match mayEnterEng s.ptc g0 e t store, (getEng g0 e).opened, (getEng g0 e).cmds.head? with
  | .go, some op, some c =>
    let offs := indexOffs op.w a
    let T := ((getGrid s core).holder).bind (getTeam s)
    let banks := match T with
      | some T => if op.res.sp then elemBanks T op.res (groupElems op.w op.res.size offs) else []
      | none => []
    match bankConflict s.ptc (getGrid s core) i e k slot rmw banks with
    | some info => gridHalt s core .bankConflict info
    | none =>
      let r := enterGroup (useBanks s core e k rmw banks) core e op c.id true offs b rmw
      if r.2 then gWrite r.1 core t o.dst (if store then a else List.replicate 4 (BitVec.ofNat 32 op.entered)) else r.1
  | _, _, _ => gridHalt s core .stream (streamInfo e 2 0 0)

/-- An operation fires (R239, R240): it reads the state at the start of the cycle, `g0`. -/
def fireOp (s : State) (core : Nat) (g0 : Grid) (i : GridImage) (k : Nat) (d : RegDesc) (t : Nat) (o : GOp) : State :=
  let x := getTile g0 t
  let a := srcVal s.ptc g0 i t o.a
  let b := srcVal s.ptc g0 i t o.b
  let c := getCtx g0 d
  let ins := (opReads o).filterMap (fun r => if 20 ≤ r && r < 24 then some (r - 20) else none)
  let s := if ins.isEmpty then s else updGrid s core (fun g => updTile g t (fun x => { x with readIns := (x.readIns ++ ins).eraseDups }))
  match o.op with
  | 0 => s
  | 11 | 12 => fireReq s core g0 i k c.slot t o a b
  | 13 => updGrid s core (fun g => updTile g t (fun y => { y with accs := gAcc i.slot o a y.accs }))
  | 14 =>
    let s := gWrite s core t o.dst (x.accs.map (gRdo i.slot (o.sub % 4)))
    if 4 ≤ o.sub then updGrid s core (fun g => updTile g t (fun y => { y with accs := [0, 0, 0, 0] })) else s
  | _ =>
    let n := c.iter - 1 - BitVec.ofNat 32 o.stage
    let dv := tileReg x o.dst
    gWrite s core t o.dst ((List.range 4).map (fun l => gLane i.slot o n (a.getD l 0) (b.getD l 0) (dv.getD l 0)))

/-! ## The cycle (R243) -/

/-- An interval boundary of a region. -/
def boundary (g : Grid) (i : GridImage) (k : Nat) (d : RegDesc) : Grid :=
  let g := { g with tiles := (i.tiles.zipIdx).foldl (fun t x =>
    if x.1.region != k || x.1.kind == .off then t
    else
      let y := tabGet {} t x.2
      tabSet {} t x.2 { y with ins := y.readIns.foldl (fun q n => tabSet [] q n ((tabGet [] q n).drop 1)) y.ins
                               readIns := [], rb := (y.rb + 15) % 16 }) g.tiles }
  let c := getCtx g d
  let c := if d.frame = 0 then c else { c with fc := c.fc + 1, hold := c.hold || c.fc + 1 == d.frame }
  setCtx g d (beginRegion d c)

/-- One region's part of a cycle: frozen, or it fires and moves on. -/
def regionCycle (core : Nat) (g0 : Grid) (i : GridImage) (s : State) (x : RegDesc × Nat) : State :=
  let d := x.1
  let k := x.2
  let c := getCtx g0 d
  if !c.running then s
  else
    let due := dueOps i k c
    let mark := fun (b fires : Bool) (s : State) => updGrid s core (fun g =>
      setCtx g d { (getCtx g d) with freezing := b, cur := c.slot, ranAt := if fires then s.ptc + 1 else (getCtx g d).ranAt })
    if c.hold then mark false false s
    else if due.any (fun y => opFreezes s.ptc g0 y.1 y.2) then bump (mark true false s) core 2 1
    else
      let s := if due.isEmpty then s else updGrid s core (fun g => { g with firedAt := s.ptc + 1 })
      let s := due.foldl (fun s y => fireOp s core g0 i k d y.1 y.2) (mark false true s)
      let s := updGrid s core (fun g => if c.slot + 1 < d.ii then setCtx g d { (getCtx g d) with slot := c.slot + 1 } else boundary g i k d)
      updGrid s core (fun g => { g with tiles := (i.tiles.zipIdx).foldl (fun t y =>
        if y.1.region = k then let z := tabGet {} t y.2; tabSet {} t y.2 { z with held := (getTile g0 y.2).latch } else t) g.tiles })

/-- The cinch wire (R243), and the stop that waits for it (R258). -/
def cinch (g : Grid) : Grid :=
  let h := framed g
  if h.isEmpty then (if g.stopFrame then { g with stopping := true } else g)
  else if h.all (fun d => (getCtx g d).hold) && g.budget != some 0 then
    if g.stopFrame then { g with stopping := true }
    else h.foldl (fun g d => setCtx g d { (getCtx g d) with hold := false, fc := 0 }) { g with budget := g.budget.map (fun b => b - 1) }
  else g

/-- A cycle of the grid of a core, once in each PTC cycle. -/
def gridCycle (s : State) (core : Nat) : State :=
  let g0 := getGrid s core
  match g0.active with
  | none => s
  | some i =>
    if s.ptc < g0.lastCycle || gridStalled s core then s
    else
      let s := updGrid s core (fun g => { g with lastCycle := s.ptc + 1 })
      if g0.halted || g0.stopped then s
      else
        let s := (i.regions.zipIdx).foldl (regionCycle core g0 i) s
        let s := updGrid s core (fun g => { g with tiles := (List.range i.tiles.length).foldl (fun t y =>
          let z := tabGet {} t y
          tabSet {} t y { z with prev := (getTile g0 y).latch }) g.tiles })
        updGrid s core cinch

/-- GRID_CYCLE (R243). -/
def execGridCycle (core : Nat) (s : State) : Result := .next (gridCycle s core)

/-- A command applied to the active configuration as it issues. The cinch wire of the cycle at hand still tests the old budget
(R261): the grid's part of the cycle comes first. -/
def applyActive (s : State) (core : Nat) (k : GridCmdKind) : State :=
  match k with
  | .frame _ _ _ => updGrid (gridCycle s core) core (fun g => applyCmd g k)
  | _ => updGrid s core (fun g => applyCmd g k)

/-! ## Replies and commands of the engines (R249, R252, R263) -/

/-- STREAM_REPLY_LAND (R249): the oldest load group of the engine lands in its reply input, or is discarded. -/
def execStreamReplyLand (core eng : Nat) (s : State) : Result :=
  let g := getGrid s core
  match (getEng g eng).groups.find? (fun x => !x.store) with
  | none => .next s
  | some x =>
    if x.missing != 0 || (x.sp && s.ptc < x.entered + 2) then .next s
    else
      let live := genLive g x.gen && !g.stopped
      let s' := updEng s core eng (fun e => { e with groups := e.groups.filter (fun y => y.id != x.id) })
      match x.rpl with
      | none => .next s'
      | some (t, n) =>
        if !live then .next s'
        else if 16 ≤ (tabGet [] (getTile g t).ins n).length then .next s
        else .next (updGrid s' core (fun g => updTile g t (fun y =>
          { y with ins := tabSet [] y.ins n (tabGet [] y.ins n ++ [(s.ptc + 1, x.data)]) })))

/-- The head command of an engine leaves its queue and its token completes. -/
def popCmd (s : State) (core eng : Nat) (c : StreamCmd) : State :=
  gridTok (updEng s core eng (fun e => { e with cmds := e.cmds.filter (fun k => k.id != c.id) })) core c.sb c.id

/-- R247: the engine cannot be opened. -/
def openFails (g : Grid) (eng : Nat) (req : Option Nat) (rpl : Option (Nat × Nat)) : Bool :=
  let tiles := (g.active.map GridImage.tiles).getD []
  (getEng g eng).opened.isSome ||
  (match req with
   | some t => (tiles[t]?).map TileRec.kind != some .ag
   | none => false) ||
  (match rpl with
   | some (t, n) => ((tiles[t]?).map TileRec.kind).getD .off == .off ||
      g.engs.any (fun e => match e.2.opened with
        | some o => o.rpl == some (t, n)
        | none => false)
   | none => false)

/-- STREAM_COMMAND_COMPLETE (R263): the head command of an engine opens it, finishes or closes it. -/
def execStreamCommandComplete (core eng : Nat) (s : State) : Result :=
  let g := getGrid s core
  match (getEng g eng).cmds.head? with
  | none => .next s
  | some c =>
    if genState g c.gen == .staged || gridStalled s core then .next s
    else if !genLive g c.gen then .next (popCmd s core eng c)
    else match c.kind with
      | .open store w res req rpl =>
        if openFails g eng req rpl then .next (gridHalt (popCmd s core eng c) core .stream (streamInfo eng 2 0 0))
        else
          let o : StreamOpen := { store := store, w := w, res := res, req := req, rpl := rpl, gen := c.gen }
          .next (popCmd (updEng s core eng (fun e => { e with opened := some o, faulted := false })) core eng c)
      | .close => .next (popCmd (updEng s core eng (fun e => { e with opened := none, faulted := false })) core eng c)
      | _ =>
        if c.left != 0 || (outGroups s.ptc (getEng g eng)).any (fun x => x.cmd == c.id) ||
            (c.gwct != 0 && diePtc s (dieOf core) ≤ c.gwct) then .next s
        else .next (popCmd s core eng c)

/-- The region and slot that an engine driven by STRMB uses in this cycle (R252). -/
def driveSlot (now : Nat) (g : Grid) (i : GridImage) (rpl : Nat) : Option (Nat × Nat) :=
  match i.tiles[rpl]? with
  | none => none
  | some t => match i.regions[t.region]? with
    | none => none
    | some d =>
      let c := getCtx g d
      if !c.running then none else some (t.region, if g.lastCycle = now + 1 then c.cur else c.slot)

/-- STRMB_GROUP_ISSUE (R252, R263): the next group of an STRMB at its engine's head. -/
def execStrmbGroupIssue (core eng : Nat) (s : State) : Result :=
  let g := getGrid s core
  let x := getEng g eng
  match x.cmds.head? with
  | none => .next s
  | some c => match c.kind with
    | .drive start stride =>
      if !genLive g c.gen || c.left = 0 || gridStalled s core then .next s
      else match x.opened with
        | none => .next (gridHalt (popCmd s core eng c) core .stream (streamInfo eng 2 0 0))
        | some o =>
          if o.store then .next (gridHalt (popCmd s core eng c) core .stream (streamInfo eng 3 0 0))
          else match o.rpl with
            | none => .next (gridHalt (popCmd s core eng c) core .stream (streamInfo eng 2 0 0))
            | some (t, _) =>
              if 64 ≤ (outGroups s.ptc x).length || x.groups.any (fun y => y.entered == s.ptc) || x.faulted then .next s
              else
                let per := if o.w = 8 then 2 else 4
                let offs := (List.range per).map (fun j => (start : Int) + ((c.done * per + j : Nat) : Int) * stride)
                if !o.res.sp then .next (enterGroup s core eng o c.id false offs zeroGroup false).1
                else match g.active, g.holder.bind (getTeam s) with
                  | some i, some T => match driveSlot s.ptc g i t with
                    | none => .next s
                    | some (k, slot) =>
                      let banks := elemBanks T o.res (groupElems o.w o.res.size offs)
                      if (bankConflict s.ptc g i eng k slot false banks).isSome ||
                          (banksNow s.ptc g).any (fun y => y.2.2.1 != eng && banks.contains y.2.1) then .next s
                      else .next (enterGroup (useBanks s core eng k false banks) core eng o c.id false offs zeroGroup false).1
                  | _, _ => .next s
    | _ => .next s

/-! ## Staging and activation (R236, R254) -/

/-- The read of an image sets the bits of its units (R304). -/
def touchImage (s : State) (T : Team) (x : Staging) : State :=
  if x.res.base % 16 != 0 then s else (rangePages x.res.base x.res.size).foldl (fun s p => touchVa s T p) s

/-- IMAGE_STAGING (R236): the staged image is read and checked; on failure it is discarded and GRID_CONFIG raised. -/
def execImageStaging (core : Nat) (s : State) : Result :=
  let g := getGrid s core
  match g.staging, g.holder.bind (getTeam s) with
  | some x, some T =>
    if gridStalled s core then .next s
    else match checkImage s T.vf T.pages.length x trapNum with
    | .ok i => .next (updGrid (touchImage s T x) core (fun g => { g with staging := none, staged := some i }))
    | .error info => .next (raiseBridle (discardStaged (touchImage s T x) core) core .gridConfig info)
  | _, _ => .next s

/-- CONFIG_ACTIVATION (R254): once the pages are idle the staged image becomes active; older engines close, older
commands are dropped, and the grid's state starts at zero; then the commands that waited apply (R255). -/
def execConfigActivation (core : Nat) (s : State) : Result :=
  let g := getGrid s core
  match g.staged with
  | none => .next s
  | some i =>
    if gridStalled s core || !(g.active.isNone || g.stopped || gridDone s.ptc g) then .next s
    else
      let s := updGrid s core (fun g =>
        { g with active := some i, staged := none, past := g.past ++ (g.active.map GridImage.gen).toList, halted := false
                 stopped := false, halting := false, stopping := false, stopFrame := false, budget := none
                 ctxs := [], tiles := [], cmds := [], lastCycle := s.ptc + 1 })
      let s := dropEngines s core (fun n => n != i.gen)
      let s := gridTok s core i.sb i.id
      .next (g.cmds.foldl (fun s c => gridTok (updGrid s core (fun g => applyCmd g c.kind)) core c.sb c.id) s)

end Sys2Proof.Machine
end

