-- ==== Sys2Proof/Machine/GridFam.lean ====
section
/-! DEFINITION. The grid and stream instructions of the Bridle (R228, R255, R257 to R263). -/

namespace Sys2Proof.Machine

/-- The issue check of every instruction of the chapter: the team has grid pages, and p0 is one of them (R257). -/
def pageFault (T : Team) (p0 : Nat) : List IssueFault := faultIf (T.pages.length ≤ p0) .gridConfig .engine p0

/-- An instruction of the grid at its turn: nothing where lane 0 does not fire (R228), a trap, or its effect. -/
def atGrid (o : Op) (c : Ctl) (p : FmtE) (p0 : Nat) (s : State) (k : Iss → Opnds → Result) : Result :=
  atTurn o c (.e p) s (fun i =>
    match leader (allOpnds i o c (.e p)) with
    | none => .next (finishNone s i o c (.e p))
    | some (_, x) => match firstOf (pageFault i.T p0) with
      | some f => .next (trapHere s i 0 f.code f.src f.info)
      | none => k i x)

/-- The instruction issues; its token is busy until the engine completes it. -/
def issueGrid (s : State) (i : Iss) (o : Op) (c : Ctl) (p : FmtE) : State × Nat :=
  let s := advance s i o c (.e p) 0
  let (s, id) := freshId s
  (match sbOf c with
   | some b => updUnit s i.t i.u (fun w => setTok w b { state := .pending, req := id })
   | none => s, id)

/-! ## Configurations (R254, R258) -/

/-- The generation after a generation. -/
def nextGen (n : Nat) : Nat := if n = 65535 then 1 else n + 1

/-- The resource of a grid instruction, of one of the kinds, with the page check (R257, R177). -/
def gridRes (s : State) (i : Iss) (p : FmtE) (p0 : Nat) (ok : ResKind → Bool) : Except IssueFault ResEntry :=
  match readEntry s i.T p.ridx.toNat with
  | .error e => .error ((firstOf (entryFault e :: pageFault i.T p0)).getD (entryFault e))
  | .ok e => match firstOf (faultIf (!ok e.kind) .resourceKind .engine p.ridx.toNat ++ pageFault i.T p0) with
    | some f => .error f
    | none => .ok e

/-- As `atGrid`, for an instruction that names a resource. -/
def atGridRes (o : Op) (c : Ctl) (p : FmtE) (p0 : Nat) (ok : ResKind → Bool) (s : State) (k : Iss → ResEntry → Result) : Result :=
  atTurn o c (.e p) s (fun i =>
    match leader (allOpnds i o c (.e p)) with
    | none => .next (finishNone s i o c (.e p))
    | some _ => match gridRes s i p p0 ok with
      | .error f => .next (trapHere s i 0 f.code f.src f.info)
      | .ok e => k i e)

/-- GCFG (R254, R258): the image is staged under the next generation; a staged image holds it at its turn. -/
def execGcfg (c : Ctl) (p : FmtE) (s : State) : Result :=
  let p0 := p.aux8.toNat % 4
  atGridRes .gcfg c p p0 (fun k => k == .gridimg) s (fun i e =>
    let g := getGrid s i.T.core
    if g.staging.isSome || g.staged.isSome then .next (setWaitKind s i .queue)
    else
      let n := nextGen g.gen
      let r := issueGrid s i .gcfg c p
      let x : Staging := { gen := n, res := e, p0 := p0, slot := issSlot i p.fs.toNat, id := r.2, sb := sbOf c }
      .next (updGrid r.1 i.T.core (fun g => { g with gen := n, staging := some x, past := g.past.filter (fun y => y != n) })))

/-- A command of the configuration unit (R255): applied at once to an active generation, kept for a staged one, and
nothing for a discarded one. -/
def execGridCmd (o : Op) (c : Ctl) (p : FmtE) (kind : Opnds → GridCmdKind) (s : State) : Result :=
  atGrid o c p 0 s (fun i x =>
    let g := getGrid s i.T.core
    match genState g g.gen with
    | .active => .next (applyActive (finishNone s i o c (.e p)) i.T.core (kind x))
    | .staged =>
      let r := issueGrid s i o c p
      let k : GridCmd := { id := r.2, gen := g.gen, kind := kind x, sb := sbOf c }
      .next (updGrid r.1 i.T.core (fun g => { g with cmds := g.cmds ++ [k] }))
    | _ => .next (finishNone s i o c (.e p)))

/-- GRUN (R258). -/
def execGrun (c : Ctl) (p : FmtE) (s : State) : Result := execGridCmd .grun c p (fun _ => .run) s

/-- GFRAME (R261). -/
def execGframe (c : Ctl) (p : FmtE) (s : State) : Result :=
  execGridCmd .gframe c p (fun _ => .frame (modeBit p 0) (modeBit p 1) (p.imm32.toNat % 2 ^ 16)) s

/-- LCTX (R262). -/
def execLctx (c : Ctl) (p : FmtE) (s : State) : Result :=
  execGridCmd .lctx c p (fun x => .lctx (modeBit p 0) (4 * (p.aux8.toNat % 4) + p.aux8.toNat / 4 % 4)
    (if modeBit p 1 then x.l.toNat % 2 ^ 32 else p.imm32.toNat)) s

/-- GSTOP on the grid: at the end of this cycle, or at the next release (R258). -/
def stopGrid (g : Grid) (frame : Bool) : Grid :=
  if g.active.isNone || g.stopped then g
  else if frame && gridRuns g && (activeRegs g).any (fun d => d.frame != 0) then { g with stopFrame := true }
  else { g with stopping := true }

/-- GSTOP (R255, R258): applied as it issues; its token completes when nothing of the configuration is in flight. -/
def execGstop (c : Ctl) (p : FmtE) (s : State) : Result :=
  atGrid .gstop c p 0 s (fun i _ =>
    let core := i.T.core
    let s := if modeBit p 1 then discardStaged s core else s
    match (getGrid s core).active with
    | none => .next (finishNone s i .gstop c (.e p))
    | some a =>
      let r := issueGrid s i .gstop c p
      .next (updGrid r.1 core (fun g => { (stopGrid g (modeBit p 0)) with stops := g.stops ++ [(a.gen, r.2, sbOf c)] })))

/-- GWAIT (R259): the block waits until the condition holds for the generation current at its issue. -/
def execGwait (c : Ctl) (p : FmtE) (s : State) : Result :=
  atGrid .gwait c p 0 s (fun i _ =>
    let g := getGrid s i.T.core
    let cond := p.aux8.toNat % 4
    if gwaitHolds s.ptc g cond g.gen then .next (finishNone s i .gwait c (.e p))
    else .next (updFlight (issueSlot s i .gwait c (.e p)) i.t i.u (fun f => { f with wait := some (.grid cond g.gen), waitKind := .gwait })))

/-- A query of the grid: its value in every firing lane. -/
def execGridQuery (o : Op) (c : Ctl) (p : FmtE) (f : Grid → Val) (s : State) : Result :=
  atTurn o c (.e p) s (fun i =>
    let ops := allOpnds i o c (.e p)
    match (leader ops).bind (fun _ => firstOf (pageFault i.T 0)) with
    | some k => .next (trapHere s i 0 k.code k.src k.info)
    | none =>
      let v := f (getGrid s i.T.core)
      .next (finish s i o c (.e p) (ops.map (fun x => x.map (fun _ => v))) (latency o c (.e p) i.u) 0))

/-- GQRY (R260). -/
def execGqry (c : Ctl) (p : FmtE) (s : State) : Result :=
  execGridQuery .gqry c p (fun g => gqryVal s.ptc g (p.aux8.toNat % 16)) s

/-! ## Stream commands (R246, R263) -/

/-- A command joins its engine's queue; a full queue holds it at its turn. -/
def queueCmd (s : State) (i : Iss) (o : Op) (c : Ctl) (p : FmtE) (kind : StreamCmdKind) (groups : Nat) : Result :=
  let core := i.T.core
  let g := getGrid s core
  if 16 ≤ (getEng g (engOf p)).cmds.length then .next (setWaitKind s i .queue)
  else
    let r := issueGrid s i o c p
    let k : StreamCmd := { id := r.2, gen := g.gen, kind := kind, sb := sbOf c, left := groups }
    .next (updEng r.1 core (engOf p) (fun x => { x with cmds := x.cmds ++ [k] }))

/-- STRMO (R247). -/
def execStrmo (c : Ctl) (p : FmtE) (s : State) : Result :=
  atGridRes .strmo c p 0 (fun k => k == .buffer || k == .tensor) s (fun i e =>
    let m := p.imm32.toNat
    let req := if m.testBit 15 then some (m % 64) else none
    let rpl := if m.testBit 14 then some (m / 64 % 64, m / 4096 % 4) else none
    queueCmd s i .strmo c p (.open (modeBit p 0) (2 ^ (p.mode.toNat / 2 % 4)) e req rpl) 0)

/-- STRMA (R263). -/
def execStrma (c : Ctl) (p : FmtE) (s : State) : Result :=
  atGrid .strma c p 0 s (fun i _ => queueCmd s i .strma c p .permits p.imm32.toNat)

/-- STRMB (R263): L holds the start offset and the stride. -/
def execStrmb (c : Ctl) (p : FmtE) (s : State) : Result :=
  atGrid .strmb c p 0 s (fun i x =>
    queueCmd s i .strmb c p (.drive (x.l.toNat % 2 ^ 32) (sxNat 32 (x.l.toNat / 2 ^ 32))) p.imm32.toNat)

/-- STRMC (R263). -/
def execStrmc (c : Ctl) (p : FmtE) (s : State) : Result :=
  atGrid .strmc c p 0 s (fun i _ => queueCmd s i .strmc c p .close 0)

/-- What STRMQ returns (R263). -/
def strmqVal (now : Nat) (x : StreamEng) : Val :=
  let h := x.cmds.head?
  let driven := match h with
    | some c => (match c.kind with
      | .permits => true
      | .drive _ _ => true
      | _ => false)
    | none => false
  let st := if x.faulted then 3 else if x.opened.isNone then 0
    else if driven then 2 else 1
  let left := match h with
    | some c => c.left + ((outGroups now x).filter (fun y => y.cmd == c.id)).length
    | none => 0
  BitVec.ofNat 128 (2 ^ 48 * ((h.map StreamCmd.gen).getD 0) + 2 ^ 40 * min 255 x.dropped + 2 ^ 37 * st +
    2 ^ 32 * x.cmds.length + left % 2 ^ 32)

/-- STRMQ (R263). -/
def execStrmq (c : Ctl) (p : FmtE) (s : State) : Result :=
  execGridQuery .strmq c p (fun g => strmqVal s.ptc (getEng g (engOf p))) s

end Sys2Proof.Machine
end

