-- ==== Sys2Proof/Machine/Sync.lean ====
section
/-! DEFINITION. Synchronisation (chapter 10): named barriers, stage rings, waits on tokens, on time and on memory
words, REALIGN, the deadlock watchdog and the rerouting of a link. -/

namespace Sys2Proof.Machine

/-! ## Forms that act once for the warp (R276) -/

/-- The instruction at its turn; nothing happens where no lane fires. -/
def atSync (o : Op) (c : Ctl) (p : FmtS) (s : State) (k : Iss → Nat × Opnds → Result) : Result :=
  atTurn o c (.s p) s (fun i =>
    match leader (allOpnds i o c (.s p)) with
    | none => .next (finish s i o c (.s p) (List.replicate (laneCount i.u) none) 0 0)
    | some x => k i x)

/-- A value in every firing lane. -/
def firingLanes (i : Iss) (o : Op) (c : Ctl) (pl : Payload) (v : Val) : List Lane :=
  (allOpnds i o c pl).map (fun x => x.map (fun _ => v))

/-- The acquire part of a wait that ends (R157, R270): later loads wait for the earlier ones. -/
def acquirePart (s : State) (t u : Nat) : State := updFlight s t u (fun f => { f with acq := f.idx })

/-- The fragment is blocked in a wait (R81, R271). -/
def blockIn (s : State) (i : Iss) (w : Wait) (k : WaitKind) : State :=
  updFlight s i.t i.u (fun f => { f with wait := some w, waitKind := k })

/-- An instruction issues and starts to wait. -/
def startWait (s : State) (i : Iss) (o : Op) (c : Ctl) (pl : Payload) (w : Wait) (k : WaitKind) : State :=
  blockIn (issueSlot s i o c pl) i w k

/-! ## Named barriers (R265, R266, R277) -/

/-- sr.trapinfo of BARRIER_MISMATCH (R311). -/
def mismatchInfo (b : Barrier) (n cnt : Nat) : Nat := n + 16 * (if b.cv then b.c else 0) + 512 * cnt

/-- The word in hand of a unit. -/
def wordOf (i : Iss) : Option View :=
  match i.f.words[i.f.idx]? with
  | none => none
  | some w => match decode w with
    | .ok x => x.view
    | .error _ => none

/-- A participant of a lower number can arrive at the barrier in this cycle: its arrival takes effect first (R266). -/
def lowerArrives (s : State) (i : Iss) (b : Nat) : Bool :=
  i.T.units.any (fun x => x.1 < i.u && (match x.2.flight with
    | none => false
    | some f =>
      let j : Iss := ⟨i.t, x.1, i.T, x.2, f⟩
      match wordOf j with
      | some (o, c, .s p) =>
        (o == .bar || o == .bara || o == .barx) && p.id.toNat == b && (gate s j o c (.s p)).isNone &&
          (leader (allOpnds j o c (.s p))).isSome && releaseDone s i.t x.1 i.T x.2 (scopeCode p.scope)
      | _ => false))

/-- The release part and the arrival of BAR, BARA and BARX; `k` follows the arrival. -/
def barEnter (s : State) (i : Iss) (p : FmtS) (bytes : Nat) (k : Iss → State → Result) : Result :=
  let b := p.id.toNat
  let cnt := barCount i.T (p.imm40.toNat % 32)
  if participants i.T < cnt then
    .next (trapHere s i 0 .barrierMismatch .engine (mismatchInfo (getBar i.T b) b cnt))
  else if 2 ^ 40 ≤ bytes then .next (trapHere s i 0 .reservedBits .engine (i.f.hdr.hcnt + i.f.idx))
  else if !releaseDone s i.t i.u i.T i.w (scopeCode p.scope) || lowerArrives s i b || higherArrived s i.T i.u b then .next s
  else match barArrive i.T i.u b cnt bytes s.ptc with
    | none => .next (trapHere s i 0 .barrierMismatch .engine (mismatchInfo (getBar i.T b) b cnt))
    | some T => k { i with T := T, w := (tabFind T.units i.u).getD i.w } (putTeam s i.t T)

/-- BAR (R277). -/
def execBar (c : Ctl) (p : FmtS) (s : State) : Result :=
  atSync .bar c p s (fun i _ => barEnter s i p 0 (fun i s =>
    if barDone i.T i.w p.id.toNat then .next (finishNone (acquirePart s i.t i.u) i .bar c (.s p))
    else .next (startWait s i .bar c (.s p) (.barrier p.id.toNat) .barrier)))

/-- BARA (R277). -/
def execBara (c : Ctl) (p : FmtS) (s : State) : Result :=
  atSync .bara c p s (fun i _ => barEnter s i p 0 (fun i s => .next (finishNone s i .bara c (.s p))))

/-- BARX (R277): EXP, or L when LOF. -/
def execBarx (c : Ctl) (p : FmtS) (s : State) : Result :=
  atSync .barx c p s (fun i x =>
    let bytes := if p.sub.getLsbD 0 then x.2.l.toNat % 2 ^ 64 else p.imm40.toNat / 2 ^ 8
    barEnter s i p bytes (fun i s => .next (finishNone s i .barx c (.s p))))

/-- BARW (R277): with no open arrival it proceeds at once. -/
def execBarw (c : Ctl) (p : FmtS) (s : State) : Result :=
  atSync .barw c p s (fun i _ =>
    if barDone i.T i.w p.id.toNat then .next (finishNone (acquirePart s i.t i.u) i .barw c (.s p))
    else .next (startWait s i .barw c (.s p) (.barrier p.id.toNat) .barrier))

/-! ## Stage rings (R268, R269, R278) -/

/-- A phase bit of a stage. -/
def ringBit (T : Team) (r st : Nat) (eph : Bool) : Bool := tabGet false (if eph then T.eph else T.fph) (8 * r + st)

/-- STGFILL or STGFREE: the flip is recorded, and performed after the commit. -/
def execFlip (o : Op) (eph : Bool) (c : Ctl) (p : FmtS) (s : State) : Result :=
  atSync o c p s (fun i _ =>
    let k : Flip := ⟨p.id.toNat, p.sub.toNat, eph, scopeCode p.scope⟩
    .next (finishNone (updFlight s i.t i.u (fun f => { f with flips := f.flips ++ [k] })) i o c (.s p)))

/-- STGFILL (R278). -/
def execStgfill (c : Ctl) (p : FmtS) (s : State) : Result := execFlip .stgfill false c p s
/-- STGFREE (R278). -/
def execStgfree (c : Ctl) (p : FmtS) (s : State) : Result := execFlip .stgfree true c p s

/-- STGWAIT (R278): PH in IMM40[0], SEL in IMM40[1]. -/
def execStgwait (c : Ctl) (p : FmtS) (s : State) : Result :=
  atSync .stgwait c p s (fun i _ =>
    let r := p.id.toNat
    let st := p.sub.toNat
    let eph := p.imm40.getLsbD 1
    let ph := p.imm40.getLsbD 0
    if ringBit i.T r st eph == ph then .next (finishNone (acquirePart s i.t i.u) i .stgwait c (.s p))
    else .next (startWait s i .stgwait c (.s p) (.ring r st eph ph) .ring))

/-- STAGE_FLIP (R269): the unit's oldest recorded flip, once its release conditions hold. -/
def execStageFlip (t u : Nat) (s : State) : Result :=
  match getTeam s t with
  | none => .next s
  | some T => match tabFind T.units u with
    | none => .next s
    | some w => match w.flips with
      | [] => .next s
      | x :: rest =>
        if w.atomics != 0 || !releaseDone s t u T w x.scope then .next s
        else
          let k := 8 * x.ring + x.stage
          let s := updUnit s t u (fun w => { w with flips := rest })
          .next (updTeam s t (fun T =>
            if x.eph then { T with eph := tabSet false T.eph k (!tabGet false T.eph k) }
            else { T with fph := tabSet false T.fph k (!tabGet false T.fph k) }))

/-! ## Tokens and time (R279, R280, R274) -/

/-- Whether TOKW.F may go on: every named request has completed (R280). -/
def tokensDone (now : Nat) (w : WUnit) (m : Nat) : Bool := (maskBits m).all (fun b => !tokBusy now (getTok w b))

/-- TOKW.F clears Failed states to Complete (R280). -/
def clearFailed (w : WUnit) (m : Nat) : WUnit :=
  (maskBits m).foldl (fun w b => if (getTok w b).state == .failed then setTok w b { (getTok w b) with state := .complete } else w) w

/-- TOKW (R280, R182). -/
def execTokw (c : Ctl) (p : FmtS) (s : State) : Result :=
  atSync .tokw c p s (fun i _ =>
    let m := p.imm40.toNat % 256
    match waitOn s i m with
    | some (_, .wait) => .next (startWait s i .tokw c (.s p) (.tokens m false) .token)
    | some (b, .late) => .next (tokRaise s i.t i.u i.f.idx b true)
    | some (b, .failed) => .next (tokRaise s i.t i.u i.f.idx b false)
    | _ => .next (finishNone s i .tokw c (.s p)))

/-- TOKW.F (R280). -/
def execTokwF (c : Ctl) (p : FmtS) (s : State) : Result :=
  atSync .tokwF c p s (fun i _ =>
    let m := p.imm40.toNat % 256
    if tokensDone (issPtc s i) i.w m then .next (finishNone (updUnit s i.t i.u (fun w => clearFailed w m)) i .tokwF c (.s p))
    else .next (startWait s i .tokwF c (.s p) (.tokens m true) .token))

/-- SLEEPT (R279): REL in SUB[0]. -/
def execSleept (c : Ctl) (p : FmtS) (s : State) : Result :=
  atSync .sleept c p s (fun i x =>
    let now := issPtc s i
    let target := if p.sub.getLsbD 0 then now + p.imm40.toNat else x.2.l.toNat % 2 ^ 64
    if target ≤ now then .next (finishNone s i .sleept c (.s p))
    else .next (startWait s i .sleept c (.s p) (.sleep target) .external))

/-- The first corrected cycle that is a multiple of 8, at or after both T and the issue (R274). -/
def releaseCycle (target issued : Nat) : Nat := (max target issued + 7) / 8 * 8

/-- The end of a REALIGN that has issued: the lateness is at hand in the release cycle, and the next instruction has its turn in
it. -/
def endRealign (s : State) (i : Iss) (c : Ctl) (p : FmtS) (target issued : Nat) : State :=
  let v := BitVec.ofNat 128 ((releaseCycle target issued - target) % 2 ^ 64)
  let s := complete s i .realign c (.s p) (firingLanes i .realign c (.s p) v) 0 0
  updFlight s i.t i.u (fun f => { f with turn := s.ptc })

/-- REALIGN (R274, R282). The corrected count is the hub's. -/
def execRealign (c : Ctl) (p : FmtS) (s : State) : Result :=
  atSync .realign c p s (fun i x =>
    let target := x.2.l.toNat % 2 ^ 64
    if releaseCycle target s.ptc ≤ s.ptc then .next (endRealign (issueSlot s i .realign c (.s p)) i c p target s.ptc)
    else .next (startWait s i .realign c (.s p) (.realign target s.ptc) .external))

/-! ## WAITX (R281) -/

/-- The size of the word. -/
def waitxBytes (wide : Bool) : Nat := if wide then 8 else 4

/-- The condition COND of WAITX. -/
def waitxCond (cond m v : Nat) : Bool :=
  match cond with
  | 0 => m == v
  | 1 => m != v
  | 2 => v ≤ m
  | _ => m &&& v != 0

/-- WAITX at issue: its address is translated, and the wait begins with a read (WAITX_REREAD). -/
def execWaitx (c : Ctl) (p : FmtS) (s : State) : Result :=
  atSync .waitx c p s (fun i x =>
    let a := x.2.l.toNat % 2 ^ 64
    let wide := p.sub.getLsbD 2
    let n := waitxBytes wide
    let (s, r) := checkAccess s i.T.core i.T.vf a n .rd true
    match r with
    | .error k => .next (trapHere s i x.1 k .globalMem a)
    | .ok ps =>
      let q := ps.headD ⟨0, n, a, 0, .cached⟩
      let s := touchPieces s i.T ps
      let dl := if i.T.xto = 0 then none else some (issPtc s i + 1050 * i.T.xto)
      let w : Wait := .word a q.pa wide (q.mt == .cached && homedPa s q.pa) (p.sub.toNat % 4) (x.2.r.toNat % 256 ^ n) dl 0 false
      .next (startWait s i .waitx c (.s p) w .external))

/-- The unit's issuing context, for the machine's own steps. -/
def issOf (s : State) (t u : Nat) : Option Iss := issCtx { s with issuer := (t, u) }

/-- The wait of a unit ends; the instruction is about to finish. -/
def clearWait (s : State) (i : Iss) : State := updFlight s i.t i.u (fun f => { f with wait := none, waitKind := .none })

/-- WAITX_REREAD (R281): the word is read at its home, when the wait begins, on a write to its line, or 4,096 cycles
after the last read; past the deadline it is not. -/
def execWaitxReread (t u : Nat) (s : State) : Result :=
  match issOf s t u with
  | none => .next s
  | some i => match i.f.wait with
    | some (.word a pa wide homed cond v dl next touched) =>
      let now := issPtc s i
      let late := match dl with
        | some d => next != 0 && d ≤ now
        | none => false
      if i.f.fault.isSome || late || (next != 0 && !touched && s.ptc < next) || inTransition s pa then .next s
      else
        let n := waitxBytes wide
        let src := homeAddr s i.T.vf a pa
        let s := touch s i.T.vf i.T.slot src
        if rangePoisoned s src n then .next (trapHere (clearWait s i) i 0 .dataPoison .globalMem a)
        else
          let m := if paKind s pa == .device then deviceRead s pa n else some (memNum s.mem src n)
          match m, wordOf i with
          | none, _ => .refused .deviceRegister
          | some _, none => .next s
          | some m, some (o, c, pl) =>
            if waitxCond cond m v then
              .next (complete (acquirePart (clearWait s i) t u) i o c pl (firingLanes i o c pl (BitVec.ofNat 128 m)) 0 0)
            else .next (blockIn s i (.word a pa wide homed cond v dl (s.ptc + 4096) false) .external)
    | _ => .next s

/-- EXTERNAL_TIMEOUT (R281): past the deadline, when a write or the 4,096 cycles end the sleep. -/
def execExternalTimeout (t u : Nat) (s : State) : Result :=
  match issOf s t u with
  | none => .next s
  | some i => match i.f.wait with
    | some (.word a _ _ _ _ _ (some d) next touched) =>
      if i.f.fault.isSome || next = 0 || issPtc s i < d || (!touched && s.ptc < next) then .next s
      else .next (trapHere (clearWait s i) i 0 .externalTimeout .globalMem a)
    | _ => .next s

/-! ## The end of a wait (R271) -/

/-- What a wait ends with: nothing yet, the instruction's end, or a trap. -/
inductive WaitEnd where
  | hold
  | done (acquire : Bool)
  | tok (b : Nat) (missed : Bool)
  deriving DecidableEq, Repr

/-- Whether a unit's wait has ended. A WAITX ends by its own reads. -/
def waitEnd (s : State) (i : Iss) : Wait → WaitEnd
  | .barrier b => if barDone i.T i.w b then .done true else .hold
  | .ring r st eph ph => if ringBit i.T r st eph == ph then .done true else .hold
  | .tokens m true => if tokensDone (issPtc s i) i.w m then .done false else .hold
  | .tokens m false => match waitOn s i m with
    | none => .done false
    | some (b, .late) => .tok b true
    | some (b, .failed) => .tok b false
    | some _ => .hold
  | .sleep n => if n ≤ issPtc s i then .done false else .hold
  | .word _ _ _ _ _ _ _ _ _ => .hold
  | .realign n k => if releaseCycle n k ≤ s.ptc then .done false else .hold
  | .grid cond n => if gwaitHolds s.ptc (getGrid s i.T.core) cond n then .done false else .hold

/-- A wait whose condition holds ends, with its acquire part, and the instruction completes (R271). -/
def endWait (s : State) (t u : Nat) : State :=
  match issOf s t u with
  | none => s
  | some i => match i.f.wait, wordOf i with
    | some w, some (o, c, pl) =>
      if i.f.fault.isSome then s
      else match waitEnd s i w with
        | .hold => s
        | .tok b missed => tokRaise s t u i.f.idx b missed
        | .done acq =>
          let s := clearWait s i
          let s := if acq then acquirePart s t u else s
          match w, pl with
          | .realign n k, .s p => endRealign s i c p n k
          | .tokens m true, _ => completeNone (updUnit s t u (fun w => clearFailed w m)) i o c pl
          | _, _ => completeNone s i o c pl
    | _, _ => s

/-- WAIT_END (R271), at the latest at the end of the cycle in which the condition holds. -/
def execWaitEnd (t u : Nat) (s : State) : Result := .next (endWait s t u)

/-! ## The watchdog (R272) -/

/-- A unit that has not retired is blocked on an internal condition. -/
def internalWait (w : WUnit) : Bool :=
  match w.flight with
  | none => false
  | some f => f.waitKind != .none && f.waitKind != .external

/-- A request of the team's engines is in flight. -/
def teamRequests (s : State) (t : Nat) (T : Team) : Bool :=
  let c := getCore s T.core
  c.copyQ.any (fun r => r.team == t) || c.mat.queue.any (fun o => o.team == t) ||
  (c.grid.holder == some t && c.grid.engs.any (fun e => !(outGroups s.ptc e.2).isEmpty))

/-- The conditions under which the watchdog's count goes on in a cycle. The waits are those that the cycle's turns have found:
none whose condition holds. -/
def teamStuck (s : State) (t : Nat) (T : Team) : Bool :=
  let live := T.units.filter (fun x => !x.2.done)
  !T.retired && T.term.isNone && !live.isEmpty && live.all (fun x => internalWait x.2) &&
  T.units.all (fun x => x.2.issuedAt != s.ptc + 1) && !teamRequests s t T &&
  !((getCore s T.core).grid.holder == some t && (getCore s T.core).grid.firedAt == s.ptc + 1)

/-- The kind of a unit's wait in sr.trapinfo (R272). -/
def waitCode : WaitKind → Nat
  | .barrier => 1
  | .ring => 2
  | .token => 3
  | .gwait => 4
  | .queue => 5
  | _ => 0

/-- WATCHDOG pending on a unit's oldest fragment; the waiting block aborts (R271). -/
def dogUnit (t : Nat) (s : State) (u : Nat) : State :=
  match getUnit s t u with
  | none => s
  | some w => match oldestFrag w with
    | none => s
    | some i =>
      let info := waitCode ((w.flight.map Flight.waitKind).getD .none)
      let s := abortBlock s t u
      let blk := ((getUnit s t u).map (fun w => (getSplit w i).block)).getD 0
      pendTrap s t u i ⟨.watchdog, .engine, BitVec.ofNat 64 info, blk⟩

/-- WATCHDOG (R272): the count has reached the team's interval. -/
def execWatchdog (t : Nat) (s : State) : Result :=
  match getTeam s t with
  | none => .next s
  | some T =>
    if T.wd < 2 ^ T.wdog || !teamStuck s t T then .next s
    else
      let s := updTeam s t (fun T => { T with wd := 0 })
      .next ((T.units.filter (fun x => !x.2.done)).foldl (fun s x => dogUnit t s x.1) s)

/-! ## Rerouting (R275) -/

/-- LINK_REROUTE (R275): LAT is rewritten for the pair of dies and their RR bits are set. -/
def execLinkReroute (a b latAB latBA : Nat) (s : State) : Result :=
  if a = b || 11 ≤ a || 11 ≤ b || latAB = 0 || 256 ≤ latAB || latBA = 0 || 256 ≤ latBA then .next s
  else .next { s with
    lat := tabSet 0 (tabSet 0 s.lat (16 * a + b) (BitVec.ofNat 8 latAB)) (16 * b + a) (BitVec.ofNat 8 latBA)
    rr := tabSet false (tabSet false s.rr (16 * a + b) true) (16 * b + a) true }

end Sys2Proof.Machine
end

