-- ==== Sys2Proof/Machine/System.lean ====
section
/-! DEFINITION. System instructions (R316 to R321). Traps of class C and the writes of SWR and TRET take effect at the
commit (R72, R318, R319). -/

namespace Sys2Proof.Machine

/-- An instruction that acts once for the warp and gives no result (R316): nothing where no lane fires. -/
def execOnce (o : Op) (c : Ctl) (pl : Payload) (k : State → Iss → Nat × Opnds → State) (s : State) : Result :=
  atTurn o c pl s (fun i =>
    match leader (allOpnds i o c pl) with
    | none => .next (finishNone s i o c pl)
    | some x => .next (finishNone (k s i x) i o c pl))

/-- The class C trap of a block: the one earliest in word order counts (R318). -/
def fireTrap (s : State) (i : Iss) (code : TrapCode) (info lane : Nat) : State :=
  updFlight s i.t i.u (fun f => { f with csys := f.csys.orElse (fun _ => some (blockTrap i.f code .engine info, lane)) })

/-- TRAP (R318): SW_TRAP with its number, on the fragment that goes on with the lowest firing lane. -/
def execTrap (c : Ctl) (p : FmtS) (s : State) : Result :=
  execOnce .trap c (.s p) (fun s i x => fireTrap s i .swTrap (p.imm40.toNat % 2 ^ 32) x.1) s

/-- BKPT (R318): nothing where its bit of sr.bkpten is 0. -/
def execBkpt (c : Ctl) (p : FmtS) (s : State) : Result :=
  execOnce .bkpt c (.s p) (fun s i x =>
    let code := p.imm40.toNat % 64
    if i.w.bkpten.getLsbD code then fireTrap s i .bkpt code x.1 else s) s

/-- TRET (R319): the commit ends the handler. -/
def execTret (c : Ctl) (s : State) : Result :=
  execOnce .tret c .n (fun s i _ => updFlight s i.t i.u (fun f => { f with tret := true })) s

/-- The register that SRD and SWR name. -/
def sregOf (p : FmtS) : Nat := p.imm40.toNat % 512

/-- SRD (R317): the register's value at issue, lane by lane. -/
def execSrd (c : Ctl) (p : FmtS) (s : State) : Result :=
  atTurn .srd c (.s p) s (fun i =>
    let lanes := ((allOpnds i .srd c (.s p)).zipIdx).map (fun x =>
      x.1.map (fun _ => BitVec.ofNat 128 (sregVal s i.u i.T i.w i.f.frag (sregOf p) x.2)))
    .next (finish s i .srd c (.s p) lanes (latency .srd c (.s p) i.u) 0))

/-- SWR (R317): the write is held for the commit. -/
def execSwr (c : Ctl) (p : FmtS) (s : State) : Result :=
  execOnce .swr c (.s p) (fun s i x =>
    updFlight s i.t i.u (fun f => { f with swrs := f.swrs ++ [(sregOf p, BitVec.ofNat 64 x.2.l.toNat)] })) s

/-- The next four slots of a warp's quarter after the one it issues in go to other ready warps (R320). -/
def leaveSlots (s : State) (i : Iss) : State :=
  if i.u = 16 then s
  else updCore s i.T.core (fun c => { c with yields := tabSet 0 c.yields (yieldKey i.t i.u) 5 })

/-- YIELD (R320): the warp's ageing counter becomes 0 and the quarter's next four slots go to other ready warps. -/
def execYield (c : Ctl) (s : State) : Result :=
  execOnce .yield c .n (fun s i _ => updUnit (leaveSlots s i) i.t i.u (fun w => { w with ageing := 0 })) s

/-- NOPB (R320). -/
def execNopb (c : Ctl) (s : State) : Result := execOnce .nopb c .n (fun s _ _ => s) s

/-- PERFRD (R321): the core's counter at issue. -/
def execPerfrd (c : Ctl) (p : FmtS) (s : State) : Result :=
  execAlu1 .perfrd c (.s p) (fun i =>
    BitVec.ofNat 128 (tabGet 0 (getCore s i.T.core).counters (p.imm40.toNat % 8)).toNat) s

end Sys2Proof.Machine
end

