-- ==== Sys2Proof/Machine/Launch.lean ====
section
/-! DEFINITION. SPAWN (R309, R310), the placement of teams (R296 to R299), retirement (R300) and budgets (R291). -/

namespace Sys2Proof.Machine

/-! ## SPAWN at issue (R309, R310) -/

/-- SPAWN: the record's address is checked and the request is held for the commit. -/
def execSpawn (c : Ctl) (p : FmtE) (s : State) : Result :=
  atTurn .spawn c (.e p) s (fun i =>
    match leader (allOpnds i .spawn c (.e p)) with
    | none => .next (finishNone s i .spawn c (.e p))
    | some (l, x) =>
      let a := x.l.toNat % 2 ^ 64
      if a % 64 != 0 then .next (trapHere s i l .align .globalMem a)
      else
        let (s, r) := checkOne s i.T.core i.T.vf a 256 64 .rd
        match r with
        | .error k => .next (trapHere s i l k .globalMem a)
        | .ok ps =>
          let h : HeldStore := ⟨c.lsid.toNat, i.f.idx, l, false, .spawn, a, ((ps.head?.map Piece.pa).getD 0), 256, 0, 0, []⟩
          .next (holdAtomic (touchPieces s i.T ps) i .spawn c (.e p) [h]))

/-! ## Working sets (R298, R304) -/

/-- The units of a slot's recorded working set: the bits of the last two slices. -/
def recordedUnits (V : Tenant) (slot : Nat) : List Nat :=
  let mine := fun (b : Tab Bool) => (b.filter (fun x => x.1 / 2 ^ 48 == slot)).map (fun x => x.1 % 2 ^ 48)
  mine V.bits ++ (mine V.older).filter (fun u => !tabGet false V.bits (2 ^ 48 * slot + u))

/-- Bytes of the recorded working set, and those of them in tier 1. -/
def recordedBytes (V : Tenant) (slot : Nat) : Nat := 2 ^ 16 * (recordedUnits V slot).length
def residentBytes (s : State) (V : Tenant) (slot : Nat) : Nat :=
  2 ^ 16 * ((recordedUnits V slot).filter (fun u => paKind s (u * 2 ^ 16) == .tier1)).length

/-- The residency gate (R298), for a slot, a threshold and a budget. -/
def gateOpen (s : State) (V : Tenant) (slot thresh budget : Nat) : Bool :=
  let recorded := recordedBytes V slot
  let need := if budget = 0 then recorded else min recorded budget
  thresh == 0 || need == 0 || thresh * need ≤ 100 * residentBytes s V slot

/-! ## Fitting on a core (R15, R297) -/

/-- The teams that hold resources of a core. -/
def residents (s : State) (core : Nat) : List (Nat × Team) := s.teams.filter (fun x => x.2.core == core && !x.2.retired)

/-- Warps of a team on a quarter: warp w is on quarter w mod 4. -/
def quarterWarps (warps q : Nat) : Nat := (warps + 3 - q) / 4

/-- The lowest start, in 4 KiB units, of a free run of a core's scratchpad. -/
def freeRun (ws : List (Nat × Nat)) (n : Nat) : Option Nat :=
  (List.range (129 - n)).find? (fun b => ws.all (fun w => b + n ≤ w.1 || w.1 + w.2 ≤ b || w.2 == 0 || n == 0))

/-- The free grid pages of a core. -/
def freePages (ts : List (Nat × Team)) : List Nat := (List.range 4).filter (fun p => !ts.any (fun x => x.2.pages.contains p))

/-- Where a launch's team goes on a core: its window's first byte and its grid pages; nothing where it does not fit. -/
def fitOn (s : State) (r : LaunchRec) (core : Nat) : Option (Nat × List Nat) :=
  let ts := residents s core
  let warps := (ts.map (fun x => x.2.lrec.warps)).sum
  let regs := (ts.map (fun x => x.2.lrec.warps * x.2.lrec.regs * 512)).sum
  let c := getCore s core
  if 16 < warps + r.warps ||
      (List.range 4).any (fun q => 4 < (ts.map (fun x => quarterWarps x.2.lrec.warps q)).sum + quarterWarps r.warps q) ||
      524288 < regs + r.warps * r.regs * 512 ||
      (r.bentry != 0 && (ts.any (fun x => x.2.lrec.bentry != 0) || c.grid.holder.isSome)) ||
      (freePages ts).length < r.gpages ||
      (r.nmat != 0 && (ts.any (fun x => x.2.lrec.nmat != 0) || c.mat.holder.isSome || !c.mat.queue.isEmpty)) then none
  else (freeRun (ts.map (fun x => (x.2.spBase / 4096, x.2.spBytes / 4096))) r.spad).map (fun b =>
    (4096 * b, (freePages ts).take r.gpages))

/-- The cores that a tenant's teams may take now: those of its partition in service, but for cores whose teams of the
tenant are being pre-empted (R322) and cores that a staged layout moves (R303). -/
def placeCores (s : State) (P : Partition) (vf : Nat) : List Nat :=
  (partCores s P).filter (fun c =>
    !(residents s c).any (fun x => x.2.vf == vf && (x.2.preempt.isSome || x.2.saving)) &&
    (match s.staged with
     | none => true
     | some l => l.place.getD c 0 == tabGet 0 s.place c &&
        l.parts.any (fun p => p.id == P.id && p.groups.contains (c / 4))))

/-- The first core on which a launch's team fits. -/
def firstFit (s : State) (P : Partition) (vf : Nat) (r : LaunchRec) : Option (Nat × Nat × List Nat) :=
  (placeCores s P vf).findSome? (fun c => (fitOn s r c).map (fun x => (c, x.1, x.2)))

/-! ## Team start (R285, R299) -/

/-- A warp's role by its number (R285). -/
def roleOf (r : LaunchRec) (w : Nat) : Role :=
  if w < r.ncopy then .copy else if w < r.ncopy + r.nmat then .matrix else .vector

/-- The thread mask of a warp (R285). -/
def threadMask (r : LaunchRec) (w : Nat) : BitVec 128 :=
  if w + 1 = r.warps then BitVec.ofNat 128 (2 ^ r.lastn - 1) else BitVec.allOnes 128

/-- A unit at team start: one root fragment at its entry block (R75, R226). -/
def startUnit (role : Role) (entry : Nat) (mask : BitVec 128) (now : Nat) : WUnit :=
  { role := role, splits := [(0, { live := true, mask := mask, block := entry % 2 ^ 57, stamp := now })] }

/-- The warps of a team, and its Bridle as unit 16. -/
def startUnits (r : LaunchRec) (now : Nat) : Tab WUnit :=
  (List.range r.warps).map (fun w => (w, startUnit (roleOf r w) r.entry (threadMask r w) now)) ++
  (if r.bentry = 0 then [] else [(16, startUnit .grid r.bentry 1 now)])

/-- A team as placement makes it. The chain is that of its launch's region (R289). -/
def newTeam (vf : Nat) (l : Launch) (num core base : Nat) (pages : List Nat) (chain : List Rcb) (now nowDie : Nat) : Team :=
  let r := l.lrec
  { vf := vf, seq := l.seq, num := num, rnum := l.rnum, lrec := r, core := core, spBase := base, spBytes := 4096 * r.spad
    pages := pages, htab := effHtab chain, wdog := effWdog chain, xto := effXto chain, slot := effSlot chain
    rtop := (chain.getLast?.map Rcb.rnum).getD 0, units := startUnits r nowDie
    views := (r.views.zip r.vranges).map (fun v => { ridx := v.1, base := v.2.1, size := v.2.2 })
    since := now }

/-- The engines that a team takes start empty: the matrix engine (R208) and the grid (R226). -/
def takeEngines (s : State) (t core : Nat) (r : LaunchRec) : State :=
  updCore s core (fun c =>
    let m := { c.mat with acc := [], marks := [], tiles := [], chains := [], rampL := 4, used := 0, bubbleRun := 0, idle := true, holder := some t }
    let g : Grid := { holder := some t }
    { c with mat := if r.nmat = 0 then c.mat else m, grid := if r.bentry = 0 then c.grid else g })

def updLaunch (s : State) (vf seq : Nat) (f : Launch → Launch) : State :=
  updTenant s vf (fun V => { V with ready := V.ready.map (fun l => if l.seq = seq then f l else l) })

/-- The next team number of a launch to place: the lowest one not placed. -/
def nextTeamNum (l : Launch) : Option Nat :=
  if l.status != 0 then none
  else match (l.teams.find? (fun x => x.2 == .unplaced)).map Prod.fst with
    | some n => some n
    | none => if l.next < l.lrec.teams then some l.next else none

/-! ## Placement (R291, R296, R297) -/

/-- The core budgets of a region and its ancestors allow placement (R291). -/
def budgetOk : List Rcb → Bool
  | [] => true
  | b :: bs => (effCsec (b :: bs) == 0 || b.used < effCsec (b :: bs)) && budgetOk bs

/-- Every write before a launch's acceptance is visible on every compute die (R299). -/
def startVisible (s : State) (l : Launch) : Bool := (List.range 8).all (fun d => l.after < diePtc s d || l.after == 0)

/-- A launch's next team is placed if its gate is open, its budget allows it and a core has room. -/
def tryPlace (s : State) (P : Partition) (vf : Nat) (l : Launch) : Option State :=
  match nextTeamNum l, rcbChain s vf l.lrec.region with
  | some n, some chain =>
    let V := getTenant s vf
    if !startVisible s l || !budgetOk chain || !gateOpen s V (effSlot chain) l.lrec.thresh (effT1b chain) then none
    else match firstFit s P vf l.lrec with
      | none => none
      | some (core, base, pages) =>
        let t := s.nextTeam
        let T := newTeam vf l n core base pages chain s.ptc (diePtc s (dieOf core))
        let s := { s with teams := tabPut s.teams t T, nextTeam := t + 1 }
        let s := takeEngines s t core l.lrec
        some (updLaunch s vf l.seq (fun l =>
          { l with next := max l.next (n + 1), teams := tabPut l.teams n (.placed t) }))
  | _, _ => none

/-- The head of each priority level, from level 15 down: the launch accepted first that has teams to place. -/
def levelHeads (s : State) (vf : Nat) : List Launch :=
  (List.range 16).filterMap (fun k => (getTenant s vf).ready.find? (fun l =>
    (nextTeamNum l).isSome && regionPrio s vf l.rnum == 15 - k))

/-- Where a saved team goes under R297. A team that a layout change pre-empted waits for the tick (R303), and that of a retired core
goes back to its logical core, where that core still is (R24). -/
def restoreFit (s : State) (x : SavedTeam) : Option (Nat × Nat × List Nat) :=
  let T := x.team
  match getPart s (getTenant s T.vf).cfg.part, rcbChain s T.vf T.lrec.region with
  | some P, some chain =>
    let why := (T.preempt.map Prod.fst).getD 0
    if P.current != some T.vf || P.step != .slice || !budgetOk chain || (why != 1 && s.staged.isSome) ||
        !gateOpen s (getTenant s T.vf) (effSlot chain) T.lrec.thresh (effT1b chain) then none
    else if why = 3 && (placeCores s P T.vf).contains T.core then (fitOn s T.lrec T.core).map (fun x => (T.core, x.1, x.2))
    else firstFit s P T.vf T.lrec
  | _, _ => none

/-- TEAM_PLACEMENT (R296, R297): the first head of a level that can place a team now does so; saved teams are restored
first (R306). -/
def execTeamPlacement (part : Nat) (s : State) : Result :=
  match getPart s part with
  | none => .next s
  | some P => match P.current with
    | none => .next s
    | some vf =>
      if P.step != .slice || (getTenant s vf).resetting || (getTenant s vf).saved.any (fun x => (restoreFit s x).isSome) then .next s
      else match (levelHeads s vf).findSome? (tryPlace s P vf) with
        | some s => .next s
        | none => .next s

/-! ## Budgets (R291, R308) -/

/-- Core-µs added to USED of each block of a chain. -/
def chargeChain (s : State) (vf : Nat) (chain : List Rcb) (us : Nat) : State :=
  chain.foldl (fun s b => homeStore s vf (b.addr + 48) 8 ((b.used + us) % 2 ^ 64)) s

/-- A team's core time since the last charge, at most so many µs of it, added to its region and its ancestors. A µs is 1,050
cycles. -/
def chargeUpTo (most : Nat) (s : State) (t : Nat) : State :=
  match getTeam s t with
  | none => s
  | some T =>
    let us := min most ((s.ptc - T.since) / 1050)
    if us = 0 || T.retired then s
    else
      let s := updTeam s t (fun T => { T with since := T.since + 1050 * us })
      let s := updTenant s T.vf (fun V => { V with roots := tabSet 0 V.roots T.rtop (tabGet 0 V.roots T.rtop + 1050 * us) })
      match rcbChain s T.vf T.lrec.region with
      | some chain => chargeChain s T.vf chain us
      | none => s

/-- A charge of 1 ms at most (R291). -/
def chargeTeam (s : State) (t : Nat) : State := chargeUpTo 1000 s t

/-- More core time stands to a team than one charge takes: it is charged before the team ends, so that none is lost. -/
def chargeBehind (s : State) (T : Team) : Bool := 1051050 ≤ s.ptc - T.since

/-- BUDGET_CHARGE (R291). -/
def execBudgetCharge (t : Nat) (s : State) : Result := .next (chargeTeam s t)

/-! ## Retirement (R300) -/

/-- A Bridle that has retired leaves no configuration running: one that is not done stops as GSTOP with FRAME = 0 and DROP = 1. -/
def bridleGone (s : State) (t : Nat) (T : Team) : State :=
  if (getGrid s T.core).holder != some t || !((tabFind T.units 16).map WUnit.done).getD false then s
  else
    let s := discardStaged s T.core
    updGrid s T.core (fun g => if g.active.isNone || g.stopped || g.stopping || gridDone s.ptc g then g else stopGrid g false)

/-- Every request of the team's grid and stream engines has ended, and its configuration is done or stopped. -/
def gridQuiet (s : State) (t core : Nat) : Bool :=
  let g := getGrid s core
  g.holder != some t ||
  (g.staging.isNone && g.staged.isNone && g.cmds.isEmpty && (g.active.isNone || g.stopped || gridDone s.ptc g) &&
    g.engs.all (fun e => e.2.cmds.isEmpty && (outGroups s.ptc e.2).isEmpty) &&
    !s.reqs.any (fun r => r.team == t && r.unit == gridUnit) && !s.loads.any (fun l => l.team == t && l.unit == gridUnit))

/-- Every request that the team sent has ended. -/
def requestsEnded (s : State) (t : Nat) (T : Team) : Bool :=
  let c := getCore s T.core
  !c.copyQ.any (fun r => r.team == t) && !c.mat.queue.any (fun o => o.team == t) && !c.satoms.any (fun r => r.team == t) &&
  gridQuiet s t T.core && T.views.all (fun v => !v.st.deferred && v.st.count == 0)

/-- The team's window, pages, engines and warp slots are free; what the engines hold stays until the next holder or a clearing. -/
def freeTeam (s : State) (t : Nat) : State :=
  match getTeam s t with
  | none => s
  | some T => updCore s T.core (fun c =>
    let m := { c.mat with holder := none }
    let g := { c.grid with holder := none }
    { c with mat := if c.mat.holder == some t then m else c.mat, grid := if c.grid.holder == some t then g else c.grid })

/-- TEAM_RETIRE (R300). -/
def execTeamRetire (t : Nat) (s : State) : Result :=
  match getTeam s t with
  | none => .next s
  | some T =>
    let s := bridleGone s t T
    if T.retired || !T.units.all (fun x => x.2.done) || !requestsEnded s t T || chargeBehind s T then .next s
    else
      let s := freeTeam (chargeTeam s t) t
      let s := updTeam s t (fun T => { T with retired := true })
      .next (updLaunch s T.vf T.seq (fun l => { l with teams := tabPut l.teams T.num .retired }))

/-- Each team of a launch has retired or was never placed. -/
def teamsRetired (l : Launch) : Bool :=
  if l.status = 0 then (l.teams.filter (fun x => x.2 == .retired)).length == l.lrec.teams
  else l.teams.all (fun x => x.2 == .retired || x.2 == .unplaced)

/-- The completion records of a launch's warps show nothing outstanding, and the PTC has passed its writes. -/
def writesPassed (s : State) (vf : Nat) (l : Launch) : Bool :=
  l.gwct < s.ptc && s.teams.all (fun x => x.2.vf != vf || x.2.seq != l.seq ||
    (!s.reqs.any (fun r => r.team == x.1) && x.2.units.all (fun u => u.2.atomics == 0 && u.2.hostOut == 0 && u.2.ct < s.ptc)))

/-- LAUNCH_RETIRE (R300, R301): the done word is written and the entry of the ready store frees. -/
def execLaunchRetire (vf seq : Nat) (s : State) : Result :=
  match (getTenant s vf).ready.find? (fun l => l.seq == seq) with
  | none => .next s
  | some l =>
    if !teamsRetired l || !writesPassed s vf l then .next s
    else
      let s := writeDone s vf l.rnum l.lrec.done l.seq l.reason l.status
      let s := updTenant s vf (fun V => { V with ready := V.ready.filter (fun l => l.seq != seq) })
      .next { s with teams := s.teams.filter (fun x => !(x.2.vf == vf && x.2.seq == seq && x.2.retired)) }

end Sys2Proof.Machine
end

