-- ==== Sys2Proof/Machine/Image.lean ====
section
/-! DEFINITION. The context image (R328 to R330): its bytes, section by section, and their reading back (R327). -/

namespace Sys2Proof.Machine

/-- `n` zero bytes. -/
def zeros (n : Nat) : List Byte := List.replicate n 0

/-- Bits of a predicate over 0 to n − 1 as a number. -/
def bitsNum (n : Nat) (p : Nat → Bool) : Nat := (List.range n).foldl (fun x i => if p i then x + 2 ^ i else x) 0

/-! ## Warp and Bridle sections (R329) -/

/-- The role's number in a warp section. -/
def roleNum : Role → Nat
  | .copy => 0
  | .matrix => 1
  | .vector => 2
  | .grid => 3

/-- The remaining promise of a token. -/
def remaining (now : Nat) (k : SbTok) : Nat := k.promise - now

/-- The trap frame's 64 bytes. -/
def frameBytes (f : TrapFrame) : List Byte :=
  numBytes 1 ((f.code.map trapNum).getD 0) ++ numBytes 1 (sourceNum f.source) ++ numBytes 1 f.depth ++ numBytes 1 f.entry ++
  zeros 4 ++ numBytes 8 f.info.toNat ++ numBytes 8 f.blk ++ numBytes 16 f.mask.toNat ++ zeros 24

/-- A token's 16 bytes. -/
def tokBytes (now : Nat) (k : SbTok) : List Byte :=
  numBytes 16 (remaining now k + 2 ^ 64 * tokCode k.state + 2 ^ 67 * ((k.code.map trapNum).getD 0) +
    (if k.deferred.isSome then 2 ^ 75 else 0))

/-- The state's number in a split-table entry (log 11). -/
def fragStateNum : FragState → Nat
  | .ready => 0
  | .inFlight => 1
  | .blocked => 2
  | .parked => 3
  | .trapPending => 4

/-- A split-table entry's 192 bytes. The root is group 32 (log 11). -/
def splitBytes (e : SplitEntry) : List Byte :=
  let r := e.record.getD ⟨0, 0, none⟩
  let tr := e.traps.head?
  numBytes 16 e.mask.toNat ++ numBytes 8 e.block ++ numBytes 8 e.stamp ++ numBytes 1 (e.group.getD 32) ++ numBytes 1 e.ageing ++
  numBytes 1 (fragStateNum e.state) ++ numBytes 1 e.stack.length ++ numBytes 1 (if e.record.isSome then 1 else 0) ++
  numBytes 1 r.depth ++ numBytes 1 (r.parent.getD 32) ++ numBytes 1 ((tr.map (fun t => trapNum t.code)).getD 0) ++
  numBytes 8 r.rejoin ++ numBytes 8 ((tr.map (fun t => t.info.toNat)).getD 0) ++
  numBytes 1 ((tr.map (fun t => sourceNum t.source)).getD 0) ++ zeros 7 ++
  (List.range 16).flatMap (fun i => numBytes 8 (e.stack.reverse.getD i 0))

/-- A warp's or the Bridle's section: 7,184 + 528 × regs bytes. -/
def warpBytes (now : Nat) (w : WUnit) (regs : Nat) : List Byte :=
  numBytes 1 (if w.tm then 1 else 0) ++ numBytes 1 (roleNum w.role) ++ zeros 6 ++ numBytes 4 w.fflags.toNat ++ zeros 4 ++
  numBytes 8 w.bkpten.toNat ++ zeros 40 ++ frameBytes w.frame ++
  (List.range 8).flatMap (fun b => tokBytes now (getTok w b)) ++
  (List.range 16).flatMap (fun b =>
    let r := tabGet {} w.arrivals b
    numBytes 8 (r.gen.toNat + (if r.flag then 2 ^ 32 else 0))) ++
  (List.range 64).flatMap (fun n => numBytes 8 (getK w n).toNat) ++
  (List.range 8).flatMap (fun n => numBytes 16 (bitsNum 128 (fun l => getQ w n l))) ++
  numBytes 8 (bitsNum 64 (fun n => tabGet false w.kPoison n)) ++ zeros 8 ++
  (List.range 32).flatMap (fun i => splitBytes (getSplit w i)) ++
  (List.range regs).flatMap (fun n => numBytes 16 (bitsNum 128 (fun l => tabGet false w.vPoison (vKey n l)))) ++
  (List.range regs).flatMap (fun n => (List.range 128).flatMap (fun l => numBytes 4 (getV w n l).toNat))

/-! ## The other sections (R330) -/

/-- A view's 16 bytes: what is still to count and the barrier of its first deferred publish. -/
def viewBytes (v : ViewSt) : List Byte :=
  let b := v.unpub.head?
  numBytes 16 ((if v.bit then 1 else 0) + (if v.dirty then 2 else 0) + (if v.deferred then 4 else 0) +
    8 * ((b.map (fun x => x.2.2)).getD 0) + 2 ^ 43 * ((b.map (fun x => x.2.1)).getD 0) + (if b.isSome then 2 ^ 47 else 0))

/-- The synchronisation section: 576 bytes. -/
def syncBytes (T : Team) : List Byte :=
  (List.range 16).flatMap (fun b =>
    let x := getBar T b
    numBytes 16 (x.g.toNat + (if x.cv then 2 ^ 32 else 0) + 2 ^ 33 * x.c + 2 ^ 38 * x.a + 2 ^ 43 * x.p.toNat)) ++
  (List.range 64).flatMap (fun k => numBytes 1
    ((if tabGet false T.fph k then 1 else 0) + (if tabGet false T.eph k then 2 else 0))) ++
  (List.range 16).flatMap (fun i => viewBytes (((T.views[i]?).map SpView.st).getD {}))

/-- The scratchpad section: the window and its poison bits. -/
def windowBytes (c : Core) (T : Team) : List Byte :=
  (List.range T.spBytes).map (fun i => tabGet 0 c.scratch (T.spBase + i)) ++
  numBytes (T.spBytes / 256) (bitsNum (T.spBytes / 32) (fun g => tabGet false c.spPoison (T.spBase / 32 + g)))

/-- The code of a type (R29). -/
def tyNum (t : Ty) : Nat := (((List.range 16).find? (fun n => tyOfCode n == t))).getD 0

/-- The matrix section; the weight buffer's compressed contents are the part's own, free values from `k` on (log 2). -/
def matrixBytes (m : Matrix) (k : Nat) : List Byte :=
  (List.range 65536).flatMap (fun i => numBytes 4 (tabGet 0 m.acc i).toNat) ++
  numBytes 2048 (bitsNum 16384 (fun i => tabGet false m.marks i)) ++
  (List.range 4).flatMap (fun i => match m.chains[i]? with
    | none => zeros 16
    | some c => numBytes 16 (c.base + 2 ^ 9 * (c.m / 16 - 1) + 2 ^ 12 * (c.n / 16 - 1) + 2 ^ 15 * c.slot + 2 ^ 18 +
        2 ^ 32 * c.owner + 2 ^ 64 * c.mmas)) ++
  (List.range 16).flatMap (fun i => match tabFind m.tiles i with
    | none => zeros 16
    | some t => numBytes 16 (t.ub + 2 ^ 12 * t.units + 2 ^ 25 * (t.k / 16 - 1) + 2 ^ 28 * (t.n / 16 - 1) + 2 ^ 31 * tyNum t.efmt +
        2 ^ 39 * (t.sexp % 2 ^ 16).toNat + (if t.issued then 2 ^ 55 else 0))) ++
  (List.range 262144).map (fun i => (Config.freeVal (k + i)).setWidth 8)

/-- The grid section: the part's scan tag, the scan length, and the chain's contents, the part's own (log 2). -/
def gridBytes (k : Nat) : List Byte :=
  numBytes 8 Config.scanTag.toNat ++ numBytes 8 Config.scanLength ++
  (List.range Config.scanLength).map (fun i => (Config.freeVal (k + i)).setWidth 8)

/-! ## The image (R328) -/

/-- A section: its kind, its warp number and its bytes. -/
abbrev Section := Nat × Nat × List Byte

/-- The sections of a team that is saved. -/
def imageSections (s : State) (t : Nat) (T : Team) : List Section :=
  let now := diePtc s (dieOf T.core)
  let c := getCore s T.core
  (T.units.map (fun x => if x.1 = 16 then (2, 0, warpBytes now x.2 128) else (1, x.1, warpBytes now x.2 T.lrec.regs))) ++
  [(3, 0, syncBytes T), (4, 0, windowBytes c T)] ++
  (if c.mat.holder == some t then [(5, 0, matrixBytes c.mat s.free)] else []) ++
  (if c.grid.holder == some t then [(6, 0, gridBytes (s.free + 262144))] else [])

/-- Rounded up to 16. -/
def pad16 (n : Nat) : Nat := (n + 15) / 16 * 16

/-- Where each section begins. -/
def sectionOffsets : Nat → List Section → List (Nat × Section)
  | _, [] => []
  | o, x :: xs => (o, x) :: sectionOffsets (pad16 (o + x.2.2.length)) xs

/-- The header's 64 bytes with a STATE. -/
def imageHeader (s : State) (T : Team) (state kind nsec : Nat) : List Byte :=
  numBytes 4 0x5A435831 ++ numBytes 1 state ++ numBytes 1 kind ++ numBytes 1 nsec ++ zeros 1 ++ numBytes 4 T.seq ++
  numBytes 4 T.num ++ numBytes 8 (hubPtc s) ++ numBytes 2 T.core ++ zeros 38

/-- The whole image of a team, with STATE 0. -/
def imageBytes (s : State) (t : Nat) (T : Team) (kind : Nat) : List Byte :=
  let secs := imageSections s t T
  let placed := sectionOffsets (pad16 (64 + 16 * secs.length)) secs
  imageHeader s T 0 kind secs.length ++
  placed.flatMap (fun x => numBytes 2 x.2.1 ++ numBytes 2 x.2.2.1 ++ numBytes 4 x.2.2.2.length ++ numBytes 8 x.1) ++
  placed.flatMap (fun x => x.2.2.2 ++ zeros (pad16 x.2.2.2.length - x.2.2.2.length))

/-! ## Reading back (R327 step 1) -/

/-- The little-endian number of `n` bytes at an offset of a section. -/
abbrev Field := Nat → Nat → Nat

/-- The section of a kind and a warp number in the image at an address. -/
def sectionAt (s : State) (a kind warp : Nat) : Field :=
  let dir := fun (i : Nat) => a + 64 + 16 * i
  let n := (List.range (memNum s.mem (a + 6) 1)).find? (fun i => memNum s.mem (dir i) 2 == kind && memNum s.mem (dir i + 2) 2 == warp)
  let base := a + ((n.map (fun i => memNum s.mem (dir i + 8) 8)).getD 0)
  fun o k => memNum s.mem (base + o) k

/-- The trap code of a number. -/
def trapOfNum (n : Nat) : Option TrapCode :=
  [TrapCode.illegalMajor, .illegalMinor, .badHeader, .reservedBits, .engineRole, .partialMask, .align, .xlateNotMapped, .xlatePerm,
   .dataPoison, .bankConflict, .missedPromise, .barrierMismatch, .chainOrder, .accRange, .resourceKind, .codeIntegrity, .stack, .swTrap,
   .gridConfig, .stream, .watchdog, .bkpt, .externalTimeout, .splitOverflow, .preemptNotice].find? (fun c => trapNum c == n)

def sourceOfNum : Nat → TrapSource
  | 0 => .globalMem
  | 1 => .scratchpad
  | 2 => .codeFetch
  | 3 => .headerRead
  | _ => .engine

def roleOfNum : Nat → Role
  | 0 => .copy
  | 1 => .matrix
  | 2 => .vector
  | _ => .grid

def fragStateOf : Nat → FragState
  | 0 => .ready
  | 1 => .inFlight
  | 2 => .blocked
  | 3 => .parked
  | _ => .trapPending

def tokOfCode : Nat → TokState
  | 0 => .complete
  | 1 => .pending
  | 2 => .slow
  | 3 => .late
  | 4 => .failed
  | 5 => .withdrawn
  | _ => .cancelled

/-- An entry number, of which 32 is the root or no group (log 11). -/
def groupOf (n : Nat) : Option Nat := if n = 32 then none else some n

/-- The trap frame. -/
def readFrame (f : Field) : TrapFrame :=
  { code := trapOfNum (f 64 1), source := sourceOfNum (f 65 1), depth := f 66 1, entry := f 67 1
    info := BitVec.ofNat 64 (f 72 8), blk := f 80 8, mask := BitVec.ofNat 128 (f 88 16) }

/-- A token: what remains of a pending promise counts from now (step 2), and one whose deferred publish was cancelled meanwhile is
as the cancel left it (R186). -/
def readTok (f : Field) (now b : Nat) (k : SbTok) : SbTok :=
  let x := f (128 + 16 * b) 16
  if x.testBit 75 && k.deferred.isNone then k
  else
    let st := tokOfCode (x / 2 ^ 64 % 8)
    { k with state := st, code := trapOfNum (x / 2 ^ 67 % 256), promise := if st = .pending then now + x % 2 ^ 64 else k.promise }

/-- A split-table entry; the traps behind its first and the model's own fields are as they stood. -/
def readSplit (f : Field) (i : Nat) (e : SplitEntry) : SplitEntry :=
  let o := 1040 + 192 * i
  let first := (trapOfNum (f (o + 39) 1)).map (fun c =>
    (⟨c, sourceOfNum (f (o + 56) 1), BitVec.ofNat 64 (f (o + 48) 8), ((e.traps.head?.map PendTrap.blk).getD 0)⟩ : PendTrap))
  { e with
    mask := BitVec.ofNat 128 (f o 16), block := f (o + 16) 8, stamp := f (o + 24) 8, group := groupOf (f (o + 32) 1)
    ageing := f (o + 33) 1, state := fragStateOf (f (o + 34) 1)
    stack := ((List.range (min 16 (f (o + 35) 1))).map (fun j => f (o + 64 + 8 * j) 8)).reverse
    record := if f (o + 36) 1 = 1 then some ⟨f (o + 40) 8, f (o + 37) 1, groupOf (f (o + 38) 1)⟩ else none
    traps := first.toList ++ e.traps.drop 1, resume := 0, seen := 0 }

/-- A warp or the Bridle as its section gives it: the operand buffer empty and CT 0 (step 6); poison marks of q are no part of the
image. -/
def readUnit (f : Field) (now regs : Nat) (w : WUnit) : WUnit :=
  let arrival := fun (b : Nat) =>
    let x := f (256 + 8 * b) 8
    { (tabGet {} w.arrivals b) with gen := BitVec.ofNat 32 x, flag := x.testBit 32 }
  { w with
    tm := (f 0 1).testBit 0, role := roleOfNum (f 1 1), fflags := BitVec.ofNat 8 (f 8 4), bkpten := BitVec.ofNat 64 (f 16 8)
    frame := readFrame f
    toks := tabBuild {} 8 (fun b => readTok f now b (getTok w b))
    arrivals := tabBuild {} 16 arrival
    k := tabBuild 0 64 (fun n => BitVec.ofNat 64 (f (384 + 8 * n) 8))
    q := tabBuild false 1024 (fun i => (f (896 + i / 8) 1).testBit (i % 8))
    kPoison := tabBuild false 64 (fun n => (f (1024 + n / 8) 1).testBit (n % 8))
    splits := tabBuild {} 32 (fun i => readSplit f i (getSplit w i))
    vPoison := tabBuild false (128 * regs) (fun i => (f (7184 + i / 8) 1).testBit (i % 8))
    v := tabBuild 0 (128 * regs) (fun i => BitVec.ofNat 32 (f (7184 + 16 * regs + 4 * i) 4))
    qPoison := [], opBuf := [], ct := 0, tlast := none, ageing := 0 }

/-- A view as the synchronisation section gives it; the bytes still to count of its first deferred publish come from there too. -/
def readView (f : Field) (t i : Nat) (v : SpView) : SpView :=
  let x := f (320 + 16 * i) 16
  let first := if x.testBit 47 then [(t, x / 2 ^ 43 % 16, x / 8 % 2 ^ 40)] else []
  let st := { v.st with bit := x.testBit 0, dirty := x.testBit 1, deferred := x.testBit 2, unpub := first ++ v.st.unpub.drop 1 }
  { v with st := st }

/-- The team's barriers, rings and views as the synchronisation section gives them. -/
def readSync (f : Field) (t : Nat) (T : Team) : Team :=
  let bar := fun (b : Nat) =>
    let x := f (16 * b) 16
    ({ g := BitVec.ofNat 32 x, cv := x.testBit 32, c := x / 2 ^ 33 % 2 ^ 5, a := x / 2 ^ 38 % 2 ^ 5, p := BitVec.ofNat 40 (x / 2 ^ 43) } : Barrier)
  { T with
    bars := tabBuild {} 16 bar
    fph := tabBuild false 64 (fun k => (f (256 + k) 1).testBit 0)
    eph := tabBuild false 64 (fun k => (f (256 + k) 1).testBit 1)
    views := (T.views.zipIdx).map (fun v => readView f t v.2 v.1) }

/-- The matrix engine as its section gives it; the weight buffer's elements are the part's own. -/
def readMatrix (f : Field) (m : Matrix) : Matrix :=
  let chain := fun (i : Nat) =>
    let x := f (264192 + 16 * i) 16
    if x.testBit 18 then
      some (⟨x % 2 ^ 9, 16 * (x / 2 ^ 9 % 8 + 1), 16 * (x / 2 ^ 12 % 8 + 1), x / 2 ^ 15 % 8, x / 2 ^ 32 % 2 ^ 32, x / 2 ^ 64 % 2 ^ 32⟩ : Chain)
    else none
  let tile := fun (i : Nat) (t : Tile) =>
    let x := f (264256 + 16 * i) 16
    { t with ub := x % 2 ^ 12, units := x / 2 ^ 12 % 2 ^ 13, k := 16 * (x / 2 ^ 25 % 8 + 1), n := 16 * (x / 2 ^ 28 % 8 + 1)
             efmt := tyOfCode (x / 2 ^ 31), sexp := sxNat 16 (x / 2 ^ 39), issued := x.testBit 55 }
  { m with
    acc := tabBuild 0 65536 (fun i => BitVec.ofNat 32 (f (4 * i) 4))
    marks := tabBuild false 16384 (fun i => (f (262144 + i / 8) 1).testBit (i % 8))
    chains := (List.range 4).filterMap chain
    tiles := tabMapD {} tile m.tiles }

end Sys2Proof.Machine
end

