-- ==== Sys2Proof/Machine/Save.lean ====
section
/-! DEFINITION. Pre-emption (R322), discard (R323), save (R324 to R326) and restore (R327, R335) of a team. -/

namespace Sys2Proof.Machine

/-! ## The request (R322) -/

/-- PREEMPT_NOTICE pending on a unit's oldest fragment. -/
def noticeUnit (t reason : Nat) (s : State) (u : Nat) : State :=
  match getUnit s t u with
  | none => s
  | some w =>
    if w.done then s
    else match oldestFrag w with
      | none => s
      | some i => pendTrap s t u i ⟨.preemptNotice, .engine, BitVec.ofNat 64 reason, (getSplit w i).block⟩

/-- A pre-emption request: placement stops on the core, every unit has its notice, and the units stop at their next
boundaries unless a barrier is partly arrived (R325). -/
def preemptTeam (s : State) (t reason : Nat) : State :=
  match getTeam s t with
  | none => s
  | some T =>
    if T.preempt.isSome || T.retired || T.term.isSome then s
    else
      let s := updTeam s t (fun T => latchStop { T with preempt := some (reason, s.ptc) })
      T.units.foldl (fun s x => noticeUnit t reason s x.1) s

/-- Every team of a list of cores that a predicate holds of. -/
def preemptTeams (s : State) (p : Team → Bool) (reason : Nat) : State :=
  s.teams.foldl (fun s x => if p x.2 then preemptTeam s x.1 reason else s) s

/-- The core of a logical number changes under a staged layout: its place, its partition, or its tenant's binding. -/
def coreMoved (s : State) (l : Layout) (T : Team) : Bool :=
  let p := (getTenant s T.vf).cfg.part
  l.place.getD T.core 0 != tabGet 0 s.place T.core ||
  !(l.parts.any (fun q => q.id == p && q.groups.contains (T.core / 4))) ||
  !(l.tenants.any (fun c => c.vf == T.vf && c.part == p))

/-- The reasons that a request may have now (R322): the end of the tenant's slice, or a staged layout. -/
def preemptDue (s : State) (T : Team) (reason : Nat) : Bool :=
  match reason with
  | 1 => (match getPart s (getTenant s T.vf).cfg.part with
    | some P => P.step == .preempt && P.current == some T.vf
    | none => false)
  | 2 | 3 => (match s.staged with
    | some l => coreMoved s l T
    | none => false)
  | _ => false

/-! ## Stopping at boundaries (R324 step 1, R325) -/

/-- The wait of a unit's block is over: its barrier, bit, tokens or cycle have come, and it only has to go on. -/
def waitOver (s : State) (t u : Nat) (f : Flight) : Bool :=
  match f.wait, issOf s t u with
  | some x, some i => waitEnd s i x != .hold
  | _, _ => false

/-- The wait of a block that a save aborts (R324): one that its instruction is in, or for a queue. A WAIT field or a busy token
holds no block back: it runs to its commit. -/
def abortsIn (f : Flight) : Bool := f.wait.isSome || f.waitKind == .queue

/-- The record of a warp whose BAR a save aborts: made again after the restore, the arrival only joins its generation (R325). -/
def markRejoin (s : State) (t u : Nat) : State :=
  match issOf s t u with
  | none => s
  | some i => match i.f.wait, wordOf i with
    | some (.barrier b), some (.bar, _) => updUnit s t u (fun w =>
        { w with arrivals := tabSet {} w.arrivals b { (tabGet {} w.arrivals b) with rejoin := true } })
    | _, _ => s

/-- Every waiting block of a team that stops aborts, unless its wait is over; one of a handler goes on, but under a
forced save. -/
def abortWaiting (s : State) (t : Nat) : State :=
  match getTeam s t with
  | none => s
  | some T => T.units.foldl (fun y x => match x.2.flight with
    | some f =>
      if abortsIn f && !waitOver s t x.1 f && (T.waiver || !(x.2.tm && (getSplit x.2 f.frag).handler)) then
        abortBlock (markRejoin y t x.1) t x.1
      else y
    | none => y) s

/-- The save of a team begins, or waits that began since abort. -/
def stopTeam (s : State) (t : Nat) (forced : Bool) : State :=
  abortWaiting (updTeam s t (fun T => { T with saving := true, waiver := T.waiver || forced })) t

/-! ## Discard (R323) -/

/-- What a discard drops at once: the matrix instructions that have not started, and the grid as GSTOP with DROP. -/
def dropEnginesOf (s : State) (t core : Nat) : State :=
  let s := updCore s core (fun c =>
    let m := { c.mat with queue := c.mat.queue.filter (fun o => o.team != t || o.started) }
    { c with mat := m })
  if (getGrid s core).holder != some t then s
  else updGrid (discardStaged s core) core (fun g => if g.active.isNone || g.stopped || g.stopping then g else stopGrid g false)

/-- The team returns to its launch as never placed. Its completion records stay until the launch retires. -/
def discardTeam (s : State) (t : Nat) (T : Team) : State :=
  let s := freeTeam (chargeTeam s t) t
  let s := updTeam s t (fun T =>
    { T with retired := true, image := none, units := tabMap (fun _ w => { w with done := true, flips := [] }) T.units })
  updLaunch s T.vf T.seq (fun l => { l with teams := tabPut l.teams T.num .unplaced })

/-- A team that is to be discarded stops: its blocks in flight abort, but for those of a handler (R323). -/
def abortFlights (s : State) (t : Nat) (T : Team) : State :=
  T.units.foldl (fun s x => match x.2.flight with
    | some _ => if x.2.tm then s else abortBlock s t x.1
    | none => s) (updTeam s t (fun T => { T with saving := true }))

/-- PREEMPT_REQUEST (R322, R323): the request; then the stop of a team that is to be discarded; and, once it has stopped, its
discard, whose requests already sent run to their end first. -/
def execPreemptRequest (t reason : Nat) (s : State) : Result :=
  match getTeam s t with
  | none => .next s
  | some T =>
    if T.retired || T.term.isSome then .next s
    else if T.preempt.isNone then .next (if preemptDue s T reason then preemptTeam s t reason else s)
    else if !discardable s T then .next s
    else if !allStopped T then .next (abortFlights s t T)
    else if chargeBehind s T then .next s
    else
      let s := dropEnginesOf s t T.core
      if requestsEnded s t T then .next (discardTeam s t T) else .next s

/-! ## Save (R324) -/

/-- Copy requests have run to their end, but for the auto-publishes to defer and the CREDs in flight. -/
def copiesEnded (s : State) (t : Nat) (T : Team) : Bool :=
  (getCore s T.core).copyQ.all (fun r => r.team != t || (r.kind == .cred && r.phase == .running) || (r.ap && r.phase == .landed))

/-- The completion records are empty and the recorded flips performed. -/
def recordsEmpty (s : State) (t : Nat) (T : Team) : Bool :=
  !s.reqs.any (fun r => r.team == t) && !s.loads.any (fun l => l.team == t && l.unit != noUnit) &&
  !(getCore s T.core).satoms.any (fun r => r.team == t) &&
  T.units.all (fun x => x.2.atomics == 0 && x.2.hostOut == 0 && x.2.flips.isEmpty && x.2.cinvs.isEmpty &&
    x.2.ct < diePtc s (dieOf T.core))

/-- Steps 1 to 4 are done. -/
def saveReady (s : State) (t : Nat) (T : Team) : Bool :=
  saveStopped s T && !chargeBehind s T && copiesEnded s t T && recordsEmpty s t T &&
  !(getCore s T.core).mat.queue.any (fun o => o.team == t)

/-- An auto-publish put off to the restore: the token and a scratchpad view are marked, and the bytes are counted by the
publish. -/
def deferPublish (s : State) (r : CopyReq) : State :=
  let s := match r.sb with
    | some b => updUnit s r.team r.unit (fun w =>
        if (getTok w b).req = r.id then setTok w b { (getTok w b) with deferred := r.view } else w)
    | none => s
  match r.view with
  | none => s
  | some v => updView s v (fun x =>
      { x with deferred := true
               unpub := match r.bv with
                 | some b => x.unpub ++ [(r.team, b, destTotal r - r.counted)]
                 | none => x.unpub })

/-- The images that lie in memory or are being written, by address and length. -/
def imageSpans (s : State) : List (Nat × Nat) :=
  s.tenants.flatMap (fun V => V.2.saved.map (fun x => (x.addr, x.size))) ++ s.teams.filterMap (fun x => x.2.image)

/-- Memory that the management processor may reserve for an image of a tenant's team (R328): 16-byte aligned, in tier-1 pages of the
tenant's partition that no tenant maps, and apart from every other image. -/
def imagePlace (s : State) (vf addr n : Nat) : Bool :=
  let first := addr / 2 ^ 16
  let pages := (addr + n - 1) / 2 ^ 16 + 1 - first
  addr % 16 == 0 && paKind s addr == .tier1 && paKind s (addr + n - 1) == .tier1 &&
  (match getPart s (getTenant s vf).cfg.part with
   | some P => (List.range pages).all (fun i => inRuns P.tier1 (first + i))
   | none => false) &&
  s.tenants.all (fun V => !(leaves s V.1).any (fun l => spansMeet first pages l.2.1 l.2.2)) &&
  !(imageSpans s).any (fun x => spansMeet addr n x.1 x.2)

/-- An image begins at a place that can be reserved: its header is written, with STATE 0 (R324, R328). -/
def beginImage (s : State) (t : Nat) (T : Team) (addr : Nat) : State :=
  let img := imageBytes s t T (if T.waiver then 2 else 1)
  if imagePlace s T.vf addr img.length then
    updTeam (homeWrite s addr (img.take 64)) t (fun T => { T with image := some (addr, img.length) })
  else s

/-- The team leaves its core: its image is written, STATE last, and it is held as saved (steps 5 and 6). -/
def writeImage (s : State) (t : Nat) (T0 : Team) (addr : Nat) : State :=
  let aps := (getCore s T0.core).copyQ.filter (fun r => r.team == t && r.kind != .cred)
  let creds := (getCore s T0.core).copyQ.filter (fun r => r.team == t && r.kind == .cred && r.phase == .running)
  let aps := aps ++ (getCore s T0.core).copyQ.filter (fun r => r.team == t && r.kind == .cred && r.phase != .running)
  let s := chargeTeam (aps.foldl deferPublish s) t
  match getTeam s t with
  | none => s
  | some T =>
    let img := imageBytes s t T (if T.waiver then 2 else 1)
    let c := getCore s T.core
    let sv : SavedTeam :=
      { addr := addr, size := img.length, id := t, team := { T with image := none }
        mat := if c.mat.holder == some t then some c.mat else none
        grid := if c.grid.holder == some t then some c.grid else none
        publishes := aps.filter (fun r => r.ap && r.view.isSome) }
    let s := homeWrite (homeWrite s addr img) (addr + 4) [1]
    let s := updCore s T.core (fun c => { c with copyQ := c.copyQ.filter (fun r => r.team != t) })
    let s := freeTeam { s with creds := s.creds ++ creds.map (fun r => ⟨r, T.core, none⟩), free := s.free + 262144 + Config.scanLength } t
    let s := { s with teams := tabErase s.teams t }
    let s := updTenant s T.vf (fun V => { V with saved := V.saved ++ [sv] })
    updLaunch s T.vf T.seq (fun l => { l with teams := tabPut l.teams T.num .saved })

/-- A save goes on: its team stops, unless it is to be discarded its image begins, and when steps 1 to 4 are done the image is
written (R323, R324). -/
def saveStep (s : State) (t : Nat) (T : Team) (addr : Nat) (forced : Bool) : State :=
  match T.image with
  | none =>
    let s := stopTeam s t forced
    match getTeam s t with
    | some T => if saveStopped s T then beginImage s t T addr else s
    | none => s
  | some (a, _) => if saveReady s t T then writeImage s t T a else stopTeam s t forced

/-- CONTEXT_SAVE (R324, R325): the team stops once no barrier is partly arrived; its image goes to a physical address. -/
def execContextSave (t addr : Nat) (s : State) : Result :=
  match getTeam s t with
  | none => .next s
  | some T =>
    if T.preempt.isNone || T.retired || T.term.isSome || !T.saving then .next s else .next (saveStep s t T addr false)

/-- The deferral limit of a launch, in cycles (R325). -/
def deferLimit (T : Team) : Nat := 1050 * (if T.lrec.defer = 0 then 100 else T.lrec.defer)

/-- FORCED_SAVE (R325): past the deferral limit the save goes on even with a barrier partly arrived or in a handler. -/
def execForcedSave (t addr : Nat) (s : State) : Result :=
  match getTeam s t with
  | none => .next s
  | some T => match T.preempt with
    | none => .next s
    | some (_, since) =>
      if T.retired || T.term.isSome || s.ptc < since + deferLimit T then .next s else .next (saveStep s t T addr true)

/-! ## Restore (R327, R335) -/

/-- The units of a saved team as its image brings them back. -/
def restoreUnits (s : State) (x : SavedTeam) (now : Nat) : Tab WUnit :=
  tabMap (fun u w =>
    if u = 16 then settle (readUnit (sectionAt s x.addr 2 0) now 128 w)
    else settle (readUnit (sectionAt s x.addr 1 u) now x.team.lrec.regs w)) x.team.units

/-- A saved team's CRED is complete and its auto-publish is put off to the restore. -/
def credDeferred (x : CredInst) : Bool := x.outcome == some .complete && x.copy.ap

/-- The CREDs of a restored team (R327 step 3): one in flight goes on in the new core's queue, and one that is complete ends there; the
token of one that ended otherwise says so. What they changed of views and barriers is done. -/
def restoreCred (core : Nat) (s : State) (x : CredInst) : State :=
  let r := x.copy
  match x.outcome with
  | none | some .complete => updCore s core (fun c => { c with copyQ := c.copyQ ++ [r] })
  | some .failed =>
    let k := r.fault.getD (.resourceKind, 0)
    failToken s r k.1 k.2
  | some st => completeTok s r.team r.unit r.sb r.id st

/-- Deferred auto-publishes are performed (step 4): the requests stand in the queue again with their bytes counted by the view,
and each view into which no request is in flight is published (R185), unless a publish has covered the request since. A token completes
with its publish, for a global view when its GWCT has passed (R181). -/
def restorePublishes (s : State) (t core : Nat) (l : List CopyReq) : State :=
  let back := l.map (fun r => { r with counted := destTotal r, kept := [] })
  let s := updCore s core (fun c => { c with copyQ := c.copyQ ++ back })
  let s := updUnits s t (fun _ w => { w with toks := tabMapD {} (fun _ k => { k with deferred := none }) w.toks })
  let s := (((l.filter (fun r => r.phase != .published)).filterMap CopyReq.view).eraseDups).foldl (fun s v =>
    let s := updView s v (fun x => { x with deferred := false })
    if ((getView s v).map ViewSt.count).getD 0 = 0 then publishView s v else s) s
  ((getCore s core).copyQ.filter (fun r => r.team == t && r.phase == .published && r.gwct == 0)).foldl
    (fun s r => endCopy s core r .complete) s

/-- An image that cannot be restored: the reason of its launch's end (R327). A grid section of another part's tag is one (R330). -/
def imageBad (s : State) (x : SavedTeam) : Option Nat :=
  if rangePoisoned s x.addr x.size then some 0x0A
  else if memNum s.mem (x.addr + 4) 1 != 1 || (x.grid.isSome && sectionAt s x.addr 6 0 0 8 != Config.scanTag.toNat) then some 0
  else none

/-- The window of a restored team in its core's scratchpad, from the image's section. -/
def restoreWindow (f : Field) (base n : Nat) (c : Core) : Core :=
  { c with
    scratch := c.scratch.filter (fun y => y.1 < base) ++ (tabBuild 0 n (fun i => BitVec.ofNat 8 (f i 1))).map (fun y => (base + y.1, y.2)) ++
      c.scratch.filter (fun y => base + n ≤ y.1)
    spPoison := c.spPoison.filter (fun y => 32 * y.1 < base) ++
      (tabBuild false (n / 32) (fun g => (f (n + g / 8) 1).testBit (g % 8))).map (fun y => (base / 32 + y.1, y.2)) ++
      c.spPoison.filter (fun y => base + n ≤ 32 * y.1) }

/-- A saved team as its image brings it back on a core; what other teams' publishes have settled meanwhile is taken from its
barriers (R188). -/
def restoredTeam (s : State) (x : SavedTeam) (core base : Nat) (pages : List Nat) : Team :=
  let T := readSync (sectionAt s x.addr 3 0) x.id x.team
  let T := { T with core := core, spBase := base, pages := pages, since := s.ptc, preempt := none, saving := false
                    waiver := false, trapsFirst := true, wd := 0, units := restoreUnits s x (diePtc s (dieOf core)) }
  x.owed.foldl (fun T b => barTake T b.1 b.2) T

/-- The team on its core again, as its image holds it. -/
def restoreOn (s : State) (x : SavedTeam) (core base : Nat) (pages : List Nat) : State :=
  let T := restoredTeam s x core base pages
  let mat := x.mat.map (fun m => { (readMatrix (sectionAt s x.addr 5 0) m) with
    rampL := 4, used := 0, bubbleRun := 0, idle := true, windowAt := s.ptc, holder := some x.id })
  let grid := x.grid.map (fun g => { g with holder := some x.id, lastCycle := s.ptc })
  let window := sectionAt s x.addr 4 0
  let s := { s with teams := tabPut s.teams x.id T }
  let s := updCore s core (fun c => restoreWindow window base T.spBytes { c with mat := mat.getD c.mat, grid := grid.getD c.grid })
  let mine := s.creds.filter (fun y => y.copy.team == x.id)
  let s := (mine.filter (fun y => !credDeferred y)).foldl (restoreCred core) { s with creds := s.creds.filter (fun y => y.copy.team != x.id) }
  restorePublishes s x.id core (x.publishes ++ (mine.filter credDeferred).map CredInst.copy)

/-- CONTEXT_RESTORE (R327): a saved team is placed and its image read back, or its launch ends with status 3. -/
def execContextRestore (vf idx : Nat) (s : State) : Result :=
  match (getTenant s vf).saved[idx]? with
  | none => .next s
  | some x => match restoreFit s x with
    | none => .next s
    | some (core, base, pages) =>
      let T := x.team
      let s := updTenant s vf (fun V => { V with saved := V.saved.eraseIdx idx })
      match imageBad s x with
      | some reason =>
        let s := { s with creds := s.creds.filter (fun y => y.copy.team != x.id || y.outcome.isNone) }
        let s := updLaunch s vf T.seq (fun l => { l with teams := tabPut l.teams T.num .retired })
        .next (teamRecord (terminateLaunch s vf T.seq 3 reason) T 8 0 0 x.addr)
      | none =>
        let s := restoreOn s x core base pages
        .next (updLaunch s vf T.seq (fun l => { l with teams := tabPut l.teams T.num (.placed x.id) }))

end Sys2Proof.Machine
end

