-- ==== Sys2Proof/Machine/Tenancy.lean ====
section
/-! DEFINITION. Partitions and slices (R302, R306), the Saddlebag (R304, R305), the Burnisher (R307, R308), layout changes
(R303, R21 to R24) and resets (R331 to R333). -/

namespace Sys2Proof.Machine

/-! ## Slices (R302, R306) -/

/-- One millisecond in cycles of 1.05 GHz (R25). -/
def msCycles : Nat := 1050000

/-- A tenant's slice: 100 ms to 10 s. -/
def sliceCycles (c : TenantCfg) : Nat := msCycles * max 100 (min 10000 c.sliceMs)

/-- The tenants bound to a partition, in ascending VF number. -/
def boundTenants (s : State) (part : Nat) : List Nat :=
  (s.tenants.filter (fun x => x.2.bound && x.2.cfg.part == part)).map Prod.fst

/-- A tenant has work (R302). -/
def hasWork (s : State) (vf : Nat) : Bool :=
  let V := getTenant s vf
  !V.ready.isEmpty || !V.saved.isEmpty || V.scans.any (fun x => match rcbAt s vf (regionAddr s vf x.rnum) with
    | some b => b.lhead != b.ltail
    | none => false)

/-- The next tenant in turn that has work, other than `a`. -/
def nextTenant (s : State) (part a : Nat) : Option Nat :=
  let l := (boundTenants s part).filter (fun v => v != a && hasWork s v)
  (l.find? (fun v => a < v)).orElse (fun _ => l.head?)

/-- SLICE_END (R306, R304): the recorded bits age, and the switch to the next tenant begins with the pre-emption of the
teams; with no other tenant that has work a further slice follows. -/
def execSliceEnd (part : Nat) (s : State) : Result :=
  match getPart s part with
  | none => .next s
  | some P => match P.current with
    | none => .next s
    | some a =>
      if P.step != .slice || s.ptc < P.since + sliceCycles (getTenant s a).cfg then .next s
      else
        let s := updTenant s a (fun V => { V with older := V.bits, bits := [] })
        match nextTenant s part a with
        | none => .next (updPart (updTenant s a (fun V => { V with roots := [] })) part (fun P =>
            { P with since := s.ptc, promoting := none }))
        | some b =>
          let s := updPart s part (fun P => { P with step := .preempt, next := some b })
          .next (preemptTeams s (fun T => T.vf == a) 1)

/-- PROMOTION_START (R306 step 1): from the lead time before the slice ends, the next tenant's working set is promoted. -/
def execPromotionStart (part : Nat) (s : State) : Result :=
  match getPart s part with
  | none => .next s
  | some P => match P.current with
    | none => .next s
    | some a =>
      let c := (getTenant s a).cfg
      if P.step != .slice || s.ptc + msCycles * c.leadMs < P.since + sliceCycles c then .next s
      else .next (updPart s part (fun P => { P with promoting := nextTenant s part a }))

/-- A tenant's pages in tier 1 that the Saddlebag moves. -/
def residentPages (s : State) (vf : Nat) : List Nat :=
  ((leaves s vf).filter (fun l => l.1 == 0 && paKind s (l.2.1 * 2 ^ 16) == .tier1)).map (fun l => l.2.1)

/-- SLICE_BEGIN (R306 step 6, R302): the next tenant's slice, once the outgoing one's resident pages are demoted, or the first slice
of a partition. -/
def execSliceBegin (part : Nat) (s : State) : Result :=
  match getPart s part with
  | none => .next s
  | some P =>
    let start := fun (b : Nat) => updPart s part (fun P =>
      { P with current := some b, since := s.ptc, step := .slice, next := none, promoting := none })
    match P.step, P.current, P.next with
    | .demote, some a, some b =>
      if (getTenant s a).resetting || !(residentPages s a).isEmpty then .next s else .next (start b)
    | .slice, none, _ => match (boundTenants s part).find? (hasWork s) with
      | some b => .next (start b)
      | none => .next s
    | _, _, _ => .next s

/-! ## The Saddlebag (R305) -/

/-- The address of the level-0 entry of a page, where the walk reaches one. -/
def leafSlot (s : State) (va : Nat) : Nat → Nat → Option Nat
  | 0, base => some (cellOf base + 8 * (va / 2 ^ 16 % 32))
  | lvl + 1, base =>
    let e := memNum s.mem (cellOf base + 8 * (va / 2 ^ (21 + 9 * lvl) % 512)) 8
    if e.testBit 2 then none else leafSlot s va lvl (e / 2 ^ 16 % 2 ^ 41 * 2 ^ 16)

/-- The cap of a slot: the largest T1B of the regions that use it and have work; nothing where it is unlimited. -/
def slotCap (s : State) (vf slot : Nat) : Option Nat :=
  let V := getTenant s vf
  let caps := V.cfg.regions.filterMap (fun r => match rcbChain s vf r.2 with
    | some (b :: bs) =>
      if effSlot (b :: bs) == slot && (V.ready.any (fun l => l.rnum == r.1) || b.lhead != b.ltail) then some (effT1b (b :: bs))
      else none
    | _ => none)
  if caps.any (fun c => c == 0) then none else some (caps.foldl max 0)

/-- A page may be promoted for a slot that records it, below the slot's cap. -/
def slotPromotes (s : State) (vf page : Nat) : Bool :=
  let V := getTenant s vf
  (List.range 16).any (fun k => (recordedUnits V k).contains page && (match slotCap s vf k with
    | none => true
    | some c => residentBytes s V k < c))

/-- The tier-1 pages that a tenant's promotions may take now (R302, R306): in its slice those of its partition; before it, from the
lead time on, the headroom that no partition is allocated; and between the slices both (log 25). -/
def promoteInto (s : State) (vf dest : Nat) : Bool :=
  match getPart s (getTenant s vf).cfg.part with
  | none => false
  | some P =>
    let own := inRuns P.tier1 dest
    let spare := s.parts.all (fun p => !inRuns p.2.tier1 dest)
    (P.step == .slice && P.current == some vf && own) || (P.promoting == some vf && spare) ||
      (P.step == .demote && P.next == some vf && (own || spare))

/-- A page may be promoted to a place. -/
def mayPromote (s : State) (vf page dest : Nat) : Bool := slotPromotes s vf page && promoteInto s vf dest

/-- The tiers that the Saddlebag moves pages between: CXL memory where the firmware has added it to tier 2 (R345). -/
def saddleTier (s : State) (p : Nat) : Bool :=
  match paKind s (p * 2 ^ 16) with
  | .tier1 | .tier2 => true
  | .cxl => s.boot.cxlUse.getLsbD (if p * 2 ^ 16 < 0x180000000000 then 0 else 1)
  | _ => false

/-- A physical address after the move of a page. -/
def rehome (src dst pa : Nat) : Nat := if pa / 2 ^ 16 = src then dst * 2 ^ 16 + pa % 2 ^ 16 else pa

def rehomeWait (src dst : Nat) : Wait → Wait
  | .word a pa wide h c v d n x => .word a (rehome src dst pa) wide h c v d n x
  | x => x

/-- A unit's held stores and its WAITX follow the page. -/
def rehomeUnit (src dst : Nat) (w : WUnit) : WUnit :=
  { w with flight := w.flight.map (fun f =>
      { f with stores := f.stores.map (fun h => if h.scratch then h else { h with pa := rehome src dst h.pa })
               wait := f.wait.map (rehomeWait src dst) }) }

/-- Access bits that move with their unit. -/
def moveBits (src dst : Nat) (b : Tab Bool) : Tab Bool :=
  (b.filter (fun x => x.1 % 2 ^ 48 == src)).foldl (fun t x => tabSet false t (x.1 / 2 ^ 48 * 2 ^ 48 + dst) true)
    (b.filter (fun x => x.1 % 2 ^ 48 != src && x.1 % 2 ^ 48 != dst))

/-- The bytes and the poison marks of a page copied to another. -/
def copyPage (s : State) (src dst : Nat) : State :=
  let mine := s.mem.filter (fun c => c.1 / 2 ^ 16 == src)
  let marks := s.memPoison.filter (fun c => c.1 / 2 ^ 11 == src)
  { s with
    mem := mine.foldl (fun m c => memSetByte m (dst * 2 ^ 16 + c.1 % 2 ^ 16) c.2) (s.mem.filter (fun c => c.1 / 2 ^ 16 != dst))
    memPoison := marks.foldl (fun m c => tabSet false m (dst * 2 ^ 11 + c.1 % 2 ^ 11) c.2)
      (s.memPoison.filter (fun c => c.1 / 2 ^ 11 != dst)) }

/-- The move of a page as one event: its bytes, its leaf, its bits, its hash mark, the requests that wait for it, and the
TLB entries. A code page that stood at the place before is there no more. -/
def movePage (s : State) (vf va pte src dst : Nat) : State :=
  let s := copyPage s src dst
  let e := memNum s.mem pte 8
  let s := homeWrite s pte (numBytes 8 (e % 2 ^ 16 + 2 ^ 16 * dst + e / 2 ^ 57 * 2 ^ 57))
  let s := updTenant s vf (fun V =>
    { V with
      bits := moveBits src dst V.bits, older := moveBits src dst V.older
      objs := V.objs.map (fun o =>
        let ps := (o.pages.filter (fun p => p.ppage != dst)).map (fun p => if p.ppage = src then { p with ppage := dst } else p)
        { o with pages := ps }) })
  let s := { s with
    reqs := s.reqs.map (fun r => if r.vf = vf then { r with pa := rehome src dst r.pa } else r)
    loads := s.loads.map (fun l => if l.vf = vf then { l with pa := rehome src dst l.pa } else l)
    teams := tabMap (fun _ T => if T.vf = vf then { T with units := tabMap (fun _ w => rehomeUnit src dst w) T.units } else T) s.teams
    dies := tabMapD {} (fun _ d => { d with copies := d.copies.filter (fun c => c.line / 512 != src && c.line / 512 != dst) }) s.dies }
  dropTlb s vf (va % 2 ^ 57 / 2 ^ 16)

/-- A page is a table or a leaf's of a tenant's tables. -/
def usesPage (s : State) (p : Nat) : Nat → Nat → Bool
  | 0, base => base / 2 ^ 16 == p || (List.range 32).any (fun i =>
      let e := memNum s.mem (cellOf base + 8 * i) 8
      e.testBit 0 && e / 2 ^ 16 % 2 ^ 41 == p)
  | lvl + 1, base => base / 2 ^ 16 == p || (List.range 512).any (fun i =>
      let e := memNum s.mem (cellOf base + 8 * i) 8
      let b := e / 2 ^ 16 % 2 ^ 41
      e.testBit 0 && (if e.testBit 2 then b ≤ p && p < b + 2 ^ (5 + 9 * lvl) else usesPage s p lvl (b * 2 ^ 16)))

/-- A page that nothing is in but data: no tenant maps it or has a table in it, and no image lies there (R328). -/
def pageSpare (s : State) (p : Nat) : Bool :=
  s.tenants.all (fun V => !usesPage s p 4 V.2.cfg.root) && !(imageSpans s).any (fun x => spansMeet (p * 2 ^ 16) (2 ^ 16) x.1 x.2)

/-- SADDLEBAG_PAGE_MOVE (R305): one 64 KiB page goes to a free physical page that the firmware picked. -/
def execSaddlebagPageMove (vf va dest : Nat) (s : State) : Result :=
  match walk s vf va with
  | .error _ => .next s
  | .ok e => match leafSlot s va 4 (getTenant s vf).cfg.root with
    | none => .next s
    | some pte =>
      let tier := fun (p : Nat) => paKind s (p * 2 ^ 16)
      if e.ppage = dest || !saddleTier s e.ppage || !saddleTier s dest ||
          s.claims.any (fun c => c.page == e.ppage || c.page == dest) || !pageSpare s dest ||
          (tier dest == .tier1 && tier e.ppage != .tier1 && !mayPromote s vf e.ppage dest) then .next s
      else .next (movePage s vf va pte e.ppage dest)

/-! ## The Burnisher (R307, R308) -/

/-- Core-µs charged to the outgoing tenant's root regions, by the core time that each used in the slice. -/
def chargeRoots (s : State) (vf us : Nat) : State :=
  let roots := (getTenant s vf).roots
  let total := (roots.map Prod.snd).sum
  if total = 0 then s
  else roots.foldl (fun s r => match rcbAt s vf (regionAddr s vf r.1) with
    | some b => homeStore s vf (b.addr + 48) 8 ((b.used + us * r.2 / total) % 2 ^ 64)
    | none => s) s

/-- Every per-core state cleared on some cores, and a tenant's entries of the die TLBs. -/
def clearCores (s : State) (cs : List Nat) (vf : Nat) : State :=
  { s with
    cores := s.cores.filter (fun c => !cs.contains c.1)
    dies := tabMapD {} (fun _ d => { d with tlb := d.tlb.filter (fun e => e.vf != vf) }) s.dies }

/-- A run over cores of a tenant, charged to it. Its length, at most 16,384 cycles, is a free value (log 2). -/
def burnish (s : State) (cs : List Nat) (vf : Nat) : State :=
  let (s, k) := freshFree s
  chargeRoots (clearCores s cs vf) vf (((Config.freeVal k).toNat % 16384 + 1) * cs.length / 1050)

/-- Nothing of a tenant is left on its cores or on the way. -/
def tenantQuiet (s : State) (P : Partition) (vf : Nat) : Bool :=
  !s.teams.any (fun x => x.2.vf == vf && !x.2.retired) && !s.reqs.any (fun r => r.vf == vf) &&
  !s.loads.any (fun l => l.vf == vf) &&
  (partCores s P).all (fun c => let k := getCore s c; k.copyQ.isEmpty && k.mat.queue.isEmpty && k.satoms.isEmpty)

/-- A tenant's claims return to the hub (R163). -/
def returnClaims (s : State) (vf : Nat) : State := { s with claims := s.claims.filter (fun c => c.vf != vf) }

/-- BURNISHER_RUN (R306 steps 3 and 4, R331 step 7). -/
def execBurnisherRun (part : Nat) (s : State) : Result :=
  match getPart s part with
  | none => .next s
  | some P => match P.current with
    | none => .next s
    | some a =>
      let run := fun (s : State) => updTenant (burnish s (partCores s P) a) a (fun V => { V with resetting := false, roots := [] })
      if P.step == .preempt then
        if tenantQuiet s P a then
          .next (updPart (run (returnClaims s a)) part (fun P => { P with step := .demote }))
        else .next s
      else if (getTenant s a).resetting then .next (run s)
      else .next s

/-! ## Layouts (R21 to R24, R302, R303) -/

/-- No element of a list occurs twice. -/
def distinct : List Nat → Bool
  | [] => true
  | x :: xs => !xs.contains x && distinct xs

/-- A core place entry that may be staged (R20, R21, R22). -/
def placeOk (s : State) (n : Nat) (e : BitVec 32) : Bool :=
  let x := e.toNat
  if !e.getLsbD 31 then x == 0
  else
    let die := if s.boot.mode == .halter then s.boot.cdie else n / 36
    x / 2 ^ 27 % 16 == 0 && x / 2 ^ 6 % 2 ^ 10 == 0 && x % 64 < 40 && x / 2 ^ 24 % 8 == die &&
    (s.boot.mode != .halter || n < 36) && !s.retiredCores.contains (64 * die + x % 64) &&
    distinct ((List.range 4).map (fun i => x / 2 ^ (16 + 2 * i) % 4))

/-- The physical core of an entry, by 64 × die + core. -/
def placePhys (e : BitVec 32) : Nat := 64 * (e.toNat / 2 ^ 24 % 8) + e.toNat % 64

/-- A tenant's configuration that may be staged: an existing tenant (R302, R348), a partition of the layout, and a locked
interface's binding unchanged (R342). -/
def tenantCfgOk (s : State) (l : Layout) (c : TenantCfg) : Bool :=
  let V := getTenant s c.vf
  (if s.boot.mode == .halter then c.vf == 0 else 1 ≤ c.vf && c.vf ≤ 64) && l.parts.any (fun p => p.id == c.part) &&
  c.ports.all (fun p => p < 12) && c.groups.all (fun g => g.1 < 64) && c.regions.all (fun r => r.1 < 4096) &&
  ((V.tdisp != .configLocked && V.tdisp != .run) || (c.part == V.cfg.part && c.root == V.cfg.root))

/-- Runs of pages that do not meet. -/
def runsApart : List (Nat × Nat) → Bool
  | [] => true
  | x :: xs => xs.all (fun y => !spansMeet x.1 x.2 y.1 y.2) && runsApart xs

/-- The spare cores of a die under a layout, lowest first. -/
def spares (s : State) (l : Layout) (die : Nat) : List Nat :=
  (List.range 40).filter (fun p => !s.retiredCores.contains (64 * die + p) &&
    !l.place.any (fun e => e.getLsbD 31 && placePhys e == 64 * die + p))

/-- The core groups of Halter mode's partition: all nine, but for those that lose a core when the die has no spare left (R24, R348). -/
def halterGroups (s : State) (l : Layout) : List Nat :=
  (List.range 9).filter (fun g => !(spares s l s.boot.cdie).isEmpty ||
    (List.range 4).all (fun i => (l.place.getD (4 * g + i) 0).getLsbD 31))

/-- A layout that the management processor may stage, in service; in Halter mode, the one partition of R348. -/
def layoutOk (s : State) (l : Layout) : Bool :=
  (s.boot.mode == .full || s.boot.mode == .halter) && l.place.length == 288 && (l.place.zipIdx).all (fun x => placeOk s x.2 x.1) &&
  distinct ((l.place.filter (fun e => e.getLsbD 31)).map placePhys) &&
  l.parts.length ≤ 16 && distinct (l.parts.map PartCfg.id) && distinct (l.parts.flatMap PartCfg.groups) &&
  l.parts.all (fun p => p.groups.all (fun g => g < 72) && p.tier1.all (fun r => r.1 + r.2 ≤ s.boot.piles * 2 ^ 20)) &&
  runsApart (l.parts.flatMap PartCfg.tier1) &&
  (s.boot.mode != .halter || (l.parts.length == 1 && l.parts.all (fun p =>
    p.groups == halterGroups s l && p.tier1 == [(0, s.boot.piles * 2 ^ 20)]))) &&
  distinct (l.tenants.map TenantCfg.vf) && l.tenants.all (tenantCfgOk s l) &&
  s.tenants.all (fun x => (x.2.tdisp != .configLocked && x.2.tdisp != .run) || l.tenants.any (fun c => c.vf == x.1))

/-- A layout staged: teams on cores that move are pre-empted for a reason of R311. -/
def stageLayout (s : State) (l : Layout) (reason : Nat) : State :=
  preemptTeams { s with staged := some l } (coreMoved { s with staged := some l } l) reason

/-- LAYOUT_STAGE (R303). -/
def execLayoutStage (lay : Layout) (s : State) : Result :=
  if layoutOk s lay then .next (stageLayout s lay 2) else .next s

/-- The partition that a core group belongs to. -/
def groupPart (parts : List (Nat × List Nat)) (g : Nat) : Option Nat := (parts.find? (fun p => p.2.contains g)).map Prod.fst

/-- The cores that a layout moves. -/
def movedCores (s : State) (l : Layout) : List Nat :=
  (List.range 288).filter (fun c => l.place.getD c 0 != tabGet 0 s.place c ||
    groupPart (l.parts.map (fun p => (p.id, p.groups))) (c / 4) != groupPart (s.parts.map (fun p => (p.1, p.2.groups))) (c / 4))

/-- A layout takes a partition from the tenant that holds its slice. -/
def tenantLeaves (l : Layout) (P : Partition) : Bool :=
  P.current.any (fun vf => !l.tenants.any (fun c => c.vf == vf && c.part == P.id))

/-- The cores that change their tenant or their physical core under a layout: those it moves, and those of a partition whose tenant
leaves it. The Burnisher runs on them at the tick. -/
def changedCores (s : State) (l : Layout) : List Nat :=
  let moved := movedCores s l
  let left := s.parts.filter (fun p => tenantLeaves l p.2)
  (List.range 288).filter (fun c => moved.contains c || left.any (fun p => p.2.groups.contains (c / 4)))

/-- The changed cores have nothing on them, and no request of a tenant that changes its partition is under way. -/
def layoutQuiet (s : State) (l : Layout) : Bool :=
  let cs := changedCores s l
  cs.all (fun c => (residents s c).isEmpty &&
    (let k := getCore s c; k.copyQ.isEmpty && k.mat.queue.isEmpty && k.satoms.isEmpty)) &&
  !s.reqs.any (fun r => cs.contains r.core) && !s.loads.any (fun r => cs.contains r.core) &&
  s.teams.all (fun x => x.2.retired || !coreMoved s l x.2)

/-- A partition of the new layout; one that goes on keeps its slice. -/
def newPart (s : State) (l : Layout) (c : PartCfg) : Partition :=
  let keep := fun (o : Option Nat) => o.filter (fun vf => l.tenants.any (fun k => k.vf == vf && k.part == c.id))
  match getPart s c.id with
  | none => { id := c.id, groups := c.groups, tier1 := c.tier1 }
  | some P =>
    let cur := keep P.current
    { P with groups := c.groups, tier1 := c.tier1, current := cur, next := keep P.next, promoting := keep P.promoting
             step := if cur.isNone then .slice else P.step }

/-- A tenant's affected claims return: its partition changes or one of its partition's cores moves. -/
def claimsMove (s : State) (l : Layout) (vf : Nat) : Bool :=
  let p := (getTenant s vf).cfg.part
  !l.tenants.any (fun c => c.vf == vf && c.part == p) || (movedCores s l).any (fun c => match getPart s p with
    | some P => P.groups.contains (c / 4)
    | none => false)

/-- The Burnisher's run at a layout tick, charged to the tenant that held each partition's slice (R303, R307, R308). -/
def burnishLayout (s : State) (l : Layout) : State :=
  let cs := changedCores s l
  let s := s.parts.foldl (fun s p => match p.2.current with
    | some a =>
      let mine := cs.filter (fun c => p.2.groups.contains (c / 4))
      let s := if mine.isEmpty then s else burnish s mine a
      if tenantLeaves l p.2 then updTenant s a (fun V => { V with resetting := false }) else s
    | none => s) s
  { s with cores := s.cores.filter (fun c => !cs.contains c.1) }

/-- Every table of the new layout; a VF whose host port is down is rebound to the other port (R336). -/
def swapLayout (s : State) (l : Layout) : State :=
  let parts := l.parts.foldl (fun t c => tabPut t c.id (newPart s l c)) []
  let s := { s with
    place := (l.place.zipIdx).foldl (fun t x => tabSet 0 t x.2 x.1) []
    parts := parts, staged := none
    tenants := tabMapD {} (fun vf V => if l.tenants.any (fun c => c.vf == vf) then V else { V with bound := false }) s.tenants }
  let down := fun (p : Nat) => tabGet 0 s.hostLanes p == 0
  l.tenants.foldl (fun s c => updTenant s c.vf (fun V =>
    { V with cfg := c, bound := true
             rebound := if down (vfPort V c.vf) && !down (1 - vfPort V c.vf) then !V.rebound else V.rebound })) s

/-- LAYOUT_TICK (R23, R303): once the affected engines are quiesced the claims return, and then every table swaps in one cycle and
the Burnisher runs. A layout that may no longer be staged, as where an interface has been locked since (R342), is dropped (log 45). -/
def execLayoutTick (s : State) : Result :=
  match s.staged with
  | none => .next s
  | some l =>
    if !layoutOk s l then .next { s with staged := none }
    else if !layoutQuiet s l then .next s
    else if s.claims.any (fun c => claimsMove s l c.vf) then
      .next { s with claims := s.claims.filter (fun c => !claimsMove s l c.vf) }
    else .next (swapLayout (burnishLayout s l) l)

/-- The layout in force. -/
def currentLayout (s : State) : Layout :=
  { place := (List.range 288).map (fun n => tabGet 0 s.place n)
    parts := s.parts.map (fun p => ⟨p.1, p.2.groups, p.2.tier1⟩)
    tenants := (s.tenants.filter (fun x => x.2.bound)).map (fun x => x.2.cfg) }

/-- A physical core of a place entry is in use and retired. -/
def placeRetired (s : State) (e : BitVec 32) : Bool := e.getLsbD 31 && s.retiredCores.contains (placePhys e)

/-- A logical core on a retired physical one: a spare of the die takes its place, the one named if it is one, or the core group
leaves its partition (R24). -/
def replaceCore (s : State) (phys : Nat) (l : Layout) (core : Nat) : Layout :=
  let e := l.place.getD core 0
  let sp := spares s l (e.toNat / 2 ^ 24 % 8)
  if !placeRetired s e then l
  else if sp.isEmpty then
    ⟨l.place.set core 0, l.parts.map (fun p => ⟨p.id, p.groups.filter (fun g => g != core / 4), p.tier1⟩), l.tenants⟩
  else
    let p := if sp.contains phys then phys else sp.headD 0
    ⟨l.place.set core (BitVec.ofNat 32 (e.toNat / 64 * 64 + p)), l.parts, l.tenants⟩

/-- CORE_RETIREMENT (R24): the physical core that serves a logical one goes out of use, or, where it is out of use already, the one
that a staged layout puts in its place. The layout that it stages is the one pending, or else the one in force, without the retired
cores (R303; log 29, DESIGN CHOICE); the spare that the firmware names is taken first. -/
def execCoreRetirement (core phys : Nat) (s : State) : Result :=
  let l := s.staged.getD (currentLayout s)
  let e := if placeRetired s (tabGet 0 s.place core) then l.place.getD core 0 else tabGet 0 s.place core
  if 288 ≤ core || !e.getLsbD 31 || placeRetired s e then .next s
  else
    let s := { s with retiredCores := s.retiredCores ++ [placePhys e] }
    let l := replaceCore s phys l core
    .next (stageLayout s ((List.range 288).foldl (replaceCore s phys) l) 3)

/-! ## Resets (R331 to R333) -/

/-- The teams of a tenant. -/
def teamsOf (s : State) (vf : Nat) : List Nat := (s.teams.filter (fun x => x.2.vf == vf)).map Prod.fst

/-- A request discarded on its way: a fault record of KIND 7. -/
def abortRecord (vf : Nat) (s : State) (r : MemReq) : State :=
  if r.vf != vf || r.phase == .applied then s
  else match getTeam s r.team with
    | some T => teamRecord s T 7 0 0 r.va
    | none => faultRecord s vf { kind := 7, core := 0xFFFF, info := r.va }

/-- What a core holds of some teams is released. -/
def releaseCore (ts : List Nat) (c : Core) : Core :=
  let m := { c.mat with
    queue := c.mat.queue.filter (fun o => !ts.contains o.team)
    holder := c.mat.holder.filter (fun t => !ts.contains t) }
  { c with
    mat := m
    copyQ := c.copyQ.filter (fun r => !ts.contains r.team)
    satoms := c.satoms.filter (fun r => !ts.contains r.team)
    grid := if (c.grid.holder.map ts.contains).getD false then {} else c.grid }

/-- Steps 1 to 6 of a function-level reset, and the state that step 7 ends; the core time of its teams is charged as they go (R291). -/
def resetVf (s : State) (vf : Nat) : State :=
  let ts := teamsOf s vf
  let s := ts.foldl (chargeUpTo s.ptc) s
  let s := s.reqs.foldl (abortRecord vf) s
  let begun := ts.filterMap (fun t => (getTeam s t).bind (fun T => T.image.map Prod.fst))
  let s := (begun ++ (getTenant s vf).saved.map SavedTeam.addr).foldl (fun s a => homeWrite s (a + 4) [2]) s
  let inSlice := match getPart s (getTenant s vf).cfg.part with
    | some P => P.current == some vf
    | none => false
  let s := updTenant s vf (fun V =>
    { V with ready := [], scans := [], saved := [], gviews := [], resetting := inSlice })
  { s with
    teams := s.teams.filter (fun x => x.2.vf != vf)
    reqs := s.reqs.filter (fun r => r.vf != vf)
    loads := s.loads.filter (fun l => l.vf != vf)
    cores := tabMapD {} (fun _ c => releaseCore ts c) s.cores
    creds := s.creds.filter (fun x => x.copy.vf != vf)
    claims := s.claims.filter (fun c => c.vf != vf) }

/-- The interface of a VF is locked (R342). -/
def tdLocked (V : Tenant) : Bool := V.tdisp == .configLocked || V.tdisp == .run

/-- An interface goes to ERROR and its VF is reset (R341, R342). -/
def enterError (s : State) (vf : Nat) : State := updTenant (resetVf s vf) vf (fun V => { V with tdisp := .error })

/-- FUNCTION_LEVEL_RESET (R331, R341). -/
def execFunctionLevelReset (vf : Nat) (s : State) : Result :=
  if tdLocked (getTenant s vf) then .next (enterError s vf) else .next (resetVf s vf)

/-- VF_DISABLE_ALL (R333). VF Enable is a locked item: a locked interface goes to ERROR instead, and the write is
discarded (R342). -/
def execVfDisableAll (s : State) : Result :=
  let vfs := (s.tenants.map Prod.fst).filter (fun v => v != 0)
  if vfs.any (fun v => tdLocked (getTenant s v)) then
    .next ((vfs.filter (fun v => tdLocked (getTenant s v))).foldl enterError s)
  else .next (vfs.foldl (fun s v => updTenant (resetVf s v) v (fun V => { V with enabled := false })) s)

end Sys2Proof.Machine
end

