-- ==== Sys2Proof/Machine/Loader.lean ====
section
/-! DEFINITION. Code objects (chapter 14): the object's tables, relocation, and the loader's steps. -/

namespace Sys2Proof.Machine

/-! ## The file (R355 to R358, R360) -/

/-- The address in bytes 0 to 7 of a command block, in package memory or in host memory in the form of R143 (R340, R364). -/
def mgmtAddr (x : Nat) : Nat := cellOf (bytesOf x 0 8)

/-- A range that the management processor can read: mapped, and no granule poisoned. -/
def mgmtReadable (s : State) (a n : Nat) : Bool :=
  let ok := fun (p : Nat) => homedPa s p || paKind s p == .host
  ok a && ok (a + n - 1) && !rangePoisoned s a n

/-- `n` bytes of the file from an offset, as a little-endian number. -/
abbrev FileRd := Nat → Nat → Nat

structure ObjHdr where
  level : Nat
  nsec : Nat
  nres : Nat
  nsym : Nat
  nrel : Nat
  pref : Nat
  img : Nat
  secoff : Nat
  symoff : Nat
  reloff : Nat
  resoff : Nat
  hashoff : Nat
  sigoff : Nat
  siglen : Nat

def objHdr (rd : FileRd) : ObjHdr :=
  { level := rd 4 1, nsec := rd 5 1, nres := rd 6 2, nsym := rd 8 4, nrel := rd 12 4, pref := rd 16 8, img := rd 24 4
    secoff := rd 28 4, symoff := rd 32 4, reloff := rd 36 4, resoff := rd 40 4, hashoff := rd 44 4, sigoff := rd 48 4
    siglen := rd 52 2 }

structure ObjSec where
  kind : Nat
  foff : Nat
  fsize : Nat
  loff : Nat
  lsize : Nat

def objSec (rd : FileRd) (h : ObjHdr) (i : Nat) : ObjSec :=
  let a := h.secoff + 32 * i
  { kind := rd a 1, foff := rd (a + 4) 4, fsize := rd (a + 8) 4, loff := rd (a + 12) 4, lsize := rd (a + 16) 4 }

def objSecs (rd : FileRd) (h : ObjHdr) : List ObjSec := (List.range h.nsec).map (objSec rd h)

/-- The image pages of a section: the first, and one past the last. -/
def secPages (x : ObjSec) : Nat × Nat := (x.loff / 2 ^ 16, (x.loff + x.lsize + 2 ^ 16 - 1) / 2 ^ 16)

/-- The pages of the code sections, in section order and page order, with their sections. -/
def codePages (secs : List ObjSec) : List (ObjSec × Nat) :=
  (secs.filter (fun x => x.kind == 1)).flatMap (fun x =>
    (List.range ((x.lsize + 2 ^ 16 - 1) / 2 ^ 16)).map (fun k => (x, k)))

/-- A table lies 16-byte aligned before the signature. -/
def tableOk (h : ObjHdr) (off size : Nat) : Bool := off % 16 == 0 && off + size ≤ h.sigoff

/-- The header (R355). -/
def hdrOk (rd : FileRd) (h : ObjHdr) (len : Nat) : Bool :=
  64 ≤ len && rd 0 4 == 0x5A564F31 && 1 ≤ h.nsec && h.nsec ≤ 16 && h.nres ≤ 4096 && 1 ≤ h.nsym && h.nsym ≤ 65536 &&
  h.nrel ≤ 1048576 && h.pref % 2 ^ 16 == 0 && h.img % 2 ^ 16 == 0 && rd 54 10 == 0 && 1 ≤ h.siglen && h.siglen ≤ 1280 &&
  h.sigoff + h.siglen == len && tableOk h h.secoff (32 * h.nsec) && tableOk h h.symoff (32 * h.nsym) &&
  tableOk h h.reloff (24 * h.nrel) && tableOk h h.resoff (64 * h.nres) &&
  tableOk h h.hashoff (32 * (codePages (objSecs rd h)).length)

/-- Two sections keep apart: their bytes in the image, and the pages of a code section. -/
def secApart (x y : ObjSec) : Bool :=
  (x.loff + x.lsize ≤ y.loff || y.loff + y.lsize ≤ x.loff) &&
  ((x.kind != 1 && y.kind != 1) || (secPages x).2 ≤ (secPages y).1 || (secPages y).2 ≤ (secPages x).1)

/-- The section table (R356). -/
def secsOk (rd : FileRd) (h : ObjHdr) : Bool :=
  let secs := objSecs rd h
  (List.range h.nsec).all (fun i => rd (h.secoff + 32 * i + 1) 3 == 0 && rd (h.secoff + 32 * i + 20) 12 == 0) &&
  secs.all (fun x => (x.kind == 1 || x.kind == 2) && x.foff + x.fsize ≤ h.sigoff && x.fsize ≤ x.lsize &&
    x.loff % (if x.kind = 1 then 2 ^ 16 else 16) == 0 && x.loff + x.lsize ≤ h.img) &&
  (secs.zipIdx).all (fun a => (secs.zipIdx).all (fun b => b.2 ≤ a.2 || secApart a.1 b.1))

structure ObjSym where
  kind : Nat
  sec : Nat
  flags : Nat
  value : Nat

def objSym (rd : FileRd) (h : ObjHdr) (i : Nat) : ObjSym :=
  let a := h.symoff + 32 * i
  { kind := rd (a + 24) 1, sec := rd (a + 25) 1, flags := rd (a + 26) 1, value := rd (a + 28) 4 }

/-- `n` bytes of a section from an offset, as the file gives them. -/
def secNum (rd : FileRd) (x : ObjSec) (o n : Nat) : Nat :=
  if x.fsize ≤ o then 0 else rd (x.foff + o) (min n (x.fsize - o))

/-- A name: ASCII, padded with zero bytes. -/
def nameOk (x : Nat) : Bool :=
  (List.range 24).all (fun i => bytesOf x i 1 < 128 && (bytesOf x i 1 != 0 || x / 256 ^ i == 0))

/-- A symbol; one of a block lies on a header word 0 (R357). -/
def symOk (rd : FileRd) (h : ObjHdr) (i : Nat) : Bool :=
  let y := objSym rd h i
  let x := objSec rd h y.sec
  nameOk (rd (h.symoff + 32 * i) 24) && y.flags < 4 && rd (h.symoff + 32 * i + 27) 1 == 0 &&
  (y.flags < 2 || y.kind == 1) &&
  (match y.kind with
   | 1 => y.sec < h.nsec && x.kind == 1 && y.value < x.lsize && y.value % 16 == 0 && secNum rd x y.value 16 / 2 ^ 120 == 0xF0
   | 2 => y.sec < h.nsec && y.value ≤ x.lsize
   | 3 => y.sec == 0 && y.value < h.nres
   | _ => false)

/-- A template (R358). -/
def templateOk (rd : FileRd) (h : ObjHdr) (n : Nat) : Bool := (parseEntry (rd (h.resoff + 64 * n) 64)).isSome

/-- Symbol 0, the null symbol: its value is 0 (R357); its kind and section are not said. -/
def nullSymOk (rd : FileRd) (h : ObjHdr) : Bool :=
  let y := objSym rd h 0
  nameOk (rd h.symoff 24) && y.flags < 4 && rd (h.symoff + 27) 1 == 0 && (y.flags < 2 || y.kind == 1) && y.value == 0

/-- Step 1 of the loader: the header, the sections, the symbols and the templates. -/
def objectOk (rd : FileRd) (h : ObjHdr) (len : Nat) : Bool :=
  hdrOk rd h len && secsOk rd h && (List.range h.nsym).all (fun i => if i = 0 then nullSymOk rd h else symOk rd h i) &&
  (List.range h.nres).all (templateOk rd h)

/-! ## Signature and page hashes (R359) -/

/-- The bytes of a file's range. -/
def fileBytes (rd : FileRd) (o n : Nat) : List Byte := numBytes n (rd o n)

/-- The signature verifies under one of the tenant's trusted keys. -/
def signatureOk (V : Tenant) (rd : FileRd) (h : ObjHdr) : Bool :=
  V.keys.any (fun k => Config.falconVerify k.2 (Config.shake256x64 (fileBytes rd 0 h.sigoff)) (fileBytes rd h.sigoff h.siglen))

/-- A page of a section as it stands in the file, zero beyond its bytes. -/
def filePage (rd : FileRd) (x : ObjSec) (k : Nat) : List Byte :=
  let n := min (2 ^ 16) (x.fsize - 2 ^ 16 * k)
  fileBytes rd (x.foff + 2 ^ 16 * k) n ++ zeros (2 ^ 16 - n)

/-- Every page hash of the file holds. -/
def hashesOk (rd : FileRd) (h : ObjHdr) : Bool :=
  ((codePages (objSecs rd h)).zipIdx).all (fun p =>
    Config.shake256 (filePage rd p.1.1 p.1.2) == BitVec.ofNat 256 (rd (h.hashoff + 32 * p.2) 32))

/-! ## Relocation (R360 to R362) -/

structure ObjRel where
  kind : Nat
  sec : Nat
  field : Nat
  zero : Nat
  offset : Nat
  sym : Nat
  bsym : Nat
  addend : Int

def objRel (rd : FileRd) (h : ObjHdr) (i : Nat) : ObjRel :=
  let a := h.reloff + 24 * i
  { kind := rd a 1, sec := rd (a + 1) 1, field := rd (a + 2) 1, zero := rd (a + 3) 1, offset := rd (a + 4) 4
    sym := rd (a + 8) 4, bsym := rd (a + 12) 4, addend := (BitVec.ofNat 64 (rd (a + 16) 8)).toInt }

/-- Where an object is loaded, and what its records see. -/
structure LoadAt where
  base : Nat
  rbase : Nat
  rcount : Nat
  cores : Nat

/-- The address of a symbol, 0 for the null symbol (R357). -/
def symAddr (rd : FileRd) (h : ObjHdr) (l : LoadAt) (i : Nat) : Int :=
  let y := objSym rd h i
  if i = 0 then 0
  else if y.kind = 3 then l.rbase + y.value
  else l.base + (objSec rd h y.sec).loff + y.value

/-- A field of the image: its first bit, its width and its value. -/
structure Patch where
  bit : Nat
  width : Nat
  value : Nat

/-- The format of a word's major opcode. -/
def wordFmt (w : Nat) : Option Fmt :=
  (allOps.find? (fun o => (opInfo o).maj == w / 2 ^ 120)).map (fun o => (opInfo o).fmt)

/-- The bit of the field that FIELD names, from header word 0: SUCC0 to SUCC2, REJOIN, or successor 3 of the entry
string; nothing where the header has no such successor. -/
def headerField (w field : Nat) : Option Nat :=
  let b := BitVec.ofNat 128 w
  if w / 2 ^ 120 != 0xF0 then none
  else match field with
    | 1 => some 48
    | 2 => if 1 ≤ hdrScnt b then some 24 else none
    | 3 => if 2 ≤ hdrScnt b then some 0 else none
    | 4 => some 72
    | 5 => if hdrScnt b = 3 then some (128 + 20 * (hdrRcnt b + hdrWcnt b)) else none
    | _ => none

/-- The words of the block whose header word 0 is given, R362 allowing 68 after it. -/
def blockWords (w : Nat) : Nat :=
  let b := BitVec.ofNat 128 w
  min 69 (hdrHcnt b + hdrIcnt b)

/-- A record's value and its field: the bit within the word and the width; `none` overflows. -/
def relValue (rd : FileRd) (h : ObjHdr) (l : LoadAt) (r : ObjRel) (w : Nat) : Option (Nat × Nat × Option Nat) :=
  let s := symAddr rd h l r.sym + r.addend
  let b := symAddr rd h l r.bsym
  let inside := fun (v lo hi : Int) => if lo ≤ v && v < hi then some (v % 2 ^ 64).toNat else none
  let sk := (objSym rd h r.sym).kind
  let plain := r.sym == 0 || sk == 2
  let hi := (s - b + 0x800) / 4096
  match r.kind with
  | 1 =>
    let n := tyWidth (tyOfCode (w / 2 ^ 88 % 16))
    if w / 2 ^ 112 != 0x2200 || !plain || r.bsym != 0 || (n != 64 && n != 32) then none
    else some (0, n, inside s 0 (2 ^ n))
  | 2 => if w / 2 ^ 112 != 0x2300 || !plain then none else some (0, 20, (inside hi (-(2 ^ 19)) (2 ^ 19)).map (fun v => v % 2 ^ 20))
  | 3 => if wordFmt w != some .m || !plain then none else some (0, 12, some ((s - b - hi * 4096) % 2 ^ 12).toNat)
  | 4 =>
    if r.bsym != 0 || r.sym == 0 || sk != 3 then none
    else match wordFmt w with
      | some .m => some (32, 16, inside s 0 l.rcount)
      | some .c | some .e => some (48, 16, inside s 0 l.rcount)
      | _ => none
  | 5 =>
    let y := objSym rd h r.bsym
    let p : Int := if r.field = 0 then b else l.base + (objSec rd h r.sec).loff + r.offset
    let v := if (s - p) % 16 = 0 then (inside ((s - p) / 16) (-(2 ^ 23)) (2 ^ 23)).map (fun v => v % 2 ^ 24) else none
    if r.sym == 0 || sk != 1 then none
    else if r.field = 0 then
      if w / 2 ^ 112 != 0x0400 || r.bsym == 0 || y.kind != 1 || y.sec != r.sec || r.offset < y.value ||
        y.value + 16 * blockWords (secNum rd (objSec rd h r.sec) y.value 16) ≤ r.offset then none
      else some (0, 24, v)
    else if r.bsym != 0 then none
    else (headerField w r.field).map (fun o => (o, 24, v))
  | _ =>
    if wordFmt w != some .a || !w.testBit 56 || r.sym != 0 || r.bsym != 0 then none
    else some (24, 32, inside (l.cores + r.addend) 0 (2 ^ 32))

/-- One record checked after the fields that earlier ones patch: its patch, or status 5 or 6. -/
def relPatch (rd : FileRd) (h : ObjHdr) (l : LoadAt) (done : List Patch) (i : Nat) : Except Nat Patch :=
  let r := objRel rd h i
  let x := objSec rd h r.sec
  if r.kind = 0 || 6 < r.kind || r.zero != 0 || h.nsec ≤ r.sec || (r.kind != 5 && r.field != 0) ||
      h.nsym ≤ r.sym || h.nsym ≤ r.bsym || r.offset % 16 != 0 || x.lsize < r.offset + 16 then .error 5
  else match relValue rd h l r (secNum rd x r.offset 16) with
    | none => .error 5
    | some (o, n, v) =>
      let bit := 8 * (x.loff + r.offset) + o
      if x.lsize < r.offset + 16 * ((o + n + 127) / 128) || secNum rd x (r.offset + o / 8) 16 / 2 ^ (o % 8) % 2 ^ n != 0 || done.any (fun p => p.bit == bit) then .error 5
      else match v with
        | none => .error 6
        | some v => .ok ⟨bit, n, v⟩

/-- The records in order: the patches, or the first status and its index. -/
def relAll (rd : FileRd) (h : ObjHdr) (l : LoadAt) : List Nat → List Patch → Except (Nat × Nat) (List Patch)
  | [], ps => .ok ps
  | i :: is, ps => match relPatch rd h l ps i with
    | .error k => .error (k, i)
    | .ok p => relAll rd h l is (ps ++ [p])

/-- A patch written into the image: its field holds zero in the file. -/
def applyPatch (img : Tab Byte) (p : Patch) : Tab Byte :=
  let a := p.bit / 8
  tabSetNum img a 9 (tabNum img a 9 + 2 ^ (p.bit % 8) * p.value)

/-- The relocated image. -/
def objImage (rd : FileRd) (h : ObjHdr) (ps : List Patch) : Tab Byte :=
  ps.foldl applyPatch ((objSecs rd h).foldl (fun img x => tabSetNum img x.loff x.fsize (rd x.foff x.fsize)) [])

/-! ## Pages for the image (the firmware's choice, log 12) -/

/-- A tier-1 page of a tenant's partition that nothing is in: no byte, no mark, no mapping, no claim, no image and no request. -/
def pageFree (s : State) (vf p : Nat) : Bool :=
  inRuns ((getPart s (getTenant s vf).cfg.part).getD {}).tier1 p && paKind s (p * 2 ^ 16) == .tier1 && s.mem.all (fun c => c.1 / 2 ^ 16 != p) && s.memPoison.all (fun g => g.1 / 2 ^ 11 != p) &&
  s.claims.all (fun c => c.page != p) && s.reqs.all (fun r => r.pa / 2 ^ 16 != p) &&
  pageSpare s p

/-- A free page that the firmware picks for a tenant, other than those of `held`. -/
def freePage (s : State) (vf : Nat) (held : List Nat) : Option (State × Nat) :=
  let (s, k) := freshFree s
  let n := s.boot.piles * 2 ^ 20
  let v := (Config.freeVal k).toNat
  ((List.range n).find? (fun i => !held.contains ((v + i) % n) && pageFree s vf ((v + i) % n))).map (fun i => (s, (v + i) % n))

/-- A leaf installed for a page, with the tables above it that are not there; `page` is the leaf's own. Nothing where an entry on the
way is malformed (R142) or where a poisoned granule would drop a write (R161). -/
def mapFrom (vf page va leaf : Nat) : Nat → Nat → State → Option State
  | 0, base, s =>
    let a := cellOf base + 8 * (va / 2 ^ 16 % 32)
    if rangePoisoned s a 8 then none else some (homeWrite s a (numBytes 8 leaf))
  | lvl + 1, base, s =>
    let a := cellOf base + 8 * (va / 2 ^ (21 + 9 * lvl) % 512)
    let e := memNum s.mem a 8
    let next := e / 2 ^ 16 % 2 ^ 41 * 2 ^ 16
    if rangePoisoned s a 8 then none
    else if e.testBit 0 then
      if e.testBit 2 || e.testBit 1 || e / 2 ^ 59 != 0 || e / 2 ^ 6 % 2 ^ 10 != 0 || paKind s next == .hole then none
      else mapFrom vf page va leaf lvl next s
    else match freePage s vf [page] with
      | none => none
      | some (s, p) => mapFrom vf page va leaf lvl (p * 2 ^ 16) (homeWrite s a (numBytes 8 (2 ^ 16 * p + 1)))

/-- One page of the image written, its hash installed if it is code, and then mapped with RD, and X for code. -/
def installPage (vf base : Nat) (img : Tab Byte) (code : List Nat) (k : Nat) (x : State × List CodePage) :
    Option (State × List CodePage) :=
  match freePage x.1 vf [] with
  | none => none
  | some (s, p) =>
    let va := base + 2 ^ 16 * k
    let bytes := numBytes (2 ^ 16) (tabNum img (2 ^ 16 * k) (2 ^ 16))
    let s := homeWrite s (p * 2 ^ 16) bytes
    let leaf := 2 ^ 16 * p + 8 + 1 + (if code.contains k then 32 else 0)
    match mapFrom vf p va leaf 4 (getTenant s vf).cfg.root s with
    | none => none
    | some s =>
      let gone := fun (o : CodeObj) => { o with pages := o.pages.filter (fun q => q.ppage != p) }
      let s := updTenant (dropTlb s vf (va % 2 ^ 57 / 2 ^ 16)) vf (fun V => { V with objs := V.objs.map gone })
      some (s, if code.contains k then x.2 ++ [{ vpage := va % 2 ^ 57 / 2 ^ 16, ppage := p, hash := Config.shake256 bytes }] else x.2)

def installPages (vf base : Nat) (img : Tab Byte) (code : List Nat) : List Nat → State × List CodePage → Option (State × List CodePage)
  | [], x => some x
  | k :: ks, x => match installPage vf base img code k x with
    | none => none
    | some y => installPages vf base img code ks y

/-- A template as the tenant's entry (R358). -/
def placeTemplate (x base num : Nat) : Nat :=
  let k := bytesOf x 0 1
  let x := if k = 4 || k = 5 || k = 6 then
      x - 2 ^ 128 * bytesOf x 16 8 + 2 ^ 128 * ((bytesOf x 16 8 + base) % 2 ^ 64) else x
  if k = 4 then x - 2 ^ 192 * bytesOf x 24 4 + 2 ^ 192 * num else x

/-! ## The loader (R364 to R366) -/

/-- What the loader answers: a status, the failing relocation's index, and the object number. -/
abbrev LoadReply := Nat × Nat × Nat

def noIdx : Nat := 0xFFFFFFFF

/-- A tenant exists (R340). -/
def tenantExists (s : State) (vf : Nat) : Bool :=
  (s.boot.mode == .full && 1 ≤ vf && vf ≤ 64) || (s.boot.mode == .halter && vf == 0)

/-- The range of an image is canonical and wholly unmapped (step 4). -/
def rangeFree (s : State) (vf base img : Nat) : Bool :=
  base + img ≤ 2 ^ 64 && (List.range (img / 2 ^ 16)).all (fun k => canonical (base + 2 ^ 16 * k) &&
    (match walk s vf (base + 2 ^ 16 * k) with
     | .ok _ => false
     | .error _ => true))

/-- Step 6: the commit of a load. -/
def commitLoad (s : State) (vf : Nat) (rd : FileRd) (h : ObjHdr) (l : LoadAt) (rtab : Nat) (ps : List Patch) :
    Option (State × Nat) :=
  let num := (getTenant s vf).nextObj
  let secs := objSecs rd h
  let code := (codePages secs).map (fun p => p.1.loff / 2 ^ 16 + p.2)
  match installPages vf l.base (objImage rd h ps) code (List.range (h.img / 2 ^ 16)) (s, []) with
  | none => none
  | some (s, pages) =>
    let s := (List.range h.nres).foldl (fun s n =>
      homeStore s vf (rtab + 64 * (l.rbase + n)) 64 (placeTemplate (rd (h.resoff + 64 * n) 64) l.base num)) s
    let segs := (secs.filter (fun x => x.kind == 1)).map (fun x => (l.base + x.loff, l.base + x.loff + x.lsize))
    some (updTenant s vf (fun V =>
      { V with objs := V.objs ++ [⟨num, l.base, h.img, segs, pages, false⟩], nextObj := num + 1 }), num)

/-- LOAD_OBJECT's steps on a command block read as `x`. -/
def loadObject (s : State) (x : Nat) : State × LoadReply :=
  let src := mgmtAddr x
  let len := bytesOf x 8 4
  let vf := bytesOf x 12 1
  let fail := fun (k : Nat) => (s, (k, noIdx, 0))
  if !tenantExists s vf || !zeroBytes x 13 15 || !zeroBytes x 40 63 then fail 1
  else if len = 0 then fail 1
  else if !mgmtReadable s src len then fail 8
  else
    let rd : FileRd := fun o n => memNum s.mem (src + o) n
    let h := objHdr rd
    let base := if bytesOf x 16 8 = 0 then h.pref else bytesOf x 16 8
    let rcount := bytesOf x 32 4
    let rbase := bytesOf x 36 4
    if !objectOk rd h len then fail 1
    else if h.level != 1 then fail 2
    else if !signatureOk (getTenant s vf) rd h then fail 3
    else if !hashesOk rd h then fail 4
    else if base % 2 ^ 16 != 0 || !rangeFree s vf base h.img || rcount = 0 || 65536 < rcount || rcount < rbase + h.nres then fail 7
    else
      let l : LoadAt := ⟨base, rbase, rcount, ncores s vf⟩
      match relAll rd h l (List.range h.nrel) [] with
      | .error (k, i) => (s, (k, i, 0))
      | .ok ps => match commitLoad s vf rd h l (bytesOf x 24 8) ps with
        | none => fail 7
        | some (s, num) => (s, (0, noIdx, num))

end Sys2Proof.Machine
end

