-- ==== Sys2Proof/Machine/Device.lean ====
section
/-! DEFINITION. The host's side (chapter 13): register pages, the mailbox, TDISP interfaces, CXL.mem, ports, bring-up and
the clamps. -/

namespace Sys2Proof.Machine

/-! ## Registers (R8, R337, R340, R349) -/

/-- The code of a boot mode. -/
def modeNum : BootMode → Nat
  | .booting => 0
  | .full => 1
  | .halter => 2
  | .held => 3

/-- The boot status register (R349). -/
def bootst (b : Boot) : BitVec 32 :=
  BitVec.ofNat 32 (2 ^ 24 + 2 ^ 16 * b.reason + 2 ^ 12 * b.starts + 2 ^ 8 * b.stage + 4 * modeNum b.mode + b.t2.toNat)

/-- The mailbox status register (R340). -/
def mbst (m : Mailbox) : BitVec 32 :=
  BitVec.ofNat 32 (2 ^ 8 * m.last + (if m.lost then 4 else 0) + (if m.done then 2 else 0) + (if m.busy then 1 else 0))

/-- The fault-ring registers of a function from an offset on, by offset, width and value (R337). -/
def frRegs (V : Tenant) (base : Nat) : List (Nat × Nat × Nat) :=
  [(base + 0x008, 8, V.frbase.toNat), (base + 0x010, 4, V.frctl.toNat), (base + 0x018, 4, V.frhead.toNat),
   (base + 0x01C, 4, V.frtail.toNat), (base + 0x020, 4, if V.ovf then 1 else 0)]

/-- A byte of a page of registers; WO registers, RZ bits and offsets that are not listed read zero (R8). -/
def regByte (l : List (Nat × Nat × Nat)) (off : Nat) : Byte :=
  match l.find? (fun r => r.1 ≤ off && off < r.1 + r.2.1) with
  | some r => BitVec.ofNat 8 (r.2.2 / 256 ^ (off - r.1))
  | none => 0

/-- A byte of the PF's BAR0 (R340). -/
def pfByte (s : State) (off : Nat) : Byte :=
  if 0x100 ≤ off && off < 0x140 then tabGet 0 s.mbox.cmd (off - 0x100)
  else if 0x140 ≤ off && off < 0x180 then tabGet 0 s.mbox.rpl (off - 0x140)
  else regByte ([(0x000, 4, (bootst s.boot).toNat), (0x010, 4, (mbst s.mbox).toNat)] ++ frRegs (getTenant s 0) 0x200) off

/-- What the host reads from `n` bytes of a register page (R8, R337, R340): function 0 is the PF's BAR0; nothing where the page is not
reached. A read changes nothing, and the opcode table has no row for it. -/
def hostRegister (s : State) (fn off n : Nat) : Option Nat :=
  if fn = 0 then (if pfReached s then some (bytesNum ((List.range n).map (fun i => pfByte s (off + i)))) else none)
  else if vfReached s fn then some (bytesNum ((List.range n).map (fun i => regByte (frRegs (getTenant s fn) 0) (off + i))))
  else none

/-- What the host reads from a core place entry (R21). -/
def hostPlace (s : State) (core : Nat) : BitVec 32 := if core < 288 then tabGet 0 s.place core else 0

/-- The host writes FRBASE, FRCTL or FRTAIL of a function; other offsets ignore it (R8, R337). -/
def frWrite (V : Tenant) (off val : Nat) : Tenant :=
  if off = 0x008 then { V with frbase := BitVec.ofNat 64 (val / 2 ^ 12 * 2 ^ 12) }
  else if off = 0x010 then { V with frctl := BitVec.ofNat 32 (val % 2 ^ 5) }
  else if off = 0x01C then { V with frtail := BitVec.ofNat 32 val }
  else V

/-- VF Enable with NumVFs: VFs 1 to n are enabled. TotalVFs is 64 in full operation and 0 in Halter mode (R336, R348). -/
def enableVfs (s : State) (n : Nat) : State :=
  (List.range n).foldl (fun s i => updTenant s (i + 1) (fun V => { V with enabled := true })) s

/-- A write to the PF's SR-IOV capability, by the items of R342: 0 NumVFs with VF Enable, 1 VF MSE, 2 the VF BAR's base (log 13). While
an interface is locked it takes that interface to ERROR and is discarded. -/
def capWrite (s : State) (item val : Nat) : State :=
  let locked := (s.tenants.filter (fun V => tdLocked V.2)).map Prod.fst
  if s.boot.mode != .full then s
  else if !locked.isEmpty then locked.foldl enterError s
  else if item = 0 then (if val ≤ 64 then enableVfs s val else s)
  else if item = 1 then { s with vfMse := val % 2 == 1 }
  else if item = 2 then { s with vfBar := val / 2 ^ 12 * 2 ^ 12 }
  else s

/-- The bytes of a write to MBCMD at an offset of its block. R340 gives no access width: the model writes as many bytes as the
offset is aligned to, 8 at most (log 13, DESIGN CHOICE). -/
def cmdWidth (off : Nat) : Nat :=
  if off % 8 = 0 then 8 else if off % 4 = 0 then 4 else if off % 2 = 0 then 2 else 1

/-- REGISTER_WRITE (R8): a host write to a register page: function 0 is the PF's BAR0, 1 to 64 a VF's page. The model
numbers the SR-IOV capability 256, and the device-memory window, which the management processor sets, 257 (log 13). -/
def execRegisterWrite (fn off val : Nat) (s : State) : Result :=
  if fn = 256 then .next (capWrite s off val)
  else if fn = 257 then
    if val ≤ 2 ^ 36 && off + val ≤ s.boot.piles * 2 ^ 36 then .next { s with cxlWindow := (off, val) } else .next s
  else if fn = 0 then
    if !pfReached s then .next s
    else if 0x100 ≤ off && off < 0x140 then
      let cmd := tabSetNum s.mbox.cmd (off - 0x100) (cmdWidth off) val
      .next { s with mbox := { s.mbox with cmd := cmd } }
    else if 0x200 ≤ off then .next (updTenant s 0 (fun V => frWrite V (off - 0x200) val))
    else .next s
  else if !vfReached s fn then .next s
  else if tdLocked (getTenant s fn) && (off == 0x008 || off == 0x010) then .next (enterError s fn)
  else .next (updTenant s fn (fun V => frWrite V off val))

/-- FRSTAT_CLEAR (R337, R8, R9): a bit that hardware sets in this cycle stays set. -/
def execFrstatClear (fn val : Nat) (s : State) : Result :=
  if !(if fn = 0 then pfReached s else vfReached s fn) || val % 2 = 0 then .next s
  else .next (updTenant s fn (fun V => if V.ovfAt = s.ptc + 1 then V else { V with ovf := false }))

/-- MBST_CLEAR (R340, R8, R9). -/
def execMbstClear (val : Nat) (s : State) : Result :=
  if !pfReached s then .next s
  else
    let m := s.mbox
    .next { s with mbox := { m with
      lost := m.lost && (!val.testBit 2 || m.lostAt == s.ptc + 1)
      done := m.done && (!val.testBit 1 || m.doneAt == s.ptc + 1) } }

/-! ## The mailbox (R340) -/

/-- A reply block of 64 bytes: a status and what follows. -/
def replyBlock (status rest : Nat) : Tab Byte := tabSetNum [] 0 64 (status + 2 ^ 32 * rest)

/-- A doorbell: dropped while a command runs, and it sets LOST; else the command starts on a copy of MBCMD. The command
answers the state and its reply. -/
def doorbell (code : Nat) (run : Nat → State → State × Tab Byte) (s : State) : Result :=
  if !pfReached s then .next s
  else if s.mbox.busy then .next { s with mbox := { s.mbox with lost := true, lostAt := s.ptc + 1 } }
  else
    let s := { s with mbox := { s.mbox with busy := true, last := code, run := s.mbox.cmd, after := 0 } }
    let r := run (tabNum s.mbox.cmd 0 64) s
    .next { r.1 with mbox := { r.1.mbox with out := r.2 } }

/-- The end of a command: MBRPL, then BUSY and DONE, and MSI-X vector 1 of the PF. -/
def mailboxEnd (s : State) : State :=
  { s with mbox := { s.mbox with rpl := s.mbox.out, busy := false, done := true, doneAt := s.ptc + 1 }
           msix := (0, 1) :: s.msix }

/-- The writes of a command are visible on every die: the release before its reply (R365). -/
def replyReady (s : State) : Bool := s.mbox.busy && (s.mbox.after == 0 || released s s.mbox.after)

/-- MAILBOX_REPLY (R340, R365). -/
def execMailboxReply (s : State) : Result := if replyReady s then .next (mailboxEnd s) else .next s

/-- MAILBOX_UNKNOWN_COMMAND (R340): it completes at once with status 0xFF. -/
def execMailboxUnknownCommand (code : Nat) (s : State) : Result :=
  if 1 ≤ code % 256 && code % 256 ≤ 5 then .next s
  else match doorbell (code % 256) (fun _ s => (s, replyBlock 0xFF 0)) s with
    | .next s' => if s.mbox.busy || !s'.mbox.busy then .next s' else .next (mailboxEnd s')
    | r => r

/-- A GWCT that serves every line: no lease of a copy that a die holds now outlasts it (R147, R151). -/
def leasesEnd (s : State) : Nat := s.dies.foldl (fun g d => d.2.copies.foldl (fun g c => max g c.expiry) g) s.ptc + 8

/-- LOAD_OBJECT (R364 to R366). -/
def execLoadObject (s : State) : Result :=
  doorbell 1 (fun x s =>
    let r := loadObject s x
    let g := if r.2.1 = 0 then leasesEnd s else 0
    ({ r.1 with mbox := { r.1.mbox with after := g } }, replyBlock r.2.1 (r.2.2.1 + 2 ^ 32 * r.2.2.2))) s

/-- READ_IDKEY (R340). -/
def execReadIdkey (s : State) : Result :=
  doorbell 2 (fun x s =>
    let a := mgmtAddr x
    if !zeroBytes x 8 63 || a % 16 != 0 then (s, replyBlock 1 0)
    else if !mgmtReadable s a 2048 then (s, replyBlock 8 0)
    else
      let g := gwctOf s 99 a 2048
      let s := homeWrite s a ((List.range 2048).map (fun i => if i < 1793 then Config.idKey.getD i 0 else 0))
      ({ s with mbox := { s.mbox with after := g } }, replyBlock 0 1793)) s

/-- INSTALL_KEY (R340). -/
def execInstallKey (s : State) : Result :=
  doorbell 3 (fun x s =>
    let a := mgmtAddr x
    let vf := bytesOf x 8 1
    let slot := bytesOf x 9 1
    if !tenantExists s vf || 8 ≤ slot || !zeroBytes x 10 63 then (s, replyBlock 1 0)
    else if !mgmtReadable s a 1793 then (s, replyBlock 8 0)
    else (updTenant s vf (fun V => { V with keys := tabPut V.keys slot (memBytes s.mem a 1793) }), replyBlock 0 0)) s

/-- REMOVE_KEY (R340). -/
def execRemoveKey (s : State) : Result :=
  doorbell 4 (fun x s =>
    let vf := bytesOf x 8 1
    let slot := bytesOf x 9 1
    if !tenantExists s vf || 8 ≤ slot || !zeroBytes x 0 7 || !zeroBytes x 10 63 then (s, replyBlock 1 0)
    else (updTenant s vf (fun V => { V with keys := tabErase V.keys slot }), replyBlock 0 0)) s

/-- FW_UPDATE (R340, R350): a signed image is kept for the next start. -/
def execFwUpdate (s : State) : Result :=
  doorbell 5 (fun x s =>
    let a := mgmtAddr x
    let n := bytesOf x 8 4
    if n = 0 || !zeroBytes x 12 63 then (s, replyBlock 1 0)
    else if !mgmtReadable s a n then (s, replyBlock 8 0)
    else if !Config.firmwareVerify (memBytes s.mem a n) then (s, replyBlock 3 0)
    else ({ s with fwNext := some (memBytes s.mem a n) }, replyBlock 0 0)) s

/-! ## TDISP (R341 to R343) -/

/-- An answer to a TDISP request. -/
def tdAnswer (s : State) (vf : Nat) (a : TdAnswer) : State := { s with tdAnswers := (vf, a) :: s.tdAnswers }

/-- A selective IDE stream bound to a VF: the one that it has, or a new one of its port, which has 16 at most (R341). Its key, which
IDE_KM manages, is a free value. -/
def bindStream (s : State) (vf : Nat) : Option State :=
  let port := vfPort (getTenant s vf) vf
  if s.ide.any (fun x => x.vf == vf) then some s
  else if 16 ≤ (s.ide.filter (fun x => x.port == port)).length then none
  else
    let (s, k) := freshFree s
    some { s with ide := s.ide ++ [⟨port, vf, k⟩] }

/-- What the report lists (R343): the register page's base and length, the locked attribute, the partition, its core groups, its
tier-1 bytes and the architecture level, and the digest of the active firmware. -/
def reportOf (s : State) (vf : Nat) : List Nat × BitVec 256 :=
  let p := (getTenant s vf).cfg.part
  let P := (getPart s p).getD {}
  ([s.vfBar + 4096 * (vf - 1), 4096, 1, p, P.groups.length, runBytes P.tier1, 1], Config.shake256 s.fwActive)

/-- With a bound IDE stream the interface is locked and its report fixed. -/
def serveLock (s : State) (vf : Nat) (bound : Bool) : State :=
  if (getTenant s vf).tdisp != .configUnlocked || !bound then tdAnswer s vf .error
  else match bindStream s vf with
    | none => tdAnswer s vf .error
    | some s => tdAnswer (updTenant s vf (fun V => { V with tdisp := .configLocked, report := reportOf s vf })) vf .done

/-- The report as the bytes that are signed. -/
def reportBytes (r : List Nat × BitVec 256) : List Byte := r.1.flatMap (numBytes 8) ++ numBytes 32 r.2.toNat

/-- The device's signature over the SHAKE256 digest of bytes (R350). -/
def deviceSign (bytes : List Byte) : List Byte := Config.falconSign (Config.shake256x64 bytes)

/-- A measurement response (R350): the digest of the active firmware and its signature. What else one holds, and the request that
asks for it, the specification does not say (log 46). -/
def measurement (s : State) : List Byte × List Byte :=
  let m := numBytes 32 (Config.shake256 s.fwActive).toNat
  (m, deviceSign m)

/-- The report, in CONFIG_LOCKED and RUN (R343, R350). -/
def serveReport (s : State) (vf : Nat) : State :=
  let V := getTenant s vf
  if tdLocked V then tdAnswer s vf (.report V.report.1 V.report.2 (deviceSign (reportBytes V.report))) else tdAnswer s vf .error

def serveStart (s : State) (vf : Nat) : State :=
  if (getTenant s vf).tdisp == .configLocked then tdAnswer (updTenant s vf (fun V => { V with tdisp := .run })) vf .done
  else tdAnswer s vf .error

/-- A stopped interface: its reset is complete, and its IDE stream is free again. -/
def stopDone (s : State) (vf : Nat) : State :=
  let s := updTenant s vf (fun V => { V with tdisp := .configUnlocked, report := ([], 0) })
  tdAnswer { s with ide := s.ide.filter (fun x => x.vf != vf) } vf .done

/-- STOP_INTERFACE resets the VF, and returns when the reset is complete. -/
def serveStop (s : State) (vf : Nat) : State :=
  if (getTenant s vf).tdisp == .configUnlocked then tdAnswer s vf .error
  else
    let s := resetVf s vf
    if (getTenant s vf).resetting then { s with tdStop := some vf } else stopDone s vf

/-- The VF that a request names. -/
def TdReq.vf : TdReq → Nat
  | .state vf | .lock vf _ | .report vf | .start vf | .stop vf => vf

/-- A request served. One that names no VF, as every one in Halter mode, is answered with an error (log 46). -/
def tdServe (s : State) (r : TdReq) : State :=
  if s.boot.mode != .full || r.vf = 0 || 64 < r.vf then tdAnswer s r.vf .error
  else match r with
    | .state vf => tdAnswer s vf (.state (getTenant s vf).tdisp)
    | .lock vf bound => serveLock s vf bound
    | .report vf => serveReport s vf
    | .start vf => serveStart s vf
    | .stop vf => serveStop s vf

/-- Requests are processed in arrival order: behind a STOP_INTERFACE that waits for its reset the others wait (R341). -/
def tdArrive (s : State) (r : TdReq) : State :=
  if s.tdStop.isSome then { s with tdWaiting := s.tdWaiting ++ [r] } else tdServe s r

/-- A STOP_INTERFACE whose reset is complete returns, and the requests that waited behind it are processed (R341, R342). -/
def tdFinish (s : State) : State :=
  match s.tdStop with
  | none => s
  | some vf =>
    if (getTenant s vf).resetting then s
    else s.tdWaiting.foldl tdArrive (stopDone { s with tdStop := none, tdWaiting := [] } vf)

/-- A TDISP request reaches the management processor: the device is in service and a host port is up. -/
def tdRequest (r : TdReq) (s : State) : Result := if pfReached s then .next (tdArrive s r) else .next s

/-- GET_DEVICE_INTERFACE_STATE (R341). -/
def execGetDeviceInterfaceState (vf : Nat) (s : State) : Result := tdRequest (.state vf) s

/-- LOCK_INTERFACE (R341, R342). -/
def execLockInterface (vf : Nat) (bound : Bool) (s : State) : Result := tdRequest (.lock vf bound) s

/-- GET_DEVICE_INTERFACE_REPORT (R343, R350). -/
def execGetDeviceInterfaceReport (vf : Nat) (s : State) : Result := tdRequest (.report vf) s

/-- START_INTERFACE (R341). -/
def execStartInterface (vf : Nat) (s : State) : Result := tdRequest (.start vf) s

/-- STOP_INTERFACE (R341, R342). -/
def execStopInterface (vf : Nat) (s : State) : Result := tdRequest (.stop vf) s

/-- LOCKED_ITEM_WRITE (R342): a host write to a locked item is discarded and the interface goes to ERROR. -/
def execLockedItemWrite (vf _item : Nat) (s : State) : Result :=
  if tdLocked (getTenant s vf) then .next (enterError s vf) else .next s

/-- IDE_INTEGRITY_FAILURE (R341). -/
def execIdeIntegrityFailure (vf : Nat) (s : State) : Result :=
  if tdLocked (getTenant s vf) then .next (enterError s vf) else .next s

/-! ## CXL.mem and the ports (R336, R344, R346) -/

/-- A byte that the host reads; one of a poisoned granule has no stated value (log 2). -/
def cxlByte (s : State) (a : Nat) : Byte :=
  if granulePoisoned s (a / 32) then (Config.freeVal (s.free + a)).setWidth 8 else memByte s.mem a

/-- A host port is up and has trained as CXL. -/
def cxlUp (s : State) : Bool := pfReached s && (List.range 2).any (fun p => tabGet 0 s.hostLanes p != 0 && tabGet false s.hostCxl p)

/-- HOST_CXL_MEM_ACCESS (R344): a read or a write through the device-memory window, at the hub, as an access of HOST scope: one to a
page in transition tries again (R163), and later posted writes and wakes of the host come behind a write's GWCT. The address is an offset in the window; without a port that trained
as CXL there is no access. -/
def execHostCxlMemAccess (addr : Nat) (isWrite : Bool) (bytes : List Byte) (s : State) : Result :=
  let a := s.cxlWindow.1 + addr
  if !cxlUp s || rangeMoves s a bytes.length then .next s
  else if s.cxlWindow.2 < addr + bytes.length || bytes.isEmpty then .fault .physicalHole
  else if isWrite then
    let g := max (tabGet 0 s.ioLast 16) (gwctOf s 99 a bytes.length)
    let s := if writeDrops s a bytes.length then hostDrop s a else s
    .next (homeWrite { s with ioLast := tabSet 0 s.ioLast 16 g } a bytes)
  else .next { s with cxlData := (List.range bytes.length).map (fun i => cxlByte s (a + i)) }

/-- HOST_PORT_DOWN (R336): a host port loses its link or trains at ×8 or ×4. -/
def execHostPortDown (port lanes : Nat) (s : State) : Result :=
  if port < 2 && (lanes == 0 || lanes == 4 || lanes == 8) && lanes < tabGet 0 s.hostLanes port then
    .next { s with hostLanes := tabSet 0 s.hostLanes port lanes }
  else .next s

/-- PORT_RETRAIN (R346): a scale-out port retrains at 4 or 2 lanes, or is down. -/
def execPortRetrain (port lanes : Nat) (s : State) : Result :=
  if port < 12 && (lanes == 0 || lanes == 2 || lanes == 4) && lanes < tabGet 0 s.ports port then
    .next { s with ports := tabSet 0 s.ports port lanes }
  else .next s

/-! ## Bring-up (R347, R348) -/

/-- Lanes of a host port that can serve: ×4 or wider. -/
def portLanes (x : StartTests) (p : Nat) : Nat :=
  let n := x.ports.getD p 0
  if n == 4 || n == 8 || n == 16 then n else 0

/-- The I/O die that a compute die links to (R12). -/
def ownIo (c : Nat) : Nat := if c < 4 then 9 else 10

/-- The link of R12 from a die to another, in one of its directions: which list of a start's tests answers for it, and where. Dies are
numbered as R273 does. -/
def linkFrom (a b : Nat) : Option (Nat × Nat) :=
  if b = 8 then (if a < 8 then some (0, a) else if a = 9 || a = 10 then some (0, a - 1) else none)
  else if a < 8 && b = ownIo a then some (1, a)
  else if a < 8 && b = (a + 1) % 8 then some (2, a)
  else none

def linkOf (a b : Nat) : Option (Nat × Nat) := (linkFrom a b).orElse (fun _ => linkFrom b a)

/-- Two dies have a link and it trains. -/
def linkUp (x : StartTests) (a b : Nat) : Bool :=
  match linkOf a b with
  | none => false
  | some (k, i) => ([x.hlinks, x.iolinks, x.ring].getD k []).getD i false

/-- A die reaches H, directly or through one reroute (R347). -/
def reachesHub (x : StartTests) (d : Nat) : Bool :=
  linkUp x d 8 || (List.range 11).any (fun m => m != 8 && linkUp x d m && linkUp x m 8)

/-- The I/O die of Halter mode: IO0 when both qualify (R348). -/
def halterPort (x : StartTests) : Option Nat := (List.range 2).find? (fun i => linkUp x (9 + i) 8 && portLanes x i != 0)

/-- The compute die of Halter mode: the lowest whose links to H and to the I/O die train (R348). -/
def halterDie (x : StartTests) (p : Nat) : Option Nat := (List.range 8).find? (fun c => linkUp x c 8 && linkUp x c (9 + p))

/-- The reason for which a start fails in a stage (R347); in Halter mode a part that it requires is missing (R348). -/
def stageFails (halter : Bool) (x : StartTests) : Nat → Option Nat
  | 1 => if x.firmware then none else some 1
  | 2 => if x.hub then none else some 5
  | 3 =>
    if halter then (match halterPort x with
      | some p => if (halterDie x p).isSome then none else some 2
      | none => if linkUp x 9 8 || linkUp x 10 8 then none else some 2)
    else if [0, 1, 2, 3, 4, 5, 6, 7, 9, 10].all (reachesHub x) then none else some 2
  | 4 => if halter || (List.range 8).all (fun i => x.piles.getD i false) then none else some 3
  | 6 => if (if halter then (halterPort x).isSome else portLanes x 0 != 0 || portLanes x 1 != 0) then none else some 4
  | _ => none

/-- The firmware that a start runs (R350). -/
def bootFirmware (s : State) : State := { s with fwActive := s.fwNext.getD s.fwActive, fwNext := none }

/-- A start begins in stage 1, with the tables as at reset: the time-zone table takes the fused values (R273), and no core is in
service. -/
def beginStart (s : State) (x : StartTests) : State :=
  { s with boot := { s.boot with powered := true, stage := 1, tests := some x }
           lat := s.fuseLat, ofs := s.fuseOfs, rr := [], place := [], staged := none }

/-- A start that fails: the device holds reset for 10 ms, and after the fourth for good (R347, R348). -/
def startFailed (s : State) (stage reason : Nat) : State :=
  let b := { s.boot with stage := stage, reason := reason, tests := none }
  if s.boot.starts = 3 then { s with boot := { b with mode := .held, holdUntil := none } }
  else { s with boot := { b with starts := s.boot.starts + 1, holdUntil := some (s.ptc + 10 * msCycles) } }

/-- The routes over links that did not train are rerouted from the start (R275): their RR bits are set, and their new latencies are
free values (log 2). -/
def rerouteFailed (s : State) (x : StartTests) : State :=
  let ps := (List.range 11).flatMap (fun a => (List.range 11).filterMap (fun b =>
    if (linkOf a b).isSome && !linkUp x a b then some (a, b) else none))
  ps.foldl (fun s p =>
    let (s, k) := freshFree s
    { s with rr := tabSet false s.rr (16 * p.1 + p.2) true
             lat := tabSet 0 s.lat (16 * p.1 + p.2) (BitVec.ofNat 8 ((Config.freeVal k).toNat % 255 + 1)) }) s

/-- A start enters full operation. -/
def startFull (s : State) (x : StartTests) : State :=
  rerouteFailed
    { s with
      boot := { s.boot with mode := .full, stage := 7, tests := none, piles := 8 }
      hostLanes := tabSet 0 (tabSet 0 [] 0 (portLanes x 0)) 1 (portLanes x 1)
      hostCxl := (List.range 2).foldl (fun t p => tabSet false t p (x.cxlPorts.getD p false)) []
      ports := (List.range 12).map (fun p => (p, 8)) } x

/-- A start enters Halter mode (R348): no tier 2, no scale-out, the host port at ×4. -/
def startHalter (s : State) (x : StartTests) : State :=
  match halterPort x with
  | none => s
  | some p =>
    let n := ((List.range 8).filter (fun i => x.piles.getD i false)).length
    { s with
      boot := { s.boot with mode := .halter, stage := 7, tests := none, cdie := (halterDie x p).getD 0, piles := n }
      hostLanes := [(p, 4)], hostCxl := tabSet false [] p (x.cxlPorts.getD p false), ports := [] }

/-- A stage that has passed: stage 1 boots the firmware, stage 5 brings up what there is of tier 2 and of CXL memory, and after stage 6
the device is in service. -/
def stagePassed (s : State) (x : StartTests) (k : Nat) : State :=
  let halter := s.boot.starts == 3
  let s := { s with boot := { s.boot with stage := k + 1 } }
  match k with
  | 1 => bootFirmware s
  | 5 => if halter then { s with boot := { s.boot with t2 := 0, cxl := [], cxlUse := 0 } }
    else { s with boot := { s.boot with t2 := x.tier2, cxl := x.cxl.map (fun g => min g 1024), cxlUse := x.cxlUse } }
  | 6 => if halter then startHalter s x else startFull s x
  | _ => s

/-- DEVICE_START (R347, R348): a start begins, or the stage that runs ends; the fourth start runs in Halter mode. What the parts answer
is fixed as it begins. A trip fails the stage in which it comes, whatever its own test gives (log 46). -/
def execDeviceStart (tests : StartTests) (s : State) : Result :=
  if s.boot.mode != .booting || s.boot.holdUntil.isSome then .next s
  else match s.boot.tests with
    | none => .next (beginStart s tests)
    | some x =>
      let k := s.boot.stage
      if x.trip = some k then .next (startFailed s k 6)
      else match stageFails (s.boot.starts == 3) x k with
        | some r => .next (startFailed s k r)
        | none => .next (stagePassed s x k)

/-- START_RETRY (R347): 10 ms after a failed start the device starts again. -/
def execStartRetry (s : State) : Result :=
  match s.boot.holdUntil with
  | none => .next s
  | some t => if s.ptc < t then .next s else .next { s with boot := { s.boot with holdUntil := none } }

/-! ## The clamps (R353) -/

/-- CURRENT_CLAMP: every ramp limiter's L is capped at 16. -/
def execCurrentClamp (s : State) : Result :=
  .next { s with
    currentCap := true
    cores := tabMapD {} (fun _ c => let m := { c.mat with rampL := min c.mat.rampL 16 }; { c with mat := m }) s.cores }

/-- CURRENT_CLAMP_RELEASE: L rises from where the cap left it, by the windows of R201. -/
def execCurrentClampRelease (s : State) : Result := .next { s with currentCap := false }

/-- THERMAL_THROTTLE: the clamp skips every second issue slot on a compute die. -/
def execThermalThrottle (die : Nat) (s : State) : Result :=
  if die < 8 then .next (updDie s die (fun d => { d with throttled := true })) else .next s

/-- THERMAL_TRIP: power goes from the package; what is left is the stored firmware and the model's own counters. -/
def execThermalTrip (s : State) : Result :=
  .next { State.reset with
    agenda := s.agenda, issuer := s.issuer, free := s.free, nextId := s.nextId, nextTeam := s.nextTeam
    fwActive := s.fwActive, fwNext := s.fwNext, lat := s.fuseLat, ofs := s.fuseOfs, fuseLat := s.fuseLat, fuseOfs := s.fuseOfs
    retiredCores := s.retiredCores, boot := { powered := false } }

end Sys2Proof.Machine
end

