-- ==== Sys2Proof/Machine/FloatFam.lean ====
section
/-! DEFINITION. Floating-point and logarithmic instructions (chapter 5). In each meaning `k` is the active
format slot fs[FS] (R124). -/

namespace Sys2Proof.Machine

/-- The mode of an instruction that does not name RNA (R124). -/
def fpMode (p : FmtA) (k : FmtSlot) : RMode := modeOf p.rm k false
/-- The mode of an instruction that names RNA. -/
def fpModeA (p : FmtA) (k : FmtSlot) : RMode := modeOf p.rm k true

/-! ## Arithmetic (R130) -/

/-- FADD (R130). -/
def execFadd (c : Ctl) (p : FmtA) (s : State) : Result :=
  execFp .fadd c (.a p) (fun k x => fFadd (fmtOf c.ty) (fpMode p k) k.flush x.l.toNat x.r.toNat) s

/-- FSUB (R130). -/
def execFsub (c : Ctl) (p : FmtA) (s : State) : Result :=
  execFp .fsub c (.a p) (fun k x => fFsub (fmtOf c.ty) (fpMode p k) k.flush x.l.toNat x.r.toNat) s

/-- FMUL (R130). -/
def execFmul (c : Ctl) (p : FmtA) (s : State) : Result :=
  execFp .fmul c (.a p) (fun k x => fFmul (fmtOf c.ty) (fpMode p k) k.flush x.l.toNat x.r.toNat) s

/-- FFMA (R130): one rounding of the exact value. -/
def execFfma (c : Ctl) (p : FmtA) (s : State) : Result :=
  execFp .ffma c (.a p) (fun k x => fFfma (fmtOf c.ty) (fpMode p k) k.flush x.l.toNat x.r.toNat x.p.toNat) s

/-- FSCALE (R130). -/
def execFscale (c : Ctl) (p : FmtA) (s : State) : Result :=
  execFp .fscale c (.a p) (fun k x => fFscale (fmtOf c.ty) (fpMode p k) k.flush x.l.toNat x.r.toNat) s

/-- FRND (R130). -/
def execFrnd (c : Ctl) (p : FmtA) (s : State) : Result :=
  execFp .frnd c (.a p) (fun k x => fFrnd (fmtOf c.ty) (fpModeA p k) k.flush x.l.toNat) s

/-! ## Minimum, sign, comparison and class (R131, R132) -/

/-- FMIN (R131). -/
def execFmin (c : Ctl) (p : FmtA) (s : State) : Result :=
  execFp .fmin c (.a p) (fun k x => fFminmax (fmtOf c.ty) k.flush false x.l.toNat x.r.toNat) s

/-- FMAX (R131). -/
def execFmax (c : Ctl) (p : FmtA) (s : State) : Result :=
  execFp .fmax c (.a p) (fun k x => fFminmax (fmtOf c.ty) k.flush true x.l.toNat x.r.toNat) s

/-- FSGN.cp (R131): bit patterns, no flag. -/
def execFsgnCp (c : Ctl) (p : FmtA) (s : State) : Result :=
  execAlu .fsgnCp c (.a p) (fun x => fFsgn (fmtOf c.ty) .cp x.l.toNat x.r.toNat) s

/-- FSGN.neg (R131): bit patterns, no flag. -/
def execFsgnNeg (c : Ctl) (p : FmtA) (s : State) : Result :=
  execAlu .fsgnNeg c (.a p) (fun x => fFsgn (fmtOf c.ty) .neg x.l.toNat x.r.toNat) s

/-- FSGN.xor (R131): bit patterns, no flag. -/
def execFsgnXor (c : Ctl) (p : FmtA) (s : State) : Result :=
  execAlu .fsgnXor c (.a p) (fun x => fFsgn (fmtOf c.ty) .xor x.l.toNat x.r.toNat) s

/-- FCMP.eq (R131). -/
def execFcmpEq (c : Ctl) (p : FmtA) (s : State) : Result :=
  execFp .fcmpEq c (.a p) (fun k x => fFcmp (fmtOf c.ty) k.flush .eq x.l.toNat x.r.toNat) s

/-- FCMP.ne (R131). -/
def execFcmpNe (c : Ctl) (p : FmtA) (s : State) : Result :=
  execFp .fcmpNe c (.a p) (fun k x => fFcmp (fmtOf c.ty) k.flush .ne x.l.toNat x.r.toNat) s

/-- FCMP.lt (R131). -/
def execFcmpLt (c : Ctl) (p : FmtA) (s : State) : Result :=
  execFp .fcmpLt c (.a p) (fun k x => fFcmp (fmtOf c.ty) k.flush .lt x.l.toNat x.r.toNat) s

/-- FCMP.le (R131). -/
def execFcmpLe (c : Ctl) (p : FmtA) (s : State) : Result :=
  execFp .fcmpLe c (.a p) (fun k x => fFcmp (fmtOf c.ty) k.flush .le x.l.toNat x.r.toNat) s

/-- FCMP.gt (R131). -/
def execFcmpGt (c : Ctl) (p : FmtA) (s : State) : Result :=
  execFp .fcmpGt c (.a p) (fun k x => fFcmp (fmtOf c.ty) k.flush .gt x.l.toNat x.r.toNat) s

/-- FCMP.ge (R131). -/
def execFcmpGe (c : Ctl) (p : FmtA) (s : State) : Result :=
  execFp .fcmpGe c (.a p) (fun k x => fFcmp (fmtOf c.ty) k.flush .ge x.l.toNat x.r.toNat) s

/-- FCMP.un (R131). -/
def execFcmpUn (c : Ctl) (p : FmtA) (s : State) : Result :=
  execFp .fcmpUn c (.a p) (fun k x => fFcmp (fmtOf c.ty) k.flush .un x.l.toNat x.r.toNat) s

/-- FCLASS (R132): bit patterns, no flag. -/
def execFclass (c : Ctl) (p : FmtA) (s : State) : Result :=
  execAlu .fclass c (.a p) (fun x => fFclass (fmtOf c.ty) x.l.toNat) s

/-! ## Roots and transcendental functions (R133, R134) -/

/-- FSQRT (R133). -/
def execFsqrt (c : Ctl) (p : FmtA) (s : State) : Result :=
  execFp .fsqrt c (.a p) (fun k x => fFsqrt (fpMode p k) k.flush x.l.toNat) s

/-- FRCP (R133, R134). -/
def execFrcp (c : Ctl) (p : FmtA) (s : State) : Result :=
  execFp .frcp c (.a p) (fun k x => fFrcp k.flush x.l.toNat) s

/-- FRSQ (R133, R134). -/
def execFrsq (c : Ctl) (p : FmtA) (s : State) : Result :=
  execFp .frsq c (.a p) (fun k x => fFrsq k.flush x.l.toNat) s

/-- FEXP2 (R133, R134). -/
def execFexp2 (c : Ctl) (p : FmtA) (s : State) : Result :=
  execFp .fexp2 c (.a p) (fun k x => fFexp2 k.flush x.l.toNat) s

/-- FLOG2 (R133, R134). -/
def execFlog2 (c : Ctl) (p : FmtA) (s : State) : Result :=
  execFp .flog2 c (.a p) (fun k x => fFlog2 k.flush x.l.toNat) s

/-- FSINCOS (R133, R134). -/
def execFsincos (c : Ctl) (p : FmtA) (s : State) : Result :=
  execFp .fsincos c (.a p) (fun k x => fFsincos k.flush x.l.toNat) s

/-- FTANH (R133, R134). -/
def execFtanh (c : Ctl) (p : FmtA) (s : State) : Result :=
  execFp .ftanh c (.a p) (fun k x => fFtanh k.flush x.l.toNat) s

/-! ## Packed and FP64 arithmetic (R135) -/

/-- HFMA2 (R135). -/
def execHfma2 (c : Ctl) (p : FmtA) (s : State) : Result :=
  execFp .hfma2 c (.a p) (fun k x => fFma2 fmt16 (fpMode p k) k.flush x.l.toNat x.r.toNat x.p.toNat) s

/-- BFMA2 (R135). -/
def execBfma2 (c : Ctl) (p : FmtA) (s : State) : Result :=
  execFp .bfma2 c (.a p) (fun k x => fFma2 fmtB16 (fpMode p k) k.flush x.l.toNat x.r.toNat x.p.toNat) s

/-- DADD (R135). -/
def execDadd (c : Ctl) (p : FmtA) (s : State) : Result :=
  execFp .dadd c (.a p) (fun k x => fFadd fmt64 (fpMode p k) k.flush x.l.toNat x.r.toNat) s

/-- DMUL (R135). -/
def execDmul (c : Ctl) (p : FmtA) (s : State) : Result :=
  execFp .dmul c (.a p) (fun k x => fFmul fmt64 (fpMode p k) k.flush x.l.toNat x.r.toNat) s

/-- DFMA (R135). -/
def execDfma (c : Ctl) (p : FmtA) (s : State) : Result :=
  execFp .dfma c (.a p) (fun k x => fFfma fmt64 (fpMode p k) k.flush x.l.toNat x.r.toNat x.p.toNat) s

/-! ## Conversions (R136): the source type in AUX -/

/-- FCVT (R136). -/
def execFcvt (c : Ctl) (p : FmtA) (s : State) : Result :=
  execFp .fcvt c (.a p) (fun k x => fFcvt (fmtOf (tyOfCode p.aux.toNat)) (fmtOf c.ty) (fpModeA p k) k.flush x.l.toNat) s

/-- FTOI (R136). -/
def execFtoi (c : Ctl) (p : FmtA) (s : State) : Result :=
  execFp .ftoi c (.a p) (fun k x => fFtoi (fmtOf (tyOfCode p.aux.toNat)) c.ty (fpModeA p k) k.flush x.l.toNat) s

/-- ITOF (R136). -/
def execItof (c : Ctl) (p : FmtA) (s : State) : Result :=
  execFp .itof c (.a p) (fun k x => fItof (tyOfCode p.aux.toNat) (fmtOf c.ty) (fpModeA p k) k.flush x.l) s

/-- PACK (R136). -/
def execPack (c : Ctl) (p : FmtA) (s : State) : Result :=
  execFp .pack c (.a p) (fun k x => fPack (fmtOf c.ty) (fpModeA p k) k.flush x.l.toNat x.r.toNat) s

/-- UNPK (R136). -/
def execUnpk (c : Ctl) (p : FmtA) (s : State) : Result :=
  execFp .unpk c (.a p) (fun k x => fUnpk (fmtOf c.ty) k.flush x.l.toNat) s

/-! ## Logarithmic instructions (R137) -/

/-- LGMUL (R137). -/
def execLgmul (c : Ctl) (p : FmtA) (s : State) : Result :=
  execAlu .lgmul c (.a p) (fun x => fLgmul c.ty x.l.toNat x.r.toNat) s

/-- LGCVT (R137). -/
def execLgcvt (c : Ctl) (p : FmtA) (s : State) : Result :=
  execFp .lgcvt c (.a p) (fun k x => fLgcvt c.ty k x.l.toNat) s

/-- LGEXP (R137): the second slot in AUX. -/
def execLgexp (c : Ctl) (p : FmtA) (s : State) : Result :=
  execLanes .lgexp c (.a p) (fun i x =>
    let k := issSlot i p.fs.toNat
    fLgexp c.ty (fpMode p k) k (issSlot i (p.aux.toNat % 8)) x.l.toNat) s

/-- LGDOT (R137). -/
def execLgdot (c : Ctl) (p : FmtA) (s : State) : Result :=
  execLanes .lgdot c (.a p) (fun _ x => fLgdot c.ty x.l.toNat x.r.toNat x.p.toNat) s

/-! ## Flags (R138) -/

/-- FFLAGS.rd (R138): the register as it stood at the block's entry, a uniform value. -/
def execFflagsRd (c : Ctl) (s : State) : Result :=
  execAlu1 .fflagsRd c .n (fun i => i.f.entryFlags.setWidth 128) s

/-- FFLAGS.clr (R127, R138): bits [7:0] of the mask join the block's clear mask. -/
def execFflagsClr (c : Ctl) (s : State) : Result :=
  atTurn .fflagsClr c .n s (fun i =>
    let s' := match uniOpnds i .fflagsClr c .n with
      | some x => updFlight s i.t i.u (fun f => { f with clear := f.clear ||| x.l.setWidth 8 })
      | none => s
    .next (finishNone s' i .fflagsClr c .n))

end Sys2Proof.Machine
end

