-- ==== Sys2Proof/Machine/Matrix.lean ====
section
/-! DEFINITION. The matrix engine (chapter 8): shapes, tiles, chains, the queue and the ramp limiter. -/

namespace Sys2Proof.Machine

/-! ## Elements (R199, R203, R217) -/

/-- Bytes of an element by EFMT. -/
def elemSize : Ty → Nat
  | .f16 | .bf16 => 2
  | .lg6 | .lg8 | .s8 | .n8 => 1
  | _ => 4

/-- The formats of A and B. -/
def elemFmt : Ty → Bool
  | .f32 | .f16 | .bf16 | .lg6 | .lg8 | .s8 | .n8 => true
  | _ => false

/-- The formats of a DRAIN. -/
def drainFmt (ty : Ty) : Bool := elemFmt ty || ty == .s32 || ty == .n32

def isLg (ty : Ty) : Bool := ty == .lg6 || ty == .lg8

/-- The pattern of the zero element, which positions outside a shape read as. -/
def zeroElem (ty : Ty) : Nat := if ty == .lg6 then 16 else if ty == .lg8 then 64 else 0

/-- The window offset of element (a, b) of a shape (R203). -/
def shapeAddr (e : ResEntry) (lo es a b : Nat) : Nat := e.base + e.ofs + lo + a * e.rstride + b * e.estride * es

def inShape (e : ResEntry) (a b : Nat) : Bool := a < e.rows && b < e.cols

/-- A little-endian number of the team's window, as the engine reads it. -/
def winNum (s : State) (T : Team) (off : Nat) : Nat → Nat
  | 0 => 0
  | n + 1 => (tabGet 0 (getCore s T.core).scratch (spAddr T off)).toNat + 256 * winNum s T (off + 1) n

/-- The aligned 4-byte piece `w` of the window as it stands. -/
def winPiece (s : State) (T : Team) (w : Nat) : Word := BitVec.ofNat 32 (winNum s T (4 * w) 4)

/-- The pieces of the window that `rows` × `cols` positions of a shape reach, each with its value (R202). -/
def shapePieces (s : State) (T : Team) (e : ResEntry) (lo : Nat) (ty : Ty) (rows cols : Nat) : Tab (List Word) :=
  (List.range rows).foldl (fun t i => (List.range cols).foldl (fun t k =>
    let w := shapeAddr e lo (elemSize ty) i k / 4
    if inShape e i k then tabPut t w [winPiece s T w] else t) t) []

/-- The banks of a row of a shape. -/
def rowBanks (T : Team) (e : ResEntry) (lo es i cols : Nat) : List Nat :=
  (List.range cols).flatMap (fun k => if inShape e i k then spBanks T (shapeAddr e lo es i k) es else [])

/-- The checks of R204 over the box that an instruction reaches. -/
def shapeFaults (T : Team) (e : ResEntry) (lo es rows cols : Nat) : List IssueFault :=
  let b := e.base + e.ofs + lo
  let last := shapeAddr e lo es (min rows e.rows - 1) (min cols e.cols - 1) + es
  faultIf (b % es != 0 || e.rstride % es != 0) .align .scratchpad b ++
    faultIf (T.spBytes < last) .xlateNotMapped .scratchpad b

/-! ## Products and sums on the grid (R210) -/

/-- An operand of product(): a mark, zero, a number ± m × 2^e, or an LG code. -/
inductive MElem where
  | mark
  | zero
  | num (s : Bool) (m : Nat) (e : Int)
  | lg (s : Bool) (c : Int)
  deriving DecidableEq, Repr

def elemFV : FV → MElem
  | .nan _ => .mark
  | .inf _ => .mark
  | .fin s m e => if m = 0 then .zero else .num s m e

/-- An element of a format, read under FLUSH. -/
def melem (ty : Ty) (flush : Bool) (x : Nat) : MElem :=
  match ty with
  | .lg6 | .lg8 => match lgDecode (lgQ ty) x with
    | .nar => .mark
    | .zero => .zero
    | .val s c => .lg s c
  | .s8 => let i := sxNat 8 x; if i = 0 then .zero else .num (i < 0) i.natAbs 0
  | .n8 => if x % 256 = 0 then .zero else .num false (x % 256) 0
  | _ => elemFV (fIn (fmtOf ty) flush x)

def melemNeg : MElem → MElem
  | .num s m e => .num (!s) m e
  | .lg s c => .lg (!s) c
  | x => x

/-- A term on the grid of 2^W: nothing where it marks (R210, R218). -/
def gridTerm (W : Int) (s : Bool) (m : Nat) (e : Int) : Option Int :=
  if m = 0 then some 0
  else if W + 110 ≤ (Nat.log2 m : Int) + e then none
  else some (signed s (rndShift .rne s m (W - e)).1)

/-- product(a, b) (R210): E is the sum of the scales, W the window exponent; nothing is MARK. -/
def gridProd (q : Nat) (E W : Int) (a b : MElem) : Option Int :=
  match a, b with
  | .mark, _ => none
  | _, .mark => none
  | .num s m e, .num t n k => gridTerm W (s != t) (m * n) (e + k + E)
  | .lg s c, .lg t d =>
    let x := lgterm (s != t) (c + d) q
    gridTerm W (x < 0) x.natAbs (E - 23)
  | _, _ => some 0

/-- The key of an element's mark. -/
def markKey (row col : Nat) : Nat := row / 4 * 128 + col

/-- The 128 bits of the wide element whose first word lies at (row, col) (R207). -/
def wideGet (m : Matrix) (row col : Nat) : Nat :=
  (List.range 4).foldl (fun x w => x + 2 ^ (32 * w) * (tabGet 0 m.acc (128 * (row + w) + col)).toNat) 0

def wideSet (m : Matrix) (row col v : Nat) : Matrix :=
  { m with acc := (List.range 4).foldl (fun t w => tabSet 0 t (128 * (row + w) + col) (BitVec.ofNat 32 (v / 2 ^ (32 * w)))) m.acc }

def setMark (m : Matrix) (row col : Nat) (b : Bool) : Matrix := { m with marks := tabSet false m.marks (markKey row col) b }

/-- add(element, t) (R210). -/
def wideAdd (m : Matrix) (row col : Nat) (t : Option Int) : Matrix :=
  match t with
  | none => setMark m row col true
  | some i => if i = 0 then m else wideSet m row col (((wideGet m row col : Int) + i) % 2 ^ 128).toNat

/-- The value 0 with the mark clear. -/
def wideZero (m : Matrix) (row col : Nat) : Matrix := setMark (wideSet m row col 0) row col false

/-- A fold over the elements of an M × N tile, in ascending order. -/
def overTile {α : Type} (m n : Nat) (f : α → Nat → Nat → α) (a : α) : α :=
  (List.range m).foldl (fun a i => (List.range n).foldl (fun a j => f a i j) a) a

/-! ## The engine's queue (R214, R215) -/

/-- A core's matrix engine changed. -/
def updMat (s : State) (core : Nat) (f : Matrix → Matrix) : State :=
  updCore s core (fun c => let m := f c.mat; { c with mat := m })

/-- The tile that an instruction touches. -/
def opTile (o : MatOp) : Option Nat :=
  match o.kind with
  | .mma _ _ _ t => some t
  | .wbld _ t => some t
  | _ => none

/-- An MMA that is no ordering point (R211). -/
def plainMma (o : MatOp) : Bool :=
  match o.kind with
  | .mma _ _ ad _ => !ad
  | _ => false

/-- An earlier and a later instruction touch the same rows, tile, units or chain (R215); the MMAs of one segment
are not ordered. -/
def opsClash (a b : MatOp) : Bool :=
  if plainMma a && plainMma b && a.row == b.row && a.rows == b.rows then false
  else spansMeet a.row a.rows b.row b.rows || spansMeet a.ub a.units b.ub b.units ||
    (opTile a).isSome && opTile a == opTile b

/-- An instruction may start: nothing issued earlier that it touches is left, CPYACC included (R193). -/
def mayStart (c : Core) (o : MatOp) : Bool :=
  !c.mat.queue.any (fun a => a.id < o.id && opsClash a o) &&
  !c.copyQ.any (fun q => q.id < o.id && underWay q && (q.kind == .accIn || q.kind == .accOut) && spansMeet q.row q.count o.row o.rows)

/-- A queued instruction issues: it takes an entry of the queue, and its token is busy until it completes. -/
def enqueueMat (s : State) (i : Iss) (o : Op) (c : Ctl) (p : FmtE) (m : MatOp) : State :=
  let s := advance s i o c (.e p) 0
  let (s, id) := freshId s
  let m := { m with id := id, team := i.t, unit := i.u, sb := sbOf c }
  let s := updMat s i.T.core (fun x => { x with queue := x.queue ++ [m] })
  match m.sb with
  | some b => updUnit s i.t i.u (fun w => setTok w b { state := .pending, req := id })
  | none => s

/-- A queued instruction at its turn: a null operand makes it nothing, a full queue holds it; the first failing
check traps, else it is queued after its effect on the engine's tables. -/
def execQueued (o : Op) (c : Ctl) (p : FmtE) (f : State → Iss → Opnds → Except IssueFault (State × MatOp)) (s : State) : Result :=
  atTurn o c (.e p) s (fun i =>
    match leader (allOpnds i o c (.e p)) with
    | none => .next (finishNone s i o c (.e p))
    | some (l, x) =>
      if 4 ≤ (getMat s i.T.core).queue.length then .next (setWaitKind s i .queue)
      else match f s i x with
        | .error k => .next (trapHere s i l k.code k.src k.info)
        | .ok (s, m) => .next (enqueueMat s i o c p m))

/-- The first of the checks in the order of R217. -/
def firstFail (l : List IssueFault) (k : State × MatOp) : Except IssueFault (State × MatOp) :=
  match l with
  | [] => .ok k
  | e :: _ => .error e

/-- A SHAPE resource, or the fault of its use. -/
def shapeRes (s : State) (i : Iss) (idx : Nat) : Except IssueFault ResEntry :=
  match readEntry s i.T idx with
  | .error e => .error (entryFault e)
  | .ok e => if e.kind == .shape then .ok e else .error ⟨.resourceKind, .engine, idx⟩

/-! ## Fields (R217 to R224) -/

/-- An extent of 16 to 128 from a 3-bit code at a bit of IMM32. -/
def extentAt (p : FmtE) (bit : Nat) : Nat := 16 * (p.imm32.toNat / 2 ^ bit % 8 + 1)

/-- AUX8[3:0]. -/
def tileIdxOf (p : FmtE) : Nat := p.aux8.toNat % 16

/-! ## CHB and CHE (R218) -/

/-- CHB (R218): the chain opens at issue. -/
def execChb (c : Ctl) (p : FmtE) (s : State) : Result :=
  execQueued .chb c p (fun s i _ =>
    let slot := issSlot i p.fs.toNat
    let base := imm9 p
    let m := extentAt p 9
    let n := extentAt p 12
    let chains := (getMat s i.T.core).chains
    let k : Chain := { base := base, m := m, n := n, slot := p.fs.toNat, owner := i.u }
    firstFail (faultIf (slot.efmt != .f32 && slot.efmt != .s32) .resourceKind .engine p.ridx.toNat ++
      faultIf (base % (4 * m) != 0 || 512 < base + 4 * m) .accRange .engine base ++
      faultIf (4 ≤ chains.length || chainAt s i.T.core base (4 * m)) .chainOrder .engine base)
      (updMat s i.T.core (fun x => { x with chains := x.chains ++ [k] }),
       { id := 0, team := 0, unit := 0, kind := .chb (modeBit p 0), sb := none, slot := slot, row := base, rows := 4 * m,
         m := m, n := n })) s

/-- CHE (R218): the chain closes at issue. -/
def execChe (c : Ctl) (p : FmtE) (s : State) : Result :=
  execQueued .che c p (fun s i _ =>
    match ownChain s i (imm9 p) with
    | none => .error ⟨.chainOrder, .engine, imm9 p⟩
    | some k => .ok
      (updMat s i.T.core (fun x => { x with chains := x.chains.filter (fun y => y.base != k.base) }),
       { id := 0, team := 0, unit := 0, kind := .che, sb := none, slot := issSlot i k.slot, row := k.base, rows := 4 * k.m,
         m := k.m, n := k.n })) s

/-! ## MMA and WBLD (R205, R219, R220) -/

/-- MMA (R219). -/
def execMma (c : Ctl) (p : FmtE) (s : State) : Result :=
  execQueued .mma c p (fun s i x =>
    let idx := p.ridx.toNat
    match shapeRes s i idx with
    | .error e => .error e
    | .ok e =>
      let slot := issSlot i p.fs.toNat
      let t := tabGet {} (getMat s i.T.core).tiles (tileIdxOf p)
      if !elemFmt slot.efmt || !t.issued || t.efmt != slot.efmt then .error ⟨.resourceKind, .engine, idx⟩
      else match ownChain s i (imm9 p) with
        | none => .error ⟨.chainOrder, .engine, imm9 p⟩
        | some k =>
          let lo := lofOf p x
          firstFail (faultIf (t.n != k.n || 65536 ≤ k.mmas) .chainOrder .engine (imm9 p) ++
              shapeFaults i.T e lo (elemSize slot.efmt) k.m t.k)
            (updMat s i.T.core (fun y =>
                { y with chains := y.chains.map (fun z => if z.base = k.base then { z with mmas := z.mmas + 1 } else z) }),
             { id := 0, team := 0, unit := 0, kind := .mma (modeBit p 4) (modeBit p 3) (modeBit p 2) (tileIdxOf p), sb := none
               slot := slot, shape := e, lo := lo, row := k.base, rows := 4 * k.m, m := k.m, n := k.n, k := t.k
               ub := t.ub, units := t.units, w := (issSlot i k.slot).wexp, bsexp := t.sexp
               old := shapePieces s i.T e lo slot.efmt k.m t.k })) s

/-- The units of a tile (R205). -/
def tileUnits (k n es : Nat) : Nat := (k * n * es + k * n / 8 + 63) / 64

/-- The tiles after a WBLD's issue: the named tile counts as loaded, those it overlaps are empty (R205). -/
def tilesLoaded (tiles : Tab Tile) (idx : Nat) (t : Tile) : Tab Tile :=
  let rest := tabMap (fun j y => if j != idx && spansMeet y.ub y.units t.ub t.units then { y with issued := false } else y) tiles
  tabSet {} rest idx { t with elems := (tabGet {} tiles idx).elems }

/-- WBLD and WBLD.t (R220). -/
def execWbldOf (o : Op) (tr : Bool) (c : Ctl) (p : FmtE) (s : State) : Result :=
  execQueued o c p (fun s i x =>
    let idx := p.ridx.toNat
    match shapeRes s i idx with
    | .error e => .error e
    | .ok e =>
      let slot := issSlot i p.fs.toNat
      let ub := p.imm32.toNat % 2 ^ 12
      let k := extentAt p 12
      let n := extentAt p 15
      let es := elemSize slot.efmt
      let u := tileUnits k n es
      let lo := lofOf p x
      let t : Tile := { ub := ub, units := u, k := k, n := n, efmt := slot.efmt, sexp := slot.sexp, issued := true }
      let rows := if tr then n else k
      let cols := if tr then k else n
      firstFail (faultIf (!elemFmt slot.efmt) .resourceKind .engine idx ++ faultIf (4096 < ub + u) .accRange .engine ub ++
          shapeFaults i.T e lo es rows cols)
        (updMat s i.T.core (fun y => { y with tiles := tilesLoaded y.tiles (tileIdxOf p) t }),
         { id := 0, team := 0, unit := 0, kind := .wbld tr (tileIdxOf p), sb := none, slot := slot, shape := e, lo := lo
           n := n, k := k, ub := ub, units := u, old := shapePieces s i.T e lo slot.efmt rows cols })) s

/-- WBLD (R220). -/
def execWbld (c : Ctl) (p : FmtE) (s : State) : Result := execWbldOf .wbld false c p s
/-- WBLD.t (R220). -/
def execWbldT (c : Ctl) (p : FmtE) (s : State) : Result := execWbldOf .wbldT true c p s

/-! ## ACCZ and DRAIN (R221, R224) -/

/-- ACCZ (R221). -/
def execAccz (c : Ctl) (p : FmtE) (s : State) : Result :=
  execQueued .accz c p (fun s i _ =>
    let row := imm9 p
    let n := p.imm32.toNat / 2 ^ 16 % 2 ^ 9 + 1
    firstFail (faultIf (512 < row + n) .accRange .engine row ++ faultIf (chainAt s i.T.core row n) .chainOrder .engine row)
      (s, { id := 0, team := 0, unit := 0, kind := .accz, sb := none, slot := {}, row := row, rows := n })) s

/-- DRAIN's residual shape, where RES asks for one. -/
def drainRes (s : State) (i : Iss) (p : FmtE) : Except IssueFault ResEntry :=
  if modeBit p 4 then shapeRes s i (p.imm32.toNat / 2 ^ 16) else .ok {}

/-- DRAIN (R224). -/
def execDrain (c : Ctl) (p : FmtE) (s : State) : Result :=
  execQueued .drain c p (fun s i x =>
    let idx := p.ridx.toNat
    match shapeRes s i idx, drainRes s i p with
    | .error e, _ => .error e
    | _, .error e => .error e
    | .ok e, .ok e2 =>
      let slot := issSlot i p.fs.toNat
      let row := imm9 p
      let m := extentAt p 9
      let n := extentAt p 12
      let es := elemSize slot.efmt
      let org := modeBit p 2
      let lo := if modeBit p 1 then (if org then x.r.toNat else x.l.toNat) % 2 ^ 32 else 0
      firstFail (faultIf (!drainFmt slot.efmt) .resourceKind .engine idx ++ faultIf (512 < row + m) .accRange .engine row ++
          faultIf (chainAt s i.T.core row m) .chainOrder .engine row ++ shapeFaults i.T e lo es m n ++
          (if modeBit p 4 then shapeFaults i.T e2 lo es m n else []))
        (s, { id := 0, team := 0, unit := 0, kind := .drain (modeBit p 4) (modeBit p 3) (p.aux8.getLsbD 0), sb := none
              slot := slot, shape := e, shape2 := e2, lo := lo, row := row, rows := m, m := m, n := n
              org := if org then x.l.toNat % 2 ^ 64 else 0
              old := if modeBit p 4 then shapePieces s i.T e2 lo slot.efmt m n else [] })) s

/-! ## ACCRD, ACCWR, ACCWRD and ACCWWR (R222, R223) -/

/-- An access of the store at its turn: its row or index from the leader, its checks, then the wait for the queued
instructions that touch its rows (R215). -/
def atStore (o : Op) (c : Ctl) (p : FmtE) (s : State) (n : Nat)
    (rows : Iss → Nat → Except IssueFault (Nat × Nat)) (k : Iss → Nat → Result) : Result :=
  atTurn o c (.e p) s (fun i =>
    match leader (allOpnds i o c (.e p)) with
    | none => .next (finish s i o c (.e p) (List.replicate (laneCount i.u) none) 0 0)
    | some (l, x) =>
      let n := n + lofOf p x
      match rows i n with
      | .error e => .next (trapHere s i l e.code e.src e.info)
      | .ok (row, cnt) => if rowsFree (getCore s i.T.core) row cnt then k i n else .next s)

/-- A write of the store issues; its token completes after the planned slots (R216). -/
def finishStore (s : State) (i : Iss) (o : Op) (c : Ctl) (p : FmtE) : State :=
  sbTimed (advance s i o c (.e p) 0) i c (diePtc s (issDie i) + latency o c (.e p) i.u)

/-- The row that ACCRD and ACCWR reach. -/
def accRow (s : State) (i : Iss) (row : Nat) : Except IssueFault (Nat × Nat) :=
  if 511 < row then .error ⟨.accRange, .engine, row⟩
  else if chainAt s i.T.core row 1 then .error ⟨.chainOrder, .engine, row⟩
  else .ok (row, 1)

/-- The area that ACCWRD and ACCWWR reach. -/
def accArea (s : State) (i : Iss) (base j : Nat) : Except IssueFault (Nat × Nat) :=
  match ownChain s i base with
  | none => .error ⟨.chainOrder, .engine, base⟩
  | some k => if k.m ≤ j then .error ⟨.accRange, .engine, j⟩ else .ok (base, 4 * k.m)

/-- ACCRD (R222). -/
def execAccrd (c : Ctl) (p : FmtE) (s : State) : Result :=
  atStore .accrd c p s (imm9 p) (accRow s) (fun i row =>
    let lanes := ((allOpnds i .accrd c (.e p)).zipIdx).map (fun x =>
      x.1.map (fun _ => BitVec.ofNat 128 (tabGet 0 (getMat s i.T.core).acc (128 * row + x.2)).toNat))
    .next (finish s i .accrd c (.e p) lanes (latency .accrd c (.e p) i.u) 0))

/-- ACCWR (R222). -/
def execAccwr (c : Ctl) (p : FmtE) (s : State) : Result :=
  atStore .accwr c p s (imm9 p) (accRow s) (fun i row =>
    let s := updMat s i.T.core (fun m => { m with acc := (firing (allOpnds i .accwr c (.e p))).foldl (fun t x =>
      tabSet 0 t (128 * row + x.1) (BitVec.ofNat 32 x.2.r.toNat)) m.acc })
    .next (finishStore s i .accwr c p))

/-- The pattern that stands for a marked element (R223). -/
def markedVal : Nat := 2 ^ 127

/-- Columns of the issuing warp's chain. -/
def chainN (s : State) (i : Iss) (base : Nat) : Nat := ((ownChain s i base).map Chain.n).getD 0

/-- ACCWRD (R223). -/
def execAccwrd (c : Ctl) (p : FmtE) (s : State) : Result :=
  atStore .accwrd c p s (imm7 p) (fun i j => accArea s i (imm9 p) j) (fun i j =>
    let m := getMat s i.T.core
    let row := imm9 p + 4 * j
    let n := chainN s i (imm9 p)
    let val := fun l =>
      if n ≤ l then 0
      else if tabGet false m.marks (markKey row l) then markedVal
      else wideGet m row l
    let lanes := ((allOpnds i .accwrd c (.e p)).zipIdx).map (fun x => x.1.map (fun _ => BitVec.ofNat 128 (val x.2)))
    .next (finish s i .accwrd c (.e p) lanes (latency .accwrd c (.e p) i.u) 0))

/-- ACCWWR (R223). -/
def execAccwwr (c : Ctl) (p : FmtE) (s : State) : Result :=
  atStore .accwwr c p s (imm7 p) (fun i j => accArea s i (imm9 p) j) (fun i j =>
    let row := imm9 p + 4 * j
    let n := chainN s i (imm9 p)
    let put := fun (m : Matrix) (x : Nat × Opnds) =>
      if n ≤ x.1 then m
      else if x.2.r.toNat = markedVal then setMark m row x.1 true
      else setMark (wideSet m row x.1 x.2.r.toNat) row x.1 false
    let s := updMat s i.T.core (fun m => (firing (allOpnds i .accwwr c (.e p))).foldl put m)
    .next (finishStore s i .accwwr c p))

/-! ## Starting (R199, R215, R216) -/

/-- Feed intervals of an MMA (R199). -/
def feedCount (ty : Ty) (m : Nat) : Nat :=
  match ty with
  | .f32 => 4 * m
  | .f16 | .bf16 => m
  | .lg6 => m / 4
  | _ => m / 2

/-- Cycles from start to completion, but for an MMA's feed (R216). -/
def opCycles (o : MatOp) : Nat :=
  match o.kind with
  | .mma _ _ _ _ => 128
  | .wbld _ _ => 64 + o.k * o.n * elemSize o.slot.efmt / 128
  | .chb true => 32 + 4 * o.m
  | .chb false => 16
  | .che => 32 + 4 * o.m
  | .accz => 16 + o.rows
  | .drain res _ _ => if res then 64 + 4 * o.m else 64 + 2 * o.m

def findOp (s : State) (core id : Nat) : Option MatOp := (getMat s core).queue.find? (fun o => o.id == id)

def updOp (s : State) (core id : Nat) (f : MatOp → MatOp) : State :=
  updMat s core (fun m => { m with queue := m.queue.map (fun o => if o.id = id then f o else o) })

/-- MATRIX_START (R215). -/
def execMatrixStart (core id : Nat) (s : State) : Result :=
  match findOp s core id with
  | none => .next s
  | some o =>
    if o.started || !mayStart (getCore s core) o then .next s
    else
      let feed := match o.kind with
        | .mma _ _ _ _ => feedCount o.slot.efmt o.m
        | _ => 0
      .next (updOp s core id (fun o => { o with started := true, feed := feed, reached := 0, ready := s.ptc + opCycles o }))

/-! ## Completing (R210, R213, R218 to R225) -/

/-- Flags raised in a warp's register as a hardware event: a clear by the block in flight leaves them (R9, R127). -/
def raiseHw (s : State) (t u : Nat) (fl : Flags) : State :=
  updUnit s t u (fun w => { w with
    fflags := w.fflags ||| fl
    flight := w.flight.map (fun f => if f.entered then { f with raised := f.raised ||| fl } else f) })

/-- The pieces that an instruction reads, with the values that they hold now. -/
def valuesSeen (s : State) (T : Team) (o : MatOp) : Tab (List Word) :=
  tabMap (fun w l => if l.head? == some (winPiece s T w) then l else winPiece s T w :: l) o.old

/-- Every queued instruction of a core sees what its pieces hold in this cycle, but for a DRAIN that has begun to write and has read
its residual pieces. -/
def watchPieces (s : State) (core : Nat) : State :=
  if (getMat s core).queue.isEmpty then s
  else updMat s core (fun m => { m with queue := m.queue.map (fun o => match getTeam s o.team with
    | some T => if o.written = 0 then { o with old := valuesSeen s T o } else o
    | none => o) })

/-- A piece as a racing instruction reads it: one of the values that it has held since the issue (R202, log 10). -/
def racyPiece (free w : Nat) (l : List Word) : Word :=
  if l.length ≤ 1 then l.headD 0 else l.getD ((Config.freeVal (free + w)).toNat % l.length) 0

/-- The elements that an instruction reads, each as its piece is read. -/
def readElems (s : State) (T : Team) (e : ResEntry) (o : MatOp) : Nat → Nat → Nat :=
  let seen := if o.written = 0 then valuesSeen s T o else o.old
  let es := elemSize o.slot.efmt
  fun a b =>
    let x := shapeAddr e o.lo es a b
    if inShape e a b then (racyPiece s.free (x / 4) (tabGet [] seen (x / 4))).toNat / 256 ^ (x % 4) % 256 ^ es
    else zeroElem o.slot.efmt

/-- The free values that `readElems` takes, one a piece of the window. -/
def tookElems (s : State) : State := { s with free := s.free + 2 ^ 17 }

/-- CHB's effect (R218). -/
def chbEffect (o : MatOp) (init : Bool) (m : Matrix) : Matrix :=
  let term := fun (i j : Nat) =>
    let w := (tabGet 0 m.acc (128 * (o.row + i) + j)).toNat
    let v := if o.slot.efmt == .s32 then .fin (sxNat 32 w < 0) (sxNat 32 w).natAbs 0 else fIn fmt32 o.slot.flush w
    match elemFV v with
    | .num s k e => gridTerm o.slot.wexp s k e
    | .mark => none
    | _ => some 0
  overTile o.m o.n (fun x i j =>
    let x := wideZero x (o.row + 4 * i) j
    if init then wideAdd x (o.row + 4 * i) j (term i j) else x) m

/-- The at-rest pattern of an element at CHE (R213). -/
def cheValue (o : MatOp) (m : Matrix) (i j : Nat) : Nat × Flags :=
  let row := o.row + 4 * i
  let int := o.slot.efmt == .s32
  if tabGet false m.marks (markKey row j) then (if int then 2 ^ 31 else fNaN fmt32, flCHOV)
  else
    let v := sxNat 128 (wideGet m row j)
    if int then
      let r := rndShift o.slot.rmode (v < 0) v.natAbs (-o.slot.wexp)
      let x := signed (v < 0) r.1
      let y := satI (-2 ^ 31) (2 ^ 31 - 1) x
      ((y % 2 ^ 32).toNat, (if x = y then 0 else flNV) ||| (if r.2 then flNX else 0))
    else fRound fmt32 o.slot.rmode o.slot.flush (.fin (v < 0) v.natAbs o.slot.wexp)

/-- CHE's effect (R213). -/
def cheEffect (o : MatOp) (m : Matrix) : Matrix × Flags :=
  let cleared := overTile (4 * o.m) o.n (fun (t : Tab Word) i j => tabSet 0 t (128 * (o.row + i) + j) 0) m.acc
  let acc := overTile o.m o.n (fun (a : Tab Word × Flags) i j =>
    let r := cheValue o m i j
    (tabSet 0 a.1 (128 * (o.row + i) + j) (BitVec.ofNat 32 r.1), a.2 ||| r.2)) (cleared, 0)
  let marks := overTile o.m o.n (fun (t : Tab Bool) i j => tabSet false t (markKey (o.row + 4 * i) j) false) m.marks
  ({ m with acc := acc.1, marks := marks }, acc.2)

/-- MMA's effect (R210, R219). -/
def mmaEffect (o : MatOp) (na nb ad : Bool) (a : Nat → Nat → Nat) (b : Tab Word) (m : Matrix) : Matrix :=
  let ty := o.slot.efmt
  let neg := fun (n : Bool) x => if n then melemNeg x else x
  overTile o.m o.n (fun x i j =>
    let row := o.row + 4 * i
    let x := if ad then wideZero x row j else x
    (List.range o.k).foldl (fun x k =>
      wideAdd x row j (gridProd (lgQ ty) (o.slot.sexp + o.bsexp) o.w (neg na (melem ty o.slot.flush (a i k)))
        (neg nb (melem ty false (tabGet 0 b (128 * k + j)).toNat)))) x) m

/-- A B element as the buffer holds it: a zero of any sign, and a subnormal under FLUSH, is +0 (R206). -/
def storedElem (ty : Ty) (flush : Bool) (x : Nat) : Nat :=
  match melem ty flush x with
  | .zero => zeroElem ty
  | _ => x

/-- WBLD's effect (R206, R220). -/
def wbldEffect (o : MatOp) (tr : Bool) (tile : Nat) (src : Nat → Nat → Nat) (m : Matrix) : Matrix :=
  let elems := overTile o.k o.n (fun (t : Tab Word) k j => tabSet 0 t (128 * k + j)
    (BitVec.ofNat 32 (storedElem o.slot.efmt o.slot.flush (if tr then src j k else src k j)))) []
  let kept := tabMapD {} (fun j (t : Tile) =>
    if j != tile && !t.issued && spansMeet t.ub t.units o.ub o.units then {} else t) m.tiles
  { m with tiles := tabSet {} kept tile { (tabGet {} kept tile) with elems := elems } }

/-- keep(seed, gr, gc) (R225). -/
def dropKeep (seed gr gc dkeep : Nat) : Bool :=
  let mix := fun (x k sh : Nat) => let y := x * k % 2 ^ 64; y ^^^ (y / 2 ^ sh)
  let x := (seed ^^^ (gr % 2 ^ 32 * 2 ^ 32 + gc % 2 ^ 32))
  let x := mix x 0xA3C59E174F2B6D8B 29
  let x := mix x 0xE6F10B9358C427A5 31
  let x := mix x 0x9B2D71E8C3A6F451 27
  let x := mix x 0xC84E2F6B91D73A1D 33
  x / 2 ^ 48 < dkeep

/-- A residual element's value (R224). -/
def residVal (slot : FmtSlot) (x : Nat) : FV :=
  match slot.efmt with
  | .lg6 | .lg8 => match lgDecode (lgQ slot.efmt) x with
    | .nar => .nan false
    | .zero => .fin false 0 0
    | .val s c => let k := lgterm s c (lgQ slot.efmt); .fin (k < 0) k.natAbs (slot.sexp - 23)
  | .s8 => let k := sxNat 8 x; .fin (k < 0) k.natAbs slot.sexp
  | .n8 => .fin false (x % 256) slot.sexp
  | .s32 => let k := sxNat 32 x; .fin (k < 0) k.natAbs slot.sexp
  | .n32 => .fin false (x % 2 ^ 32) slot.sexp
  | ty => fvScale (fIn (fmtOf ty) slot.flush x) slot.sexp

/-- DRAIN's output conversion (R224). -/
def drainOut (slot : FmtSlot) (v : FV) : Nat × Flags :=
  match slot.efmt with
  | .lg6 | .lg8 => lgenc v (lgQ slot.efmt) slot.sexp
  | .f32 | .f16 | .bf16 =>
    let r := fRound (fmtOf slot.efmt) slot.rmode slot.flush (fvScale v (-slot.sexp))
    (r.1, r.2 ||| (if v = .nan true then flNV else 0))
  | ty =>
    let lo := tyMinI ty
    let hi := tyMaxI ty
    match v with
    | .nan _ => (0, flNV)
    | .inf s => (((if s then lo else hi) % 2 ^ 32).toNat, flNV)
    | .fin s m e =>
      let r := fvInt slot.rmode s m (e - slot.sexp)
      let x := signed s r.1
      let y := satI lo hi x
      ((y % 2 ^ 32).toNat, (if x = y then 0 else flNV) ||| (if r.2 then flNX else 0))

/-- One element of a DRAIN: its pattern and the flags (R224). -/
def drainElem (o : MatOp) (drp res intIn : Bool) (seed : Nat) (acc : Nat) (resid : Nat) (i j : Nat) : Nat × Flags :=
  let f := o.slot.flush
  let x : FV := if intIn then .fin (sxNat 32 acc < 0) (sxNat 32 acc).natAbs 0 else fDecode fmt32 acc
  let (x, f1) : FV × Flags :=
    if drp && o.slot.dkeep != 0 then
      if dropKeep seed (o.org % 2 ^ 32 + i) (o.org / 2 ^ 32 + j) o.slot.dkeep then
        let p := fvMul x (fDecode fmt32 o.slot.dmult.toNat)
        let r := fRound fmt32 .rne f p.1
        (fDecode fmt32 r.1, p.2 ||| r.2)
      else (.fin false 0 0, 0)
    else (x, 0)
  let (x, f2) : FV × Flags :=
    if res then
      let p := fvAdd false x (residVal o.slot resid)
      let r := fRound fmt32 .rne f p.1
      (fDecode fmt32 r.1, p.2 ||| r.2)
    else (x, 0)
  let r := drainOut o.slot x
  (r.1, f1 ||| f2 ||| r.2)

/-- One element of a DRAIN written, and the flags that it raises; visible to LDS at once (R224). -/
def drainWrite (s : State) (core : Nat) (T : Team) (o : MatOp) (drp res intIn : Bool) (resid : Nat → Nat → Nat) (i j : Nat) :
    State × Flags :=
  let es := elemSize o.slot.efmt
  let r := drainElem o drp res intIn T.lrec.seed.toNat (tabGet 0 (getMat s core).acc (128 * (o.row + i) + j)).toNat (resid i j) i j
  if inShape o.shape i j then
    let x := shapeAddr o.shape o.lo es i j
    (spStore s false o.team noUnit T x (fun b => spAddr T (x + b)) (numBytes es r.1), r.2)
  else (s, r.2)

/-- The banks that a DRAIN reaches with an element. -/
def drainBanks (T : Team) (o : MatOp) (i j : Nat) : List Nat :=
  if inShape o.shape i j then spBanks T (shapeAddr o.shape o.lo (elemSize o.slot.efmt) i j) (elemSize o.slot.efmt) else []

/-- The elements of a DRAIN from number `k` on, in ascending order, up to the first whose banks are not free (R224, R252): the state,
the flags, and how many elements are written. -/
def drainFrom (core : Nat) (T : Team) (o : MatOp) (drp res intIn : Bool) (resid : Nat → Nat → Nat) :
    Nat → Nat → State → State × Flags × Nat
  | 0, k, s => (s, 0, k)
  | fuel + 1, k, s =>
    if !banksFree s core (drainBanks T o (k / o.n) (k % o.n)) then (s, 0, k)
    else
      let r := drainWrite s core T o drp res intIn resid (k / o.n) (k % o.n)
      let q := drainFrom core T o drp res intIn resid fuel (k + 1) r.1
      (q.1, r.2 ||| q.2.1, q.2.2)

/-- A DRAIN's step: the elements whose banks are free are written. As the first is, the pieces of its residual are read (R202). -/
def drainStep (s : State) (core : Nat) (T : Team) (o : MatOp) (drp res intIn : Bool) : State × MatOp :=
  let seen := tabMap (fun w l => [racyPiece s.free w l]) (valuesSeen s T o)
  let r := drainFrom core T o drp res intIn (readElems s T o.shape2 o) (o.m * o.n - o.written) o.written s
  let o' := { o with
    written := r.2.2, raised := o.raised ||| r.2.1
    old := if o.written = 0 && r.2.2 != 0 then seen else o.old }
  (if o.written = 0 then tookElems r.1 else r.1, o')

/-- The effect of a queued instruction at its completion, with the flags it raises; a DRAIN has written its elements. -/
def matEffect (s : State) (core : Nat) (T : Team) (o : MatOp) : State × Flags :=
  match o.kind with
  | .chb init => (updMat s core (chbEffect o init), 0)
  | .che =>
    let r := cheEffect o (getMat s core)
    (updMat s core (fun _ => r.1), r.2)
  | .mma na nb ad tile =>
    let a := readElems s T o.shape o
    (updMat (tookElems s) core (mmaEffect o na nb ad a (tabGet {} (getMat s core).tiles tile).elems), 0)
  | .wbld tr tile =>
    let src := readElems s T o.shape o
    (updMat (tookElems s) core (wbldEffect o tr tile src), 0)
  | .accz => (updMat s core (fun m => { m with acc := overTile o.rows 128 (fun t i j => tabSet 0 t (128 * (o.row + i) + j) 0) m.acc }), 0)
  | .drain _ _ _ => (s, o.raised)

/-- The banks that WBLD reads, and a DRAIN for its residual, before they complete; those of an MMA's rows are reached as they are fed
(R202). -/
def opBanks (T : Team) (o : MatOp) : List Nat :=
  let es := elemSize o.slot.efmt
  match o.kind with
  | .wbld tr _ => (List.range (if tr then o.n else o.k)).flatMap (fun i => rowBanks T o.shape o.lo es i (if tr then o.k else o.n))
  | .drain true _ _ => (List.range o.m).flatMap (fun i => rowBanks T o.shape2 o.lo es i o.n)
  | _ => []

/-- What a queued instruction still does before it completes: a DRAIN writes its elements. -/
def matProgress (s : State) (core : Nat) (T : Team) (o : MatOp) : State × MatOp :=
  match o.kind with
  | .drain res drp intIn => drainStep s core T o drp res intIn
  | _ => (s, o)

/-- A queued instruction has nothing more to write before it completes. -/
def matWritten (o : MatOp) : Bool :=
  match o.kind with
  | .drain _ _ _ => o.written == o.m * o.n
  | _ => true

/-- MATRIX_COMPLETE (R214, R216); a DRAIN with elements whose banks are not free writes them in a later cycle (R252). -/
def execMatrixComplete (core id : Nat) (s : State) : Result :=
  match findOp s core id with
  | none => .next s
  | some o => match getTeam s o.team with
    | none => .next s
    | some T =>
      if !o.started || o.feed != 0 || s.ptc < o.ready || (o.written = 0 && !banksReached s core o.reached (opBanks T o)) then .next s
      else
        let (s, o) := matProgress s core T o
        if !matWritten o then .next (updOp s core id (fun _ => o)) else
        let (s, fl) := matEffect s core T o
        let s := updMat s core (fun m => { m with queue := m.queue.filter (fun x => x.id != id) })
        .next (completeTok (raiseHw s o.team o.unit fl) o.team o.unit o.sb id .complete)

/-! ## The ramp limiter (R201, R353) -/

/-- The most that L may be: 32, and 16 while the current is clamped (R353). -/
def rampTop (s : State) : Nat := if s.currentCap then 16 else 32

/-- The intervals that a window admits. -/
def rampLimit (s : State) (m : Matrix) : Nat := min m.rampL (rampTop s)

/-- A window ends once its 32 cycles have passed: where it used all of its intervals L rises by 4 (R201). R201 does not say where the
windows begin, but counts its figures from idle: the model begins one with the interval that ends an idle array (log 48, DEDUCED). -/
def nextWindow (s : State) (m : Matrix) : Matrix :=
  if s.ptc < m.windowAt + 32 then m
  else
    let l := rampLimit s m
    { m with rampL := if l ≤ m.used then min (rampTop s) (l + 4) else l, used := 0
             windowAt := s.ptc - (s.ptc - m.windowAt) % 32 }

/-- After 64 consecutive bubble cycles L returns to 4 (R201), and the array is idle. -/
def idleRamp (m : Matrix) : Matrix := if m.bubbleRun < 64 then m else { m with rampL := 4, bubbleRun := 0, idle := true }

/-- RAMP_WINDOW (R201). -/
def execRampWindow (core : Nat) (s : State) : Result := .next (updMat s core (nextWindow s))

/-- RAMP_RESET (R201). -/
def execRampReset (core : Nat) (s : State) : Result := .next (updMat s core idleRamp)

/-- The first running MMA with intervals to feed. -/
def feeding (m : Matrix) : Option MatOp := m.queue.find? (fun o => o.started && o.feed != 0)

/-- The rows of A that the next interval of an MMA feeds (R199). -/
def feedRows (o : MatOp) : List Nat :=
  let n := feedCount o.slot.efmt o.m - o.feed
  match o.slot.efmt with
  | .f32 => [n / 4]
  | .f16 | .bf16 => [n]
  | .lg6 => [4 * n, 4 * n + 1, 4 * n + 2, 4 * n + 3]
  | _ => [2 * n, 2 * n + 1]

/-- The scratchpad reads of the next interval of an MMA have returned: it has reached their banks (R200, R202). -/
def feedReady (s : State) (core : Nat) (o : MatOp) : Bool :=
  match getTeam s o.team with
  | none => true
  | some T => banksReached s core o.reached
      ((feedRows o).flatMap (fun i => rowBanks T o.shape o.lo (elemSize o.slot.efmt) i o.k))

/-- A bubble (R200). -/
def bubble (s : State) (core : Nat) : State :=
  updMat s core (fun m => { m with bubbleRun := m.bubbleRun + 1 })

/-- An interval is fed: the first one after an idle time begins a window. -/
def useInterval (s : State) (m : Matrix) : Matrix :=
  if m.idle then { m with idle := false, windowAt := s.ptc, used := 1, bubbleRun := 0 }
  else { m with used := m.used + 1, bubbleRun := 0 }

/-- One interval of the array in a cycle (R199 to R201): it feeds the oldest running MMA whose reads have returned where the
limiter admits it, else it is a bubble; a bubble that the limiter inserts counts. -/
def feedCycle (s : State) (core : Nat) : State :=
  let s := updMat s core (fun m => idleRamp (nextWindow s m))
  let m := getMat s core
  match feeding m with
  | none => bubble s core
  | some o =>
    if !feedReady s core o then bubble s core
    else if m.idle || m.used < rampLimit s m then
      let s := updMat s core (useInterval s)
      updOp s core o.id (fun o =>
        { o with feed := o.feed - 1, reached := 0, ready := if o.feed = 1 then s.ptc + 129 else o.ready })
    else bubble (bump s core 5 1) core

end Sys2Proof.Machine
end

