-- ==== Sys2Proof/Machine/Dispatch.lean ====
section
/-! DEFINITION. The dispatch: one arm for each row of the opcode table, a direct call of its meaning. -/

namespace Sys2Proof.Machine

/-- What an instruction word does on the issuing unit, or what a step of the machine's own does. -/
def exec (i : Instr) (s : State) : Host.Outcome State Fault Refusal :=
  match i with
  | .nul c => Sys2Proof.Machine.execNul c s
  | .succ c => Sys2Proof.Machine.execSucc c s
  | .brc c => Sys2Proof.Machine.execBrc c s
  | .jmps c => Sys2Proof.Machine.execJmps c s
  | .call c p => Sys2Proof.Machine.execCall c p s
  | .calli c p => Sys2Proof.Machine.execCalli c p s
  | .ret c => Sys2Proof.Machine.execRet c s
  | .exit c => Sys2Proof.Machine.execExit c s
  | .voteAny c => Sys2Proof.Machine.execVoteAny c s
  | .voteAll c => Sys2Proof.Machine.execVoteAll c s
  | .voteBallot c => Sys2Proof.Machine.execVoteBallot c s
  | .voteCount c => Sys2Proof.Machine.execVoteCount c s
  | .maskrd c => Sys2Proof.Machine.execMaskrd c s
  | .mov c => Sys2Proof.Machine.execMov c s
  | .add c p => Sys2Proof.Machine.execAdd c p s
  | .sub c p => Sys2Proof.Machine.execSub c p s
  | .mul c p => Sys2Proof.Machine.execMul c p s
  | .mulhi c p => Sys2Proof.Machine.execMulhi c p s
  | .mad c p => Sys2Proof.Machine.execMad c p s
  | .add64 c p => Sys2Proof.Machine.execAdd64 c p s
  | .sub64 c p => Sys2Proof.Machine.execSub64 c p s
  | .mad64 c p => Sys2Proof.Machine.execMad64 c p s
  | .idiv c p => Sys2Proof.Machine.execIdiv c p s
  | .irem c p => Sys2Proof.Machine.execIrem c p s
  | .min_ c p => Sys2Proof.Machine.execMin c p s
  | .max_ c p => Sys2Proof.Machine.execMax c p s
  | .abs_ c p => Sys2Proof.Machine.execAbs c p s
  | .neg_ c p => Sys2Proof.Machine.execNeg c p s
  | .and_ c p => Sys2Proof.Machine.execAnd c p s
  | .or_ c p => Sys2Proof.Machine.execOr c p s
  | .xor_ c p => Sys2Proof.Machine.execXor c p s
  | .andn c p => Sys2Proof.Machine.execAndn c p s
  | .not_ c p => Sys2Proof.Machine.execNot c p s
  | .shl c p => Sys2Proof.Machine.execShl c p s
  | .shr c p => Sys2Proof.Machine.execShr c p s
  | .sar c p => Sys2Proof.Machine.execSar c p s
  | .rol c p => Sys2Proof.Machine.execRol c p s
  | .popc c p => Sys2Proof.Machine.execPopc c p s
  | .clz c p => Sys2Proof.Machine.execClz c p s
  | .ctz c p => Sys2Proof.Machine.execCtz c p s
  | .brev c p => Sys2Proof.Machine.execBrev c p s
  | .bfx c p => Sys2Proof.Machine.execBfx c p s
  | .bfi c p => Sys2Proof.Machine.execBfi c p s
  | .prmt c p => Sys2Proof.Machine.execPrmt c p s
  | .cmpEq c p => Sys2Proof.Machine.execCmpEq c p s
  | .cmpNe c p => Sys2Proof.Machine.execCmpNe c p s
  | .cmpLt c p => Sys2Proof.Machine.execCmpLt c p s
  | .cmpLe c p => Sys2Proof.Machine.execCmpLe c p s
  | .cmpGt c p => Sys2Proof.Machine.execCmpGt c p s
  | .cmpGe c p => Sys2Proof.Machine.execCmpGe c p s
  | .sel c p => Sys2Proof.Machine.execSel c p s
  | .movi c p => Sys2Proof.Machine.execMovi c p s
  | .addhi c p => Sys2Proof.Machine.execAddhi c p s
  | .lea c p => Sys2Proof.Machine.execLea c p s
  | .sext c p => Sys2Proof.Machine.execSext c p s
  | .zext c p => Sys2Proof.Machine.execZext c p s
  | .dp4 c p => Sys2Proof.Machine.execDp4 c p s
  | .shflIdx c p => Sys2Proof.Machine.execShflIdx c p s
  | .shflRot c p => Sys2Proof.Machine.execShflRot c p s
  | .shflXor c p => Sys2Proof.Machine.execShflXor c p s
  | .shflRev c p => Sys2Proof.Machine.execShflRev c p s
  | .reduxAdd c p => Sys2Proof.Machine.execReduxAdd c p s
  | .reduxMin c p => Sys2Proof.Machine.execReduxMin c p s
  | .reduxMax c p => Sys2Proof.Machine.execReduxMax c p s
  | .reduxAnd c p => Sys2Proof.Machine.execReduxAnd c p s
  | .reduxOr c p => Sys2Proof.Machine.execReduxOr c p s
  | .reduxXor c p => Sys2Proof.Machine.execReduxXor c p s
  | .fadd c p => Sys2Proof.Machine.execFadd c p s
  | .fsub c p => Sys2Proof.Machine.execFsub c p s
  | .fmul c p => Sys2Proof.Machine.execFmul c p s
  | .ffma c p => Sys2Proof.Machine.execFfma c p s
  | .fmin c p => Sys2Proof.Machine.execFmin c p s
  | .fmax c p => Sys2Proof.Machine.execFmax c p s
  | .fsgnCp c p => Sys2Proof.Machine.execFsgnCp c p s
  | .fsgnNeg c p => Sys2Proof.Machine.execFsgnNeg c p s
  | .fsgnXor c p => Sys2Proof.Machine.execFsgnXor c p s
  | .fcmpEq c p => Sys2Proof.Machine.execFcmpEq c p s
  | .fcmpNe c p => Sys2Proof.Machine.execFcmpNe c p s
  | .fcmpLt c p => Sys2Proof.Machine.execFcmpLt c p s
  | .fcmpLe c p => Sys2Proof.Machine.execFcmpLe c p s
  | .fcmpGt c p => Sys2Proof.Machine.execFcmpGt c p s
  | .fcmpGe c p => Sys2Proof.Machine.execFcmpGe c p s
  | .fcmpUn c p => Sys2Proof.Machine.execFcmpUn c p s
  | .fclass c p => Sys2Proof.Machine.execFclass c p s
  | .fscale c p => Sys2Proof.Machine.execFscale c p s
  | .frnd c p => Sys2Proof.Machine.execFrnd c p s
  | .frcp c p => Sys2Proof.Machine.execFrcp c p s
  | .frsq c p => Sys2Proof.Machine.execFrsq c p s
  | .fsqrt c p => Sys2Proof.Machine.execFsqrt c p s
  | .fexp2 c p => Sys2Proof.Machine.execFexp2 c p s
  | .flog2 c p => Sys2Proof.Machine.execFlog2 c p s
  | .fsincos c p => Sys2Proof.Machine.execFsincos c p s
  | .ftanh c p => Sys2Proof.Machine.execFtanh c p s
  | .hfma2 c p => Sys2Proof.Machine.execHfma2 c p s
  | .bfma2 c p => Sys2Proof.Machine.execBfma2 c p s
  | .dadd c p => Sys2Proof.Machine.execDadd c p s
  | .dmul c p => Sys2Proof.Machine.execDmul c p s
  | .dfma c p => Sys2Proof.Machine.execDfma c p s
  | .fcvt c p => Sys2Proof.Machine.execFcvt c p s
  | .ftoi c p => Sys2Proof.Machine.execFtoi c p s
  | .itof c p => Sys2Proof.Machine.execItof c p s
  | .pack c p => Sys2Proof.Machine.execPack c p s
  | .unpk c p => Sys2Proof.Machine.execUnpk c p s
  | .lgmul c p => Sys2Proof.Machine.execLgmul c p s
  | .lgcvt c p => Sys2Proof.Machine.execLgcvt c p s
  | .lgexp c p => Sys2Proof.Machine.execLgexp c p s
  | .lgdot c p => Sys2Proof.Machine.execLgdot c p s
  | .fflagsRd c => Sys2Proof.Machine.execFflagsRd c s
  | .fflagsClr c => Sys2Proof.Machine.execFflagsClr c s
  | .ld c p => Sys2Proof.Machine.execLd c p s
  | .st c p => Sys2Proof.Machine.execSt c p s
  | .lds c p => Sys2Proof.Machine.execLds c p s
  | .sts c p => Sys2Proof.Machine.execSts c p s
  | .ldc c p => Sys2Proof.Machine.execLdc c p s
  | .atomAdd c p => Sys2Proof.Machine.execAtomAdd c p s
  | .atomMin c p => Sys2Proof.Machine.execAtomMin c p s
  | .atomMax c p => Sys2Proof.Machine.execAtomMax c p s
  | .atomAnd c p => Sys2Proof.Machine.execAtomAnd c p s
  | .atomOr c p => Sys2Proof.Machine.execAtomOr c p s
  | .atomXor c p => Sys2Proof.Machine.execAtomXor c p s
  | .atomExch c p => Sys2Proof.Machine.execAtomExch c p s
  | .atomcas c p => Sys2Proof.Machine.execAtomcas c p s
  | .atomvOr c p => Sys2Proof.Machine.execAtomvOr c p s
  | .atomvAnd c p => Sys2Proof.Machine.execAtomvAnd c p s
  | .atomvAdd c p => Sys2Proof.Machine.execAtomvAdd c p s
  | .atomvMax c p => Sys2Proof.Machine.execAtomvMax c p s
  | .satomAdd c p => Sys2Proof.Machine.execSatomAdd c p s
  | .satomMin c p => Sys2Proof.Machine.execSatomMin c p s
  | .satomMax c p => Sys2Proof.Machine.execSatomMax c p s
  | .satomAnd c p => Sys2Proof.Machine.execSatomAnd c p s
  | .satomOr c p => Sys2Proof.Machine.execSatomOr c p s
  | .satomXor c p => Sys2Proof.Machine.execSatomXor c p s
  | .satomExch c p => Sys2Proof.Machine.execSatomExch c p s
  | .fenceAcq c p => Sys2Proof.Machine.execFenceAcq c p s
  | .fenceRel c p => Sys2Proof.Machine.execFenceRel c p s
  | .fenceAr c p => Sys2Proof.Machine.execFenceAr c p s
  | .pfetch c p => Sys2Proof.Machine.execPfetch c p s
  | .cinv c p => Sys2Proof.Machine.execCinv c p s
  | .claim c p => Sys2Proof.Machine.execClaim c p s
  | .claimRel c p => Sys2Proof.Machine.execClaimRel c p s
  | .cpytLd c p => Sys2Proof.Machine.execCpytLd c p s
  | .cpytSt c p => Sys2Proof.Machine.execCpytSt c p s
  | .cpybLd c p => Sys2Proof.Machine.execCpybLd c p s
  | .cpybSt c p => Sys2Proof.Machine.execCpybSt c p s
  | .cpyg c p => Sys2Proof.Machine.execCpyg c p s
  | .cpys c p => Sys2Proof.Machine.execCpys c p s
  | .cpyaccIn c p => Sys2Proof.Machine.execCpyaccIn c p s
  | .cpyaccOut c p => Sys2Proof.Machine.execCpyaccOut c p s
  | .publ c p => Sys2Proof.Machine.execPubl c p s
  | .cpyrGet c p => Sys2Proof.Machine.execCpyrGet c p s
  | .cpyrPut c p => Sys2Proof.Machine.execCpyrPut c p s
  | .cred c p => Sys2Proof.Machine.execCred c p s
  | .tokq c p => Sys2Proof.Machine.execTokq c p s
  | .cpycan c p => Sys2Proof.Machine.execCpycan c p s
  | .chb c p => Sys2Proof.Machine.execChb c p s
  | .che c p => Sys2Proof.Machine.execChe c p s
  | .mma c p => Sys2Proof.Machine.execMma c p s
  | .wbld c p => Sys2Proof.Machine.execWbld c p s
  | .wbldT c p => Sys2Proof.Machine.execWbldT c p s
  | .accz c p => Sys2Proof.Machine.execAccz c p s
  | .accrd c p => Sys2Proof.Machine.execAccrd c p s
  | .accwr c p => Sys2Proof.Machine.execAccwr c p s
  | .drain c p => Sys2Proof.Machine.execDrain c p s
  | .accwrd c p => Sys2Proof.Machine.execAccwrd c p s
  | .accwwr c p => Sys2Proof.Machine.execAccwwr c p s
  | .gcfg c p => Sys2Proof.Machine.execGcfg c p s
  | .grun c p => Sys2Proof.Machine.execGrun c p s
  | .gstop c p => Sys2Proof.Machine.execGstop c p s
  | .gwait c p => Sys2Proof.Machine.execGwait c p s
  | .gqry c p => Sys2Proof.Machine.execGqry c p s
  | .gframe c p => Sys2Proof.Machine.execGframe c p s
  | .lctx c p => Sys2Proof.Machine.execLctx c p s
  | .strmo c p => Sys2Proof.Machine.execStrmo c p s
  | .strma c p => Sys2Proof.Machine.execStrma c p s
  | .strmb c p => Sys2Proof.Machine.execStrmb c p s
  | .strmc c p => Sys2Proof.Machine.execStrmc c p s
  | .strmq c p => Sys2Proof.Machine.execStrmq c p s
  | .bar c p => Sys2Proof.Machine.execBar c p s
  | .bara c p => Sys2Proof.Machine.execBara c p s
  | .barw c p => Sys2Proof.Machine.execBarw c p s
  | .barx c p => Sys2Proof.Machine.execBarx c p s
  | .stgfill c p => Sys2Proof.Machine.execStgfill c p s
  | .stgwait c p => Sys2Proof.Machine.execStgwait c p s
  | .stgfree c p => Sys2Proof.Machine.execStgfree c p s
  | .sleept c p => Sys2Proof.Machine.execSleept c p s
  | .tokw c p => Sys2Proof.Machine.execTokw c p s
  | .tokwF c p => Sys2Proof.Machine.execTokwF c p s
  | .waitx c p => Sys2Proof.Machine.execWaitx c p s
  | .realign c p => Sys2Proof.Machine.execRealign c p s
  | .trap c p => Sys2Proof.Machine.execTrap c p s
  | .tret c => Sys2Proof.Machine.execTret c s
  | .srd c p => Sys2Proof.Machine.execSrd c p s
  | .swr c p => Sys2Proof.Machine.execSwr c p s
  | .yield c => Sys2Proof.Machine.execYield c s
  | .nopb c => Sys2Proof.Machine.execNopb c s
  | .bkpt c p => Sys2Proof.Machine.execBkpt c p s
  | .perfrd c p => Sys2Proof.Machine.execPerfrd c p s
  | .spawn c p => Sys2Proof.Machine.execSpawn c p s
  | .blockEntry t u => Sys2Proof.Machine.execBlockEntry t u s
  | .codePageHashCheck t u => Sys2Proof.Machine.execCodePageHashCheck t u s
  | .headerPrefetchIssue t u => Sys2Proof.Machine.execHeaderPrefetchIssue t u s
  | .blockCommit t u => Sys2Proof.Machine.execBlockCommit t u s
  | .groupFusion t u g => Sys2Proof.Machine.execGroupFusion t u g s
  | .trapDelivery t u => Sys2Proof.Machine.execTrapDelivery t u s
  | .storeDieForward id => Sys2Proof.Machine.execStoreDieForward id s
  | .homeApplyWrite id => Sys2Proof.Machine.execHomeApplyWrite id s
  | .loadAtHome id lease => Sys2Proof.Machine.execLoadAtHome id lease s
  | .atomicAtHome id => Sys2Proof.Machine.execAtomicAtHome id s
  | .atomicResponse id => Sys2Proof.Machine.execAtomicResponse id s
  | .atomicResponseLost id => Sys2Proof.Machine.execAtomicResponseLost id s
  | .leaseExpiry die line => Sys2Proof.Machine.execLeaseExpiry die line s
  | .hostPostedWrite src addr bytes => Sys2Proof.Machine.execHostPostedWrite src addr bytes s
  | .hostWriteAck id => Sys2Proof.Machine.execHostWriteAck id s
  | .claimComplete id => Sys2Proof.Machine.execClaimComplete id s
  | .cinvComplete t u => Sys2Proof.Machine.execCinvComplete t u s
  | .tlbInvalidation vf page => Sys2Proof.Machine.execTlbInvalidation vf page s
  | .copyComplete core id => Sys2Proof.Machine.execCopyComplete core id s
  | .missedPromise t u sb => Sys2Proof.Machine.execMissedPromise t u sb s
  | .publish view => Sys2Proof.Machine.execPublish view s
  | .copySlowPath core id => Sys2Proof.Machine.execCopySlowPath core id s
  | .slowPathEnd core id => Sys2Proof.Machine.execSlowPathEnd core id s
  | .credInstanceComplete vf group kind count contributions => Sys2Proof.Machine.execCredInstanceComplete vf group kind count contributions s
  | .matrixStart core id => Sys2Proof.Machine.execMatrixStart core id s
  | .matrixComplete core id => Sys2Proof.Machine.execMatrixComplete core id s
  | .rampWindow core => Sys2Proof.Machine.execRampWindow core s
  | .rampReset core => Sys2Proof.Machine.execRampReset core s
  | .gridCycle core => Sys2Proof.Machine.execGridCycle core s
  | .streamReplyLand core eng => Sys2Proof.Machine.execStreamReplyLand core eng s
  | .strmbGroupIssue core eng => Sys2Proof.Machine.execStrmbGroupIssue core eng s
  | .imageStaging core => Sys2Proof.Machine.execImageStaging core s
  | .configActivation core => Sys2Proof.Machine.execConfigActivation core s
  | .streamCommandComplete core eng => Sys2Proof.Machine.execStreamCommandComplete core eng s
  | .watchdog t => Sys2Proof.Machine.execWatchdog t s
  | .stageFlip t u => Sys2Proof.Machine.execStageFlip t u s
  | .waitEnd t u => Sys2Proof.Machine.execWaitEnd t u s
  | .externalTimeout t u => Sys2Proof.Machine.execExternalTimeout t u s
  | .waitxReread t u => Sys2Proof.Machine.execWaitxReread t u s
  | .linkReroute a b latAB latBA => Sys2Proof.Machine.execLinkReroute a b latAB latBA s
  | .wake vf rnum => Sys2Proof.Machine.execWake vf rnum s
  | .pfWake rnum => Sys2Proof.Machine.execPfWake rnum s
  | .regionScan vf rnum => Sys2Proof.Machine.execRegionScan vf rnum s
  | .conditionalEvaluation vf rnum => Sys2Proof.Machine.execConditionalEvaluation vf rnum s
  | .teamPlacement part => Sys2Proof.Machine.execTeamPlacement part s
  | .teamRetire t => Sys2Proof.Machine.execTeamRetire t s
  | .launchRetire vf seq => Sys2Proof.Machine.execLaunchRetire vf seq s
  | .budgetCharge t => Sys2Proof.Machine.execBudgetCharge t s
  | .sliceEnd part => Sys2Proof.Machine.execSliceEnd part s
  | .promotionStart part => Sys2Proof.Machine.execPromotionStart part s
  | .saddlebagPageMove vf va dest => Sys2Proof.Machine.execSaddlebagPageMove vf va dest s
  | .sliceBegin part => Sys2Proof.Machine.execSliceBegin part s
  | .burnisherRun part => Sys2Proof.Machine.execBurnisherRun part s
  | .layoutStage lay => Sys2Proof.Machine.execLayoutStage lay s
  | .layoutTick => Sys2Proof.Machine.execLayoutTick s
  | .coreRetirement core phys => Sys2Proof.Machine.execCoreRetirement core phys s
  | .preemptRequest t reason => Sys2Proof.Machine.execPreemptRequest t reason s
  | .contextSave t addr => Sys2Proof.Machine.execContextSave t addr s
  | .forcedSave t addr => Sys2Proof.Machine.execForcedSave t addr s
  | .contextRestore vf idx => Sys2Proof.Machine.execContextRestore vf idx s
  | .functionLevelReset vf => Sys2Proof.Machine.execFunctionLevelReset vf s
  | .vfDisableAll => Sys2Proof.Machine.execVfDisableAll s
  | .registerWrite fn off val => Sys2Proof.Machine.execRegisterWrite fn off val s
  | .frstatClear fn val => Sys2Proof.Machine.execFrstatClear fn val s
  | .mbstClear val => Sys2Proof.Machine.execMbstClear val s
  | .loadObject => Sys2Proof.Machine.execLoadObject s
  | .readIdkey => Sys2Proof.Machine.execReadIdkey s
  | .installKey => Sys2Proof.Machine.execInstallKey s
  | .removeKey => Sys2Proof.Machine.execRemoveKey s
  | .fwUpdate => Sys2Proof.Machine.execFwUpdate s
  | .mailboxUnknownCommand code => Sys2Proof.Machine.execMailboxUnknownCommand code s
  | .mailboxReply => Sys2Proof.Machine.execMailboxReply s
  | .getDeviceInterfaceState vf => Sys2Proof.Machine.execGetDeviceInterfaceState vf s
  | .lockInterface vf bound => Sys2Proof.Machine.execLockInterface vf bound s
  | .getDeviceInterfaceReport vf => Sys2Proof.Machine.execGetDeviceInterfaceReport vf s
  | .startInterface vf => Sys2Proof.Machine.execStartInterface vf s
  | .stopInterface vf => Sys2Proof.Machine.execStopInterface vf s
  | .lockedItemWrite vf item => Sys2Proof.Machine.execLockedItemWrite vf item s
  | .ideIntegrityFailure vf => Sys2Proof.Machine.execIdeIntegrityFailure vf s
  | .portRetrain port lanes => Sys2Proof.Machine.execPortRetrain port lanes s
  | .deviceStart tests => Sys2Proof.Machine.execDeviceStart tests s
  | .startRetry => Sys2Proof.Machine.execStartRetry s
  | .currentClamp => Sys2Proof.Machine.execCurrentClamp s
  | .currentClampRelease => Sys2Proof.Machine.execCurrentClampRelease s
  | .thermalThrottle die => Sys2Proof.Machine.execThermalThrottle die s
  | .thermalTrip => Sys2Proof.Machine.execThermalTrip s
  | .copyBytesLand core id piece => Sys2Proof.Machine.execCopyBytesLand core id piece s
  | .scratchpadAtomicExecute core id => Sys2Proof.Machine.execScratchpadAtomicExecute core id s
  | .credWithdrawn vf group => Sys2Proof.Machine.execCredWithdrawn vf group s
  | .poisonMarkSet granule => Sys2Proof.Machine.execPoisonMarkSet granule s
  | .hostPortDown port lanes => Sys2Proof.Machine.execHostPortDown port lanes s
  | .hostCxlMemAccess addr isWrite bytes => Sys2Proof.Machine.execHostCxlMemAccess addr isWrite bytes s

end Sys2Proof.Machine
end

