-- ==== Sys2Proof/Machine/Run.lean ====
section
/-! DEFINITION. What moves the machine between the instructions: the word that a unit issues next, and the
passing of one cycle. -/

namespace Sys2Proof.Machine

/-- The word whose turn it is in a unit's block in flight. -/
def nextWord (s : State) (t u : Nat) : Option IWord :=
  ((getUnit s t u).bind WUnit.flight).bind (fun f => f.words[f.idx]?)

/-- A core's grid and matrix engine in a cycle: the grid runs where it has not yet, halts and stops take effect, the array
is fed, and what an STS replaced is forgotten (R162, R199, R243). -/
def coreCycle (s : State) (core : Nat) : State :=
  updCore (feedCycle (endGridCycle (gridCycle (watchPieces s core) core) core) core) core (fun c => { c with lateSts := [] })

/-- Ageing of a warp in one of its quarter's slots (R80). -/
def ageUnit (s : State) (t : Nat) (T : Team) (u : Nat) (w : WUnit) : WUnit :=
  let ready := match w.flight with
    | some f => unitReady s ⟨t, u, T, w, f⟩
    | none => false
  { w with
    ageing := if ready then min 63 (w.ageing + 1) else w.ageing
    splits := tabMap (fun _ e => if fragReady s.ptc e then { e with ageing := min 63 (e.ageing + 1) } else e) w.splits }

/-- A team in a cycle: the watchdog's count (R272), and at the end of a slot the ageing of its warps. -/
def teamCycle (s : State) (t : Nat) (T : Team) : Team :=
  { T with
    wd := if teamStuck s t T then T.wd + 1 else 0
    units := if s.ptc % 8 = 7 then tabMap (fun u w => if u < 16 then ageUnit s t T u w else w) T.units else T.units }

/-- The banks that the running grid leaves free in this cycle: the matrix instructions of a core reach them, and its copies read
their lists (R192, R202, R252). -/
def reachEngines (s : State) (core : Nat) : State :=
  let s := readLists s core
  if (getGrid s core).active.isNone && (getGrid s core).bankUse.isEmpty then s
  else updMat s core (fun m => { m with queue := m.queue.map (fun o => { o with reached := reachBanks s core o.reached }) })

/-- A block at its entry waits for its header prefetch (R64, R272). -/
def entryWait (s : State) (i : Iss) : State :=
  match i.f.hdr.prefetch with
  | none => s
  | some p =>
    let ready := entryReads i.w i.f (issMask i) (viewsOf i.f.words) i.f.hdr.reads.zipIdx == .go &&
      !readPending i.w (issMask i) (kregRead p) 1 && (prefetchCheck s i.T i.w i.f p).toOption.isSome
    setWaitKind s i (if ready then prefetchWait s i.T i.w p else .none)

/-- A unit's block in flight in a cycle, whether or not it gets a slot. A wait whose condition holds ends (R271), and in a team
that is terminated a waiting block aborts (R292). At the turn it has reached, an operand that is late counts (R69), a wait for a
token or for a queue is one (R272), and a promise that has passed traps (R182). -/
def turnOf (s : State) (t u : Nat) : State :=
  match getTeam s t with
  | none => s
  | some T => match tabFind T.units u with
    | none => s
    | some w => match w.flight with
      | none => s
      | some f =>
        let i : Iss := ⟨t, u, T, w, f⟩
        if T.term.isSome && blocked f then abortBlock s t u
        else if f.wait.isSome then endWait s t u
        else if !f.entered then entryWait s i
        else match ((nextWord s t u).bind (fun x => (decode x).toOption)).bind Instr.view with
        | none => s
        | some (o, c, pl) => match held s i o c pl with
          | some s' => s'
          | none =>
            let k : WaitKind := if queueFull s i o c pl then .queue else .none
            if f.waitKind == k then s else setWaitKind s i k

/-- The warps whose ready instruction has waited through all but the last of the 64 slots of R81, and whose quarter has a slot for
them now; a quarter hosts at most four warps (R13), so those of the last four slots issue at once. -/
def overdue (s : State) : List (Nat × Nat) :=
  s.teams.flatMap (fun x => x.2.units.filterMap (fun y =>
    match y.2.flight with
    | none => none
    | some f =>
      let i : Iss := ⟨x.1, y.1, x.2, y.2, f⟩
      if y.1 < 16 && 60 ≤ y.2.ageing && f.waitKind == .none && unitReady s i && !noSlot s i then some (x.1, y.1) else none))

/-- Every unit's turn in a cycle, after the reads of its LDSs. -/
def turns (s : State) : State :=
  s.teams.foldl (fun s x => x.2.units.foldl (fun s y => turnOf (readSp s x.1 y.1) x.1 y.1) s) s

/-- At the end of a slot in which a quarter issued nothing, that slot has passed for the warps that leave slots to others
(R36, R320). -/
def idleSlots (ptc : Nat) (c : Core) : Core :=
  if ptc % 8 = 7 then
    (List.range 4).foldl (fun c q => if tabGet 0 c.slots q + 7 ≤ ptc then passSlot c q else c) c
  else c

/-- One cycle passes. -/
def tick (s : State) : State :=
  let s := s.cores.foldl (fun s c => endCopies s c.1) s
  let s := turns (s.teams.foldl (fun s x => bridleGone s x.1 x.2) s)
  let s := { s with cores := tabMapD {} (fun _ c => idleSlots s.ptc c) s.cores }
  let s := s.cores.foldl (fun s c => coreCycle (reachEngines s c.1) c.1) s
  tdFinish (raiseHeads { s with teams := tabMap (fun t T => teamCycle s t T) s.teams, ptc := s.ptc + 1 })

end Sys2Proof.Machine
end

