-- ==== Sys2Proof/Machine/Step.lean ====
section
/-! DEFINITION. One step of the package: the choice at the head of the agenda, or, with nothing chosen, a
cycle passes. -/

namespace Sys2Proof.Machine

/-- The word at a unit's turn issues on it. -/
def issueOn (t u : Nat) (s : State) : Host.Outcome State Fault Refusal :=
  let s := { s with issuer := (t, u) }
  match nextWord s t u with
  | none => .next s
  | some w => match decode w with
    | .ok i => exec i s
    | .error _ => .next s

/-- The ready words of the overdue warps issue, in order (R81). -/
def issueAll : List (Nat × Nat) → State → Host.Outcome State Fault Refusal
  | [], s => .next s
  | x :: l, s => match issueOn x.1 x.2 s with
    | .next s' => issueAll l s'
    | r => r

/-- A cycle ends: the warps that R81 lets wait no longer issue first. -/
def endCycle (s : State) : Host.Outcome State Fault Refusal :=
  match issueAll (overdue s) s with
  | .next s' => .next (tick s')
  | r => r

/-- One step. `issue` runs the instruction that the word at the unit's turn decodes to, on that unit; `event`
runs one of the machine's own steps, and `readPiece` reads a piece ahead of its use in this cycle; with nothing chosen the cycle
ends. -/
def step (s : State) : Host.Outcome State Fault Refusal :=
  match s.agenda with
  | [] => endCycle s
  | .issue t u :: rest => issueOn t u { s with agenda := rest }
  | .event i :: rest =>
    let s := { s with agenda := rest }
    if i.view.isSome then .next s else exec i s
  | .readPiece t u a :: rest => .next (readPiece { s with agenda := rest } t u a)

/-- A token of zeros in one lane, at hand since cycle 0. -/
def zeroTok : Tok := { lanes := [some 0], ready := 0 }

/-- A block in flight whose only instruction is the given word, with a token of zeros in each of its slots. -/
def fetchFlight (w : IWord) : Flight :=
  { frag := 0, addr := 0, words := [w]
    hdr := ⟨1, 1, 0, false, false, 0, [0], [], [], none⟩
    toks := [(0, zeroTok), (1, zeroTok), (2, zeroTok)] }

/-- A team of one warp, on core 0, with that block in flight and lane 0 active. -/
def fetchTeam (w : IWord) : Team :=
  { vf := 0, seq := 0, num := 0, rnum := 0, lrec := { teams := 1, warps := 1, regs := 16 }, core := 0
    spBase := 0, spBytes := 0, pages := [], htab := 0, wdog := 26, xto := 0, slot := 0, rtop := 0
    units := [(0, { splits := [(0, { live := true, mask := 1, state := .inFlight })], flight := some (fetchFlight w) })] }

/-- The state in which the next step fetches and runs the word, placed as a team's block in flight. -/
def State.withFetchWord (s : State) (nbits w : Nat) : State :=
  { s with
    teams := tabPut s.teams s.nextTeam (fetchTeam (BitVec.ofNat 128 (w % 2 ^ nbits)))
    nextTeam := s.nextTeam + 1
    agenda := [.issue s.nextTeam 0] }

end Sys2Proof.Machine
end

