-- ==== Sys2Proof/Certificates/Slice0/Obligations.lean ====
section
/-! DEFINITION. The statements for the provers. Each `def Obligations.X : Prop` says what its docstring says;
the vocabulary they share stands first, in the namespace Sys2Proof.Claims. -/

open Sys2Proof Sys2Proof.Machine

namespace Sys2Proof.Claims

/-! ## The turn of a word -/

/-- It is the turn of a word on the unit in hand: the block has entered and nothing of R68, R69 or R182 holds
the word back (`TurnOfAWord` says what `gate` asks). -/
def Turn (s : State) (i : Iss) (o : Op) (c : Ctl) (pl : Payload) : Prop :=
  issCtx s = some i ∧ gate s i o c pl = none

/-- The number of slots a result takes (R27): one in uniform execution (R97), else `a`, or `b` for a 64-bit
type. -/
def slots (a b : Nat) (c : Ctl) (pl : Payload) : Nat :=
  if payloadU pl then 1 else if tyWidth c.ty = 64 then b else a

/-- At its turn the word issues, and its result is there after `n` slots with these lanes and flags. -/
def Answers (w : Instr) (n : Ctl → Payload → Nat) (lanes : Iss → Op → Ctl → Payload → List Lane)
    (fl : Iss → Op → Ctl → Payload → Flags) : Prop :=
  ∀ s i o c pl, w.view = some (o, c, pl) → Turn s i o c pl →
    exec w s = .next (finish s i o c pl (lanes i o c pl) (slotCycles i.u * n c pl) (fl i o c pl))

/-- The lanes of a lane-wise function (R32), or of its uniform execution (R97). -/
def laneValues (f : Opnds → Val) (i : Iss) (o : Op) (c : Ctl) (pl : Payload) : List Lane :=
  if payloadU pl then spread i ((uniOpnds i o c pl).map f)
  else (allOpnds i o c pl).map (fun x => x.map f)

/-- The flags that the firing lanes raise together (R127). -/
def laneFlags (f : Opnds → Flags) (i : Iss) (o : Op) (c : Ctl) (pl : Payload) : Flags :=
  if payloadU pl then ((uniOpnds i o c pl).map f).getD 0
  else (allOpnds i o c pl).foldl (fun fl x => match x with | some y => fl ||| f y | none => fl) 0

/-- The word computes `f` of its operands in every lane that fires, in `a` or `b` slots, and raises no flag. -/
def Computes (w : Instr) (a b : Nat) (f : Opnds → Val) : Prop :=
  Answers w (slots a b) (laneValues f) (fun _ _ _ _ => 0)

/-- As `Computes`, under the format slot that FS names (R124), with the flags of each lane, in `n` slots. -/
def ComputesFpIn (w : Instr) (n : Ctl → Payload → Nat) (f : FmtSlot → Opnds → FRes) : Prop :=
  Answers w n
    (fun i o c pl => laneValues (fun x => (f (issSlot i (payloadFs pl)) x).1) i o c pl)
    (fun i o c pl => laneFlags (fun x => (f (issSlot i (payloadFs pl)) x).2) i o c pl)

/-- As `ComputesFpIn`, in `a` slots, or `b` for a 64-bit type. -/
def ComputesFp (w : Instr) (a b : Nat) (f : FmtSlot → Opnds → FRes) : Prop := ComputesFpIn w (slots a b) f

/-! ## Numbers of a lane -/

/-- ext(x, w): the value of the low w bits, signed for an s type (R101). -/
def asInt (ty : Ty) (w : Nat) (x : Val) : Int :=
  if tySigned ty then (x.setWidth w).toInt else ((x.setWidth w).toNat : Int)

/-- wrap(z, w) as a lane's value. -/
def low (w : Nat) (z : Int) : Val := (BitVec.ofInt w z).setWidth 128

/-- The low w bits of a lane's value. -/
def cut (w : Nat) (x : Val) : Val := (x.setWidth w).setWidth 128

/-- 1 where a relation holds. -/
def truth (p : Prop) [Decidable p] : Val := if p then 1 else 0

end Sys2Proof.Claims

open Sys2Proof.Claims

/-! ## Integer words (chapter 4) -/

/-- R101, R102: the arithmetic forms compute the pseudocode's value, wrapped to the type's width, and complete; IDIV and IREM
truncate towards zero, with the results of a zero divisor and of the one signed overflow, in 10 slots or 20. -/
def Sys2Proof.Claims.IntegerArithmetic : Prop :=
  (∀ (c : Ctl) (p : FmtA),
     let w := tyWidth c.ty
     let a := fun (x : Opnds) => asInt c.ty w x.l
     let b := fun (x : Opnds) => asInt c.ty w x.r
     let d := fun (x : Opnds) => asInt c.ty w x.p
     Computes (.add c p) 1 1 (fun x => low w (a x + b x)) ∧
     Computes (.sub c p) 1 1 (fun x => low w (a x - b x)) ∧
     Computes (.mul c p) 2 2 (fun x => low w (a x * b x)) ∧
     Computes (.mulhi c p) 2 2 (fun x => low w (Int.fdiv (a x * b x) (2 ^ w))) ∧
     Computes (.mad c p) 2 2 (fun x => low w (a x * b x + d x)) ∧
     Computes (.add64 c p) 1 1 (fun x => low 64 (asInt .n64 64 x.l + asInt c.ty 32 x.r)) ∧
     Computes (.sub64 c p) 1 1 (fun x => low 64 (asInt .n64 64 x.l - asInt c.ty 32 x.r)) ∧
     Computes (.mad64 c p) 2 2 (fun x => low 64 (asInt c.ty 32 x.l * asInt c.ty 32 x.r + asInt .n64 64 x.p)) ∧
     Computes (.min_ c p) 1 1 (fun x => low w (min (a x) (b x))) ∧
     Computes (.max_ c p) 1 1 (fun x => low w (max (a x) (b x))) ∧
     Computes (.abs_ c p) 1 1 (fun x => low w ((a x).natAbs : Int)) ∧
     Computes (.neg_ c p) 1 1 (fun x => low w (-a x))) ∧
  (∀ (c : Ctl) (p : FmtA),
     let w := tyWidth c.ty
     let a := fun (x : Opnds) => asInt c.ty w x.l
     let b := fun (x : Opnds) => asInt c.ty w x.r
     Computes (.idiv c p) 10 20 (fun x => if b x = 0 then low w (2 ^ w - 1) else low w (Int.tdiv (a x) (b x))) ∧
     Computes (.irem c p) 10 20 (fun x => if b x = 0 then low w (a x) else low w (a x - Int.tdiv (a x) (b x) * b x)) ∧
     (∀ x : Opnds, b x ≠ 0 → (a x - Int.tdiv (a x) (b x) * b x).natAbs < (b x).natAbs) ∧
     (∀ x : Opnds, 2 ≤ w → tySigned c.ty = true → a x = -(2 ^ (w - 1)) → b x = -1 →
       low w (Int.tdiv (a x) (b x)) = low w (-(2 ^ (w - 1))) ∧ low w (a x - Int.tdiv (a x) (b x) * b x) = 0))

/-- R103: the logic, shift and bit-counting forms. Bit k of a result below the width is as the table says;
shifts by the width or more give 0, or sign bits for SAR. -/
def Sys2Proof.Claims.LogicAndShifts : Prop :=
  ∀ (c : Ctl) (p : FmtA),
    let w := tyWidth c.ty
    let n := fun (x : Opnds) => (x.r.setWidth 32).toNat
    Computes (.and_ c p) 1 1 (fun x => cut w x.l &&& cut w x.r) ∧
    Computes (.or_ c p) 1 1 (fun x => cut w x.l ||| cut w x.r) ∧
    Computes (.xor_ c p) 1 1 (fun x => cut w x.l ^^^ cut w x.r) ∧
    Computes (.andn c p) 1 1 (fun x => cut w x.l &&& ~~~ cut w x.r) ∧
    Computes (.not_ c p) 1 1 (fun x => cut w (~~~ x.l)) ∧
    Computes (.shl c p) 1 1 (fun x => ((x.l.setWidth w) <<< n x).setWidth 128) ∧
    Computes (.shr c p) 1 1 (fun x => ((x.l.setWidth w) >>> n x).setWidth 128) ∧
    Computes (.sar c p) 1 1 (fun x => ((x.l.setWidth w).sshiftRight (n x)).setWidth 128) ∧
    Computes (.rol c p) 1 1 (fun x => ((x.l.setWidth w).rotateLeft (n x)).setWidth 128) ∧
    Computes (.popc c p) 1 1 (fun x => BitVec.ofNat 128 ((List.range w).filter (fun k => x.l.getLsbD k)).length) ∧
    Computes (.clz c p) 1 1 (fun x =>
      BitVec.ofNat 128 (((List.range w).map (fun k => w - 1 - k)).takeWhile (fun k => !x.l.getLsbD k)).length) ∧
    Computes (.ctz c p) 1 1 (fun x => BitVec.ofNat 128 ((List.range w).takeWhile (fun k => !x.l.getLsbD k)).length) ∧
    Computes (.brev c p) 1 1 (fun x => (x.l.setWidth w).reverse.setWidth 128) ∧
    (∀ x : Opnds, w ≤ n x → (x.l.setWidth w) <<< n x = 0#w ∧ (x.l.setWidth w) >>> n x = 0#w)

/-- R101, R102: the arithmetic forms compute the pseudocode's value, wrapped to the type's width, and complete; IDIV
and IREM truncate towards zero, with the results of a zero divisor and of the one signed overflow, in 10 slots or 20.
R103: the logic, shift and bit-counting forms. Bit k of a result below the width is as the table says; shifts by the
width or more give 0, or sign bits for SAR. -/
def Obligations.IntegerAndLogicWords : Prop :=
  Sys2Proof.Claims.IntegerArithmetic ∧ Sys2Proof.Claims.LogicAndShifts

/-- R104 to R110: BFX and BFI move the field of LEN bits at POS, which lies inside the word as decoding has checked; PRMT takes
for each result byte the byte that its selector names, or that byte's sign; comparisons give 1 or 0; SEL tests every bit of
L; MOVI gives its constant; ADDHI adds IMM20 times 4,096 and LEA a scaled index; SEXT and ZEXT widen the low n bits; DP4
adds four byte products to its addend, wrapped at 32 bits. -/
def Obligations.FieldsComparesAndWidening : Prop :=
  (∀ (c : Ctl) (p : FmtA),
     let w := tyWidth c.ty
     let pos := p.aux.toNat / 256
     let len := p.aux.toNat % 256
     (1 ≤ len → pos + len ≤ w →
       Computes (.bfx c p) 1 1 (fun x =>
         if tySigned c.ty then low w (x.l.extractLsb' pos len).toInt else (x.l.extractLsb' pos len).setWidth 128) ∧
       Computes (.bfi c p) 1 1 (fun x => (x.l.extractLsb' (pos + len) (w - (pos + len)) ++ x.p.extractLsb' 0 len ++
         x.l.extractLsb' 0 pos).setWidth 128)) ∧
     Computes (.prmt c p) 1 1 (fun x =>
       let src := (x.r.setWidth 32 ++ x.l.setWidth 32 : BitVec 64)
       let b := fun (i : Nat) => src.extractLsb' (8 * (p.aux.extractLsb' (3 * i) 3).toNat) 8
       let f := fun (i : Nat) => if p.aux.getLsbD (12 + i) then (if (b i).getLsbD 7 then 0xFF#8 else 0#8) else b i
       (f 3 ++ f 2 ++ f 1 ++ f 0 : BitVec 32).setWidth 128)) ∧
  (∀ (c : Ctl) (p : FmtA) (q : FmtI) (h : FmtH),
     let w := tyWidth c.ty
     let a := fun (x : Opnds) => asInt c.ty w x.l
     let b := fun (x : Opnds) => asInt c.ty w x.r
     Computes (.cmpEq c p) 1 1 (fun x => truth (a x = b x)) ∧
     Computes (.cmpNe c p) 1 1 (fun x => truth (a x ≠ b x)) ∧
     Computes (.cmpLt c p) 1 1 (fun x => truth (a x < b x)) ∧
     Computes (.cmpLe c p) 1 1 (fun x => truth (a x ≤ b x)) ∧
     Computes (.cmpGt c p) 1 1 (fun x => truth (b x < a x)) ∧
     Computes (.cmpGe c p) 1 1 (fun x => truth (b x ≤ a x)) ∧
     Computes (.sel c p) 1 1 (fun x => cut w (if x.l ≠ 0 then x.r else x.p)) ∧
     Computes (.movi c q) 1 1 (fun _ => cut w (q.imm64.setWidth 128)) ∧
     Computes (.addhi c h) 1 1 (fun x => low w (a x + h.imm20.toInt * 4096)) ∧
     Computes (.lea c p) 1 1 (fun x => low 64 (asInt .n64 64 x.l + asInt c.ty 32 x.r * 2 ^ p.aux.toNat))) ∧
  (∀ (c : Ctl) (p : FmtA),
     let w := tyWidth c.ty
     let n := p.aux.toNat
     let e := fun (x : Val) (i : Nat) => asInt c.ty 8 (x >>> (8 * i))
     (1 ≤ n → n ≤ w →
       Computes (.sext c p) 1 1 (fun x => low w (x.l.setWidth n).toInt) ∧
       Computes (.zext c p) 1 1 (fun x => cut n x.l)) ∧
     (w = 8 → Computes (.dp4 c p) 2 2 (fun x => low 32 (asInt .n64 32 x.p +
       (e x.l 0 * e x.r 0 + e x.l 1 * e x.r 1 + e x.l 2 * e x.r 2 + e x.l 3 * e x.r 3)))))

namespace Sys2Proof.Claims

/-! ## Lanes together -/

/-- The value lane j of the fragment brings to a vote, a shuffle or a reduction: part(j) of R87 and R112, valid(j) of
R111. -/
def brings (i : Iss) (o : Op) (c : Ctl) (pl : Payload) (j : Nat) : Option Val :=
  if j < laneCount i.u ∧ (issMask i).getLsbD j = true ∧ firesOn c.pm ((slotLanes i o c pl .p).getD j none) = true then
    ((slotLanes i o c pl .l).getD j none).map (trim o c pl .l)
  else none

/-- The operands of lane l under R32. -/
def opndsAt (i : Iss) (o : Op) (c : Ctl) (pl : Payload) (l : Nat) : Option Opnds := (allOpnds i o c pl).getD l none

/-- Every lane of a unit. -/
def overLanes (i : Iss) (f : Nat → Lane) : List Lane := (List.range (laneCount i.u)).map f

/-- One value of the warp, given to every lane that fires (R87). -/
def toFiring (u : Iss → Op → Ctl → Payload → Val) (i : Iss) (o : Op) (c : Ctl) (pl : Payload) : List Lane :=
  overLanes i (fun l => (opndsAt i o c pl l).map (fun _ => u i o c pl))

/-- SHFL with source lane `src` of a lane and its R operand (R111). -/
def shuffled (src : Nat → Nat → Val → Option Nat) (i : Iss) (o : Op) (c : Ctl) (pl : Payload) : List Lane :=
  overLanes i (fun l => (opndsAt i o c pl l).map (fun x =>
    match src (2 ^ (payloadAux pl % 8)) l x.r with
    | some j => (brings i o c pl j).getD x.l
    | none => x.l))

/-- REDUX with a combination of the participating lanes' values in order (R112). -/
def reduced (f : Ty → List Val → Val) (i : Iss) (o : Op) (c : Ctl) (pl : Payload) : List Lane :=
  overLanes i (fun l => (opndsAt i o c pl l).map (fun _ =>
    let size := 128 / 2 ^ (payloadAux pl % 8)
    let lo := l / size * size
    let n := if (payloadAux pl).testBit 3 then l + 1 - lo else size
    f c.ty (((List.range n).map (fun k => brings i o c pl (lo + k))).filterMap id)))

/-- The values that take part in a vote. -/
def ballots (i : Iss) (o : Op) (c : Ctl) (pl : Payload) : List (Nat × Val) :=
  (List.range 128).filterMap (fun j => (brings i o c pl j).map (fun v => (j, v)))

/-- n slots, whatever the type. -/
def inSlots (n : Nat) : Ctl → Payload → Nat := fun _ _ => n

/-- No flag. -/
def quiet : Iss → Op → Ctl → Payload → Flags := fun _ _ _ _ => 0

/-- The largest and the smallest number of an integer type. -/
def top (ty : Ty) : Int := if tySigned ty then 2 ^ (tyWidth ty - 1) - 1 else 2 ^ tyWidth ty - 1
def bottom (ty : Ty) : Int := if tySigned ty then -(2 ^ (tyWidth ty - 1)) else 0

/-- A terminator issues: it leaves no result, and the block holds its decision for the commit (R86). -/
def Decides (w : Instr) (d : Iss → Option Term) : Prop :=
  ∀ s i o c pl, w.view = some (o, c, pl) → Turn s i o c pl → ∀ tm, d i = some tm →
    exec w s = .next (finishNone (updFlight s i.t i.u (fun f => { f with term := some tm })) i o c pl)

/-- At its turn, where `cond` holds, the word raises a trap at the block's entry, in lane 0 (R73, R177). -/
def Traps (w : Instr) (cond : State → Iss → Prop) (code : TrapCode) (src : TrapSource) (info : State → Iss → Nat) : Prop :=
  ∀ s i o c pl, w.view = some (o, c, pl) → Turn s i o c pl → cond s i →
    exec w s = .next (raise s i.t i.u i.f.idx 0 ⟨code, src, BitVec.ofNat 64 (info s i), i.f.addr⟩)

end Sys2Proof.Claims

/-! ## Cross-lane and lane-control words -/

/-- R111, R112: a shuffle reads the L token of its source lane as it stood at issue, or keeps its own; a reduction combines the
participating lanes of each segment, or of its prefix with SCAN, from the identity.
The index of SHFL.f64 with an immediate is the choice of log 47. -/
def Obligations.ShufflesAndReductions : Prop :=
  (∀ (c : Ctl) (p : FmtA),
     Answers (.shflIdx c p) (inSlots 2) (shuffled (fun n l r => some (l / n * n + (r.setWidth 32).toNat % n))) quiet ∧
     Answers (.shflRot c p) (inSlots 2) (shuffled (fun n l r =>
       let t : Int := ((l % n : Nat) : Int) + (r.setWidth 32).toInt
       if p.aux.getLsbD 3 = true ∧ ¬(0 ≤ t ∧ t < n) then none else some (l / n * n + (t % (n : Int)).toNat))) quiet ∧
     Answers (.shflXor c p) (inSlots 2) (shuffled (fun n l r => some (l / n * n + ((l % n) ^^^ ((r.setWidth 32).toNat % n))))) quiet ∧
     Answers (.shflRev c p) (inSlots 2) (shuffled (fun n l r =>
       some (l / n * n + (n - 1 - l % n + (r.setWidth 32).toNat) % n))) quiet) ∧
  (∀ (c : Ctl) (p : FmtA),
     let n := inSlots (if p.aux.getLsbD 3 then 5 else 4)
     let num := fun (ty : Ty) (v : Val) => asInt ty (tyWidth ty) v
     Answers (.reduxAdd c p) n (reduced (fun ty l => low (tyWidth ty) (l.map (num ty)).sum)) quiet ∧
     Answers (.reduxMin c p) n (reduced (fun ty l => low (tyWidth ty) ((l.map (num ty)).foldl min (top ty)))) quiet ∧
     Answers (.reduxMax c p) n (reduced (fun ty l => low (tyWidth ty) ((l.map (num ty)).foldl max (bottom ty)))) quiet ∧
     Answers (.reduxAnd c p) n (reduced (fun ty l => l.foldl (fun a v => a &&& v) (cut (tyWidth ty) (BitVec.allOnes 128)))) quiet ∧
     Answers (.reduxOr c p) n (reduced (fun ty l => cut (tyWidth ty) (l.foldl (fun a v => a ||| v) 0))) quiet ∧
     Answers (.reduxXor c p) n (reduced (fun ty l => cut (tyWidth ty) (l.foldl (fun a v => a ^^^ v) 0))) quiet)

/-- R87: NUL, MOV, the votes and MASKRD. -/
def Obligations.LaneControl : Prop :=
  ∀ (c : Ctl),
    Answers (.nul c) (inSlots 1) (fun i _ _ _ => overLanes i (fun _ => none)) quiet ∧
    Answers (.mov c) (inSlots 1) (fun i o c pl => overLanes i (fun l => (opndsAt i o c pl l).map Opnds.l)) quiet ∧
    Answers (.voteAny c) (inSlots 1) (toFiring (fun i o c pl => truth (∃ x ∈ ballots i o c pl, x.2 ≠ 0))) quiet ∧
    Answers (.voteAll c) (inSlots 1) (toFiring (fun i o c pl => truth (∀ x ∈ ballots i o c pl, x.2 ≠ 0))) quiet ∧
    Answers (.voteCount c) (inSlots 1) (toFiring (fun i o c pl =>
      BitVec.ofNat 128 ((ballots i o c pl).filter (fun x => x.2 != 0)).length)) quiet ∧
    Answers (.voteBallot c) (inSlots 1) (toFiring (fun i o c pl =>
      BitVec.ofNat 128 (((ballots i o c pl).filter (fun x => x.2 != 0)).map (fun x => 2 ^ x.1)).sum)) quiet ∧
    Answers (.maskrd c) (inSlots 1) (toFiring (fun i _ _ _ => issMask i)) quiet

/-- R86, R334: what each terminator decides for the commit, and where CALL, CALLI and RET trap instead. CALLI reads its CODE
entry at issue; an entry it cannot read traps as R287 gives, one of another kind or of a revoked object RESOURCE_KIND.
A call address that wraps at 57 bits is the inference of log 36. -/
def Obligations.Terminators : Prop :=
  (∀ (c : Ctl) (p : FmtC),
     let depth := fun (i : Iss) => (getSplit i.w i.f.frag).stack.length
     let lval := fun (i : Iss) (o : Op) => slotLanes i o c .n .l
     Decides (.succ c) (fun i => some (.lanes ((lval i .succ).map (fun x =>
       match x with | none => 0 | some v => min (v.setWidth 32).toNat i.f.hdr.scnt)))) ∧
     Decides (.brc c) (fun i => some (.lanes ((lval i .brc).map (fun x => if x = some 0 then 1 else 0)))) ∧
     Decides (.jmps c) (fun _ => some .jump) ∧
     Decides (.exit c) (fun _ => some .exit) ∧
     Decides (.call c p) (fun i => if depth i = 16 then none
       else some (.call ((((i.f.addr : Int) + 16 * p.ofs24.toInt) % 2 ^ 57).toNat))) ∧
     Decides (.ret c) (fun i => if depth i = 0 then none else some .ret) ∧
     Traps (.call c p) (fun _ i => depth i = 16) .stack .engine (fun _ _ => 16) ∧
     Traps (.ret c) (fun _ i => depth i = 0) .stack .engine (fun _ _ => 0)) ∧
  (∀ (c : Ctl) (p : FmtC) s i, Turn s i .calli c (.c p) →
     let trap := fun (code : TrapCode) (src : TrapSource) (info : Nat) =>
       exec (.calli c p) s = .next (raise s i.t i.u i.f.idx 0 ⟨code, src, BitVec.ofNat 64 info, i.f.addr⟩)
     match readEntry s i.T p.ridx.toNat with
     | .error (k, a) => trap k (if k = .resourceKind then .engine else .globalMem) a
     | .ok e =>
       if e.kind ≠ .code ∨ (∃ x ∈ (getTenant s i.T.vf).objs, x.num = e.obj ∧ x.revoked = true) then
         trap .resourceKind .engine p.ridx.toNat
       else if (getSplit i.w i.f.frag).stack.length = 16 then trap .stack .engine 16
       else exec (.calli c p) s = .next (finishNone
         (updFlight s i.t i.u (fun f => { f with term := some (.call (e.base % 2 ^ 57)) })) i .calli c (.c p)))

/-! ## Floating-point and logarithmic words (chapter 5) -/

namespace Sys2Proof.Claims

/-- The mode of R124: RM, or the slot's RMODE for 0b101, where RNA counts only if the entry names it. -/
def roundMode (rna : Bool) (p : FmtA) (k : FmtSlot) : RMode :=
  if p.rm = .slot then (if k.rmode = .rna ∧ rna = false then .rne else k.rmode) else p.rm

/-- A lane's value of a pattern, and a flag set. -/
def pat (n : Nat) : Val := BitVec.ofNat 128 n

/-- The cycles of a form that rounds nothing (R27): one slot, and four cycles for f64 on the Bridle (R227). -/
def signCycles (c : Ctl) (pl : Payload) (i : Iss) : Nat :=
  if i.u = 16 ∧ payloadU pl = false ∧ c.ty = .f64 then 4 else slotCycles i.u

/-- The word computes `f` of its operands in every lane that fires, in `signCycles`, and raises no flag. -/
def ComputesSign (w : Instr) (f : Opnds → Val) : Prop :=
  ∀ s i o c pl, w.view = some (o, c, pl) → Turn s i o c pl →
    exec w s = .next (finish s i o c pl (laneValues f i o c pl) (signCycles c pl i) 0)

/-- round(v, fmt, m) of R62 with the flags of R125, joined with those the operation itself raised. -/
def rounded (f : FFmt) (m : RMode) (fz : Bool) (r : FV × Flags) : FRes :=
  (pat (fRound f m fz r.1).1, (fRound f m fz r.1).2 ||| r.2)

end Sys2Proof.Claims

/-- R130, R135: the arithmetic forms round the exact result once, by the mode of R124. -/
def Sys2Proof.Claims.FloatArithmetic : Prop :=
  ∀ (c : Ctl) (p : FmtA),
    let f := fmtOf c.ty
    let m := roundMode false p
    let v := fun (g : FFmt) (k : FmtSlot) (x : Val) => fIn g k.flush x.toNat
    let fma := fun (g : FFmt) (k : FmtSlot) (x y z : FV) =>
      let q := fvMul x y
      let t := fvAdd (m k == .rd) q.1 z
      rounded g (m k) k.flush (t.1, t.2 ||| q.2)
    let half := fun (x : Val) (n : Nat) => x.toNat / 2 ^ (16 * n) % 2 ^ 16
    let fma2 := fun (g : FFmt) (k : FmtSlot) (x : Opnds) =>
      let e := fun n => fma g k (fIn g k.flush (half x.l n)) (fIn g k.flush (half x.r n)) (fIn g k.flush (half x.p n))
      (pat ((e 0).1.toNat + 2 ^ 16 * (e 1).1.toNat), (e 0).2 ||| (e 1).2)
    ComputesFp (.fadd c p) 1 1 (fun k x => rounded f (m k) k.flush (fvAdd (m k == .rd) (v f k x.l) (v f k x.r))) ∧
    ComputesFp (.fsub c p) 1 1 (fun k x => rounded f (m k) k.flush (fvAdd (m k == .rd) (v f k x.l) (fvNeg (v f k x.r)))) ∧
    ComputesFp (.fmul c p) 1 1 (fun k x => rounded f (m k) k.flush (fvMul (v f k x.l) (v f k x.r))) ∧
    ComputesFp (.ffma c p) 2 2 (fun k x => fma f k (v f k x.l) (v f k x.r) (v f k x.p)) ∧
    ComputesFp (.dadd c p) 4 4 (fun k x => rounded fmt64 (m k) k.flush (fvAdd (m k == .rd) (v fmt64 k x.l) (v fmt64 k x.r))) ∧
    ComputesFp (.dmul c p) 4 4 (fun k x => rounded fmt64 (m k) k.flush (fvMul (v fmt64 k x.l) (v fmt64 k x.r))) ∧
    ComputesFp (.dfma c p) 8 8 (fun k x => fma fmt64 k (v fmt64 k x.l) (v fmt64 k x.r) (v fmt64 k x.p)) ∧
    ComputesFp (.hfma2 c p) 2 2 (fma2 fmt16) ∧
    ComputesFp (.bfma2 c p) 2 2 (fma2 fmtB16) ∧
    ComputesFp (.fscale c p) 1 4 (fun k x =>
      rounded f (m k) k.flush (fvScale (v f k x.l) (x.r.setWidth 32).toInt, sigNV (v f k x.l))) ∧
    ComputesFp (.frnd c p) 1 4 (fun k x => match v f k x.l with
      | .fin s n e => rounded f (roundMode true p k) k.flush (.fin s (rndShift (roundMode true p k) s n (-e)).1 0, 0)
      | y => rounded f (roundMode true p k) k.flush (y, sigNV y))

/-- R131, R132: minimum and maximum, the sign forms, the comparisons and the class, none of which rounds; on the Bridle
the f64 forms of the sign and the class take four cycles (R227). -/
def Obligations.FloatCompareAndClass : Prop :=
  ∀ (c : Ctl) (p : FmtA),
    let f := fmtOf c.ty
    let w := f.eb + f.fb + 1
    let l := fun (k : FmtSlot) (x : Opnds) => fIn f k.flush x.l.toNat
    let r := fun (k : FmtSlot) (x : Opnds) => fIn f k.flush x.r.toNat
    let nan := fun (v : FV) => match v with | .nan _ => true | _ => false
    let sig := fun (k : FmtSlot) (x : Opnds) => sigNV (l k x) ||| sigNV (r k x)
    let best := fun (big : Bool) (k : FmtSlot) (x : Opnds) =>
      if nan (l k x) = true then r k x else if nan (r k x) = true then l k x
      else if fvLt (l k x) (r k x) = true then (if big then r k x else l k x)
      else if fvLt (r k x) (l k x) = true then (if big then l k x else r k x)
      else (if fvSign (l k x) = big then r k x else l k x)
    let sgn := fun (s : Bool → Bool → Bool) (x : Opnds) =>
      if nan (fDecode f (x.l.toNat % 2 ^ w)) = true then pat (fNaN f)
      else pat (x.l.toNat % 2 ^ (w - 1) + (if s (x.l.getLsbD (w - 1)) (x.r.getLsbD (w - 1)) = true then 2 ^ (w - 1) else 0))
    let cmp := fun (onNan quietNan : Bool) (rel : Bool → Bool → Bool) (k : FmtSlot) (x : Opnds) =>
      if nan (l k x) = true ∨ nan (r k x) = true then (truth (onNan = true), if quietNan then sig k x else flNV)
      else (truth (rel (fvLt (l k x) (r k x)) (fvLt (r k x) (l k x)) = true), (0 : Flags))
    ComputesFp (.fmin c p) 1 4 (fun k x => (pat (fRound f .rne false (best false k x)).1, (fRound f .rne false (best false k x)).2 ||| sig k x)) ∧
    ComputesFp (.fmax c p) 1 4 (fun k x => (pat (fRound f .rne false (best true k x)).1, (fRound f .rne false (best true k x)).2 ||| sig k x)) ∧
    ComputesSign (.fsgnCp c p) (sgn (fun _ b => b)) ∧
    ComputesSign (.fsgnNeg c p) (sgn (fun _ b => !b)) ∧
    ComputesSign (.fsgnXor c p) (sgn (fun a b => a != b)) ∧
    ComputesFp (.fcmpEq c p) 1 4 (cmp false true (fun lt gt => !lt && !gt)) ∧
    ComputesFp (.fcmpNe c p) 1 4 (cmp true true (fun lt gt => lt || gt)) ∧
    ComputesFp (.fcmpLt c p) 1 4 (cmp false false (fun lt _ => lt)) ∧
    ComputesFp (.fcmpLe c p) 1 4 (cmp false false (fun _ gt => !gt)) ∧
    ComputesFp (.fcmpGt c p) 1 4 (cmp false false (fun _ gt => gt)) ∧
    ComputesFp (.fcmpGe c p) 1 4 (cmp false false (fun lt _ => !lt)) ∧
    ComputesFp (.fcmpUn c p) 1 4 (cmp true true (fun _ _ => false)) ∧
    ComputesSign (.fclass c p) (fun x => pat (2 ^ (match fDecode f x.l.toNat with
      | .inf s => if s then 0 else 7
      | .nan s => if s then 8 else 9
      | .fin s m _ => if m = 0 then (if s then 3 else 4)
        else if m < 2 ^ f.fb then (if s then 2 else 5) else (if s then 1 else 6))))

/-- R136: the conversions; those with a 64-bit side that the table names take four slots. -/
def Obligations.Conversions : Prop :=
  ∀ (c : Ctl) (p : FmtA),
    let src := tyOfCode p.aux.toNat
    let f := fmtOf c.ty
    let m := roundMode true p
    let cvt := fun (a b : FFmt) (md : RMode) (k : FmtSlot) (n : Nat) =>
      rounded b md k.flush (fIn a k.flush n, sigNV (fIn a k.flush n))
    let w64 := fun (ty : Ty) => tyWidth ty == 64
    let n := fun (long : Bool) => if p.u then 1 else if long then 4 else 1
    let word := fun (z : Int) => low (if tyWidth c.ty < 32 then 32 else tyWidth c.ty) z
    ComputesFpIn (.fcvt c p) (fun _ _ => n (w64 c.ty || w64 src)) (fun k x => cvt (fmtOf src) f (m k) k x.l.toNat) ∧
    ComputesFpIn (.itof c p) (fun _ _ => n (w64 c.ty || w64 src)) (fun k x =>
      let z := asInt src (tyWidth src) x.l
      rounded f (m k) k.flush (.fin (z < 0) z.natAbs 0, 0)) ∧
    ComputesFpIn (.ftoi c p) (fun _ _ => n (w64 src)) (fun k x => match fIn (fmtOf src) k.flush x.l.toNat with
      | .nan _ => (0, flNV)
      | .inf s => (word (if s then bottom c.ty else top c.ty), flNV)
      | .fin s n e =>
        let q := rndShift (m k) s n (-e)
        let z : Int := if s then -(q.1 : Int) else q.1
        if z < bottom c.ty then (word (bottom c.ty), flNV)
        else if top c.ty < z then (word (top c.ty), flNV)
        else (word z, if q.2 then flNX else 0)) ∧
    ComputesFp (.pack c p) 1 1 (fun k x =>
      let a := cvt fmt32 f (m k) k x.l.toNat
      let b := cvt fmt32 f (m k) k x.r.toNat
      (pat (a.1.toNat + 2 ^ 16 * b.1.toNat), a.2 ||| b.2)) ∧
    ComputesFp (.unpk c p) 1 1 (fun k x =>
      let a := cvt f fmt32 .rne k (x.l.toNat % 2 ^ 16)
      let b := cvt f fmt32 .rne k (x.l.toNat / 2 ^ 16 % 2 ^ 16)
      (pat (a.1.toNat + 2 ^ 32 * b.1.toNat), a.2 ||| b.2))

namespace Sys2Proof.Claims

/-- A floating-point value is the integer n. -/
def isInt (v : FV) (n : Int) : Prop :=
  ∃ s m e, v = .fin s m e ∧
    ((0 ≤ e ∧ (if s then -(m : Int) else m) * 2 ^ e.toNat = n) ∨ (e < 0 ∧ (if s then -(m : Int) else m) = n * 2 ^ (-e).toNat))

/-- A floating-point value is n + 1/2. -/
def isHalf (v : FV) (n : Int) : Prop :=
  ∃ s m e, v = .fin s m e ∧ e < 0 ∧ 2 * (if s then -(m : Int) else m) = (2 * n + 1) * 2 ^ (-e).toNat

/-- The f32 patterns of ±0, ±1, infinities and the canonical NaN. -/
def zero32 (s : Bool) : Nat := if s then 0x80000000 else 0
def one32 (s : Bool) : Nat := if s then 0xBF800000 else 0x3F800000
def inf32 (s : Bool) : Nat := if s then 0xFF800000 else 0x7F800000
def nan32 : Nat := 0x7FC00000

/-- A unary f32 function on the special operands: NaN, the infinities and the zeros, with results and flags. -/
def Specials (f : Bool → Nat → FRes) (inf zero : Bool → Nat × Flags) : Prop :=
  ∀ fz l,
    (∀ sig, fIn fmt32 fz l = .nan sig → f fz l = (pat nan32, if sig then flNV else 0)) ∧
    (∀ s, fIn fmt32 fz l = .inf s → f fz l = (pat (inf s).1, (inf s).2)) ∧
    (∀ s e, fIn fmt32 fz l = .fin s 0 e → f fz l = (pat (zero s).1, (zero s).2))

/-- The number that a finite value stands for. -/
def numOf : FV → ℚ
  | .fin s m e => (if s then -(m : ℚ) else m) * (2 : ℚ) ^ e
  | _ => 0

/-- The number of an f32 pattern. -/
def num32 (x : Nat) : ℚ := numOf (fDecode fmt32 x)

/-- FSQRT of x: the pattern r is √x rounded by the mode, said of the squares, with NX where it is inexact. -/
def RootRounded (m : RMode) (x : ℚ) (r : FRes) : Prop :=
  let n := r.1.toNat
  (0 < n ∧ n < inf32 false - 1) ∧
  (m = .rz ∨ m = .rd → num32 n ^ 2 ≤ x ∧ x < num32 (n + 1) ^ 2) ∧
  (m = .ru → num32 (n - 1) ^ 2 < x ∧ x ≤ num32 n ^ 2) ∧
  (m = .rne → ((num32 (n - 1) + num32 n) / 2) ^ 2 ≤ x ∧ x ≤ ((num32 n + num32 (n + 1)) / 2) ^ 2) ∧
  r.2 = if num32 n ^ 2 = x then 0 else flNX

end Sys2Proof.Claims

/-- R133, R134: the roots and transcendental forms complete in four slots. FSQRT is correctly rounded, and FRCP and FRSQ lie
within one ulp (of f32 at the exact result's magnitude; FRCP's where the result is not about to leave the normal numbers),
with NX exactly where the result is inexact; which of the values within the bound they deliver is the implementation's
choice (log 4). The bounds of the other forms are not stated here. -/
def Sys2Proof.Claims.RootsAndTranscendentals : Prop :=
  ∀ (c : Ctl) (p : FmtA),
    ComputesFp (.fsqrt c p) 4 4 (fun k x => fFsqrt (roundMode false p k) k.flush x.l.toNat) ∧
    ComputesFp (.frcp c p) 4 4 (fun k x => fFrcp k.flush x.l.toNat) ∧
    ComputesFp (.frsq c p) 4 4 (fun k x => fFrsq k.flush x.l.toNat) ∧
    ComputesFp (.fexp2 c p) 4 4 (fun k x => fFexp2 k.flush x.l.toNat) ∧
    ComputesFp (.flog2 c p) 4 4 (fun k x => fFlog2 k.flush x.l.toNat) ∧
    ComputesFp (.fsincos c p) 4 4 (fun k x => fFsincos k.flush x.l.toNat) ∧
    ComputesFp (.ftanh c p) 4 4 (fun k x => fFtanh k.flush x.l.toNat) ∧
    (∀ m fz l s n e, n ≠ 0 → fIn fmt32 fz l = .fin s n e →
      let x := numOf (.fin s n e)
      (s = false → RootRounded m x (fFsqrt m fz l)) ∧
      (∀ E : Int, -125 ≤ E → E ≤ 126 → (2 : ℚ) ^ E ≤ |x⁻¹| → |x⁻¹| < (2 : ℚ) ^ (E + 1) →
        |num32 (fFrcp fz l).1.toNat - x⁻¹| ≤ (2 : ℚ) ^ (E - 23) ∧
        (fFrcp fz l).2 = if num32 (fFrcp fz l).1.toNat = x⁻¹ then 0 else flNX) ∧
      (∀ E : Int, s = false → (2 : ℚ) ^ (2 * E) * x ≤ 1 → 1 < (2 : ℚ) ^ (2 * E + 2) * x →
        let r := num32 (fFrsq fz l).1.toNat
        let u := (2 : ℚ) ^ (E - 23)
        u < r ∧ (r - u) ^ 2 * x ≤ 1 ∧ 1 ≤ (r + u) ^ 2 * x ∧
        (fFrsq fz l).2 = if r ^ 2 * x = 1 then 0 else flNX))

/-- R130, R135: the arithmetic forms round the exact result once, by the mode of R124. R133, R134: the roots and
transcendental forms complete in four slots. FSQRT is correctly rounded, and FRCP and FRSQ lie within one ulp (of f32
at the exact result's magnitude; FRCP's where the result is not about to leave the normal numbers), with NX exactly
where the result is inexact; which of the values within the bound they deliver is the implementation's choice (log 4).
The bounds of the other forms are not stated here. -/
def Obligations.FloatingPointArithmetic : Prop :=
  Sys2Proof.Claims.FloatArithmetic ∧ Sys2Proof.Claims.RootsAndTranscendentals

/-- R134: the special cases are exact, with the flags of the table; that FEXP2 of +∞ raises none is the inference of log 43. -/
def Sys2Proof.Claims.SpecialValues : Prop :=
  Specials fFrcp (fun s => (zero32 s, 0)) (fun s => (inf32 s, flDZ)) ∧
  Specials fFrsq (fun s => if s then (nan32, flNV) else (0, 0)) (fun s => (inf32 s, flDZ)) ∧
  (∀ m, Specials (fFsqrt m) (fun s => if s then (nan32, flNV) else (inf32 false, 0)) (fun s => (zero32 s, 0))) ∧
  Specials fFexp2 (fun s => if s then (0, 0) else (inf32 false, 0)) (fun _ => (one32 false, 0)) ∧
  Specials fFlog2 (fun s => if s then (nan32, flNV) else (inf32 false, 0)) (fun _ => (inf32 true, flDZ)) ∧
  Specials fFtanh (fun s => (one32 s, 0)) (fun s => (zero32 s, 0)) ∧
  (∀ fz l s, fIn fmt32 fz l = .inf s → fFsincos fz l = (pat (nan32 + 2 ^ 32 * nan32), flNV)) ∧
  (∀ fz l m e, m ≠ 0 → fIn fmt32 fz l = .fin true m e →
    fFrsq fz l = (pat nan32, flNV) ∧ fFlog2 fz l = (pat nan32, flNV) ∧ ∀ md, fFsqrt md fz l = (pat nan32, flNV)) ∧
  (∀ fz l n, isInt (fIn fmt32 fz l) n →
    (-126 ≤ n → n ≤ 127 → fFexp2 fz l = (pat ((n + 127).toNat * 2 ^ 23), 0)) ∧
    (-149 ≤ n → n ≤ -127 → fFexp2 fz l = if fz then (0, flUF ||| flNX) else (pat (2 ^ (n + 149).toNat), 0)) ∧
    (128 ≤ n → fFexp2 fz l = (pat (inf32 false), flOF ||| flNX)) ∧
    fFsincos fz l = (pat (zero32 (fvSign (fIn fmt32 fz l)) + 2 ^ 32 * one32 (n % 2 ≠ 0)), 0)) ∧
  (∀ fz l n, isHalf (fIn fmt32 fz l) n → fFsincos fz l = (pat (one32 (n % 2 ≠ 0)), 0)) ∧
  (∀ fz l (j : Nat) e, fIn fmt32 fz l = .fin false (2 ^ j) e →
    isInt (fDecode fmt32 (fFlog2 fz l).1.toNat) (e + j) ∧ (fFlog2 fz l).2 = 0)

/-- R113, R124: a pattern that is no NaN, read and rounded again in its own format, gives the same pattern under
every mode and raises no flag, where flushing does not change it. -/
def Sys2Proof.Claims.RoundingKeepsRepresentable : Prop :=
  ∀ (f : FFmt) (m : RMode) (fz : Bool) (x : Nat), 2 ≤ f.eb → 1 ≤ f.fb → x < 2 ^ (1 + f.eb + f.fb) →
    (∀ sig, fDecode f x ≠ .nan sig) →
    (fz = true → ∀ s n e, fDecode f x = .fin s n e → n = 0 ∨ 2 ^ f.fb ≤ n) →
    fRound f m fz (fDecode f x) = (x, 0)

/-- R125: an arithmetic form with a NaN operand gives the canonical NaN of its format, and NV where the NaN
signals. -/
def Sys2Proof.Claims.NanResultsAreCanonical : Prop :=
  ∀ (f : FFmt) (m : RMode) (fz : Bool) (l r p : Nat),
    let nan := fun (x : Nat) => ∃ sig, fIn f fz x = .nan sig
    let sig := fun (x : Nat) => fIn f fz x = .nan true
    (nan l ∨ nan r →
      (fFadd f m fz l r).1 = pat (fNaN f) ∧ (fFsub f m fz l r).1 = pat (fNaN f) ∧ (fFmul f m fz l r).1 = pat (fNaN f)) ∧
    (nan l ∨ nan r ∨ nan p → (fFfma f m fz l r p).1 = pat (fNaN f)) ∧
    (sig l ∨ sig r →
      flNV &&& (fFadd f m fz l r).2 = flNV ∧ flNV &&& (fFsub f m fz l r).2 = flNV ∧
      flNV &&& (fFmul f m fz l r).2 = flNV ∧ flNV &&& (fFfma f m fz l r p).2 = flNV) ∧
    (sig p → flNV &&& (fFfma f m fz l r p).2 = flNV)

/-- R137: the logarithmic forms.
That an LG conversion of a signalling NaN raises no flag is the inference of log 15. -/
def Obligations.LogarithmicWords : Prop :=
  ∀ (c : Ctl) (p : FmtA),
    let q := if c.ty = .lg6 then 4 else 8
    let elem := fun (x : Val) (i : Nat) => lgDecode q (x.toNat / 256 ^ i % 256)
    let prod := fun (a b : LgV) => match a, b with
      | .nar, _ => LgP.nar
      | _, .nar => .nar
      | .zero, _ => .zero
      | _, .zero => .zero
      | .val s x, .val t y => .val (s != t) (x + y) q
    let term := fun (t : LgP) => match t with | .val s x n => lgterm s x n | _ => 0
    let sum := fun (acc : Int) (l : List LgP) =>
      if acc = -(2 ^ 63) ∨ LgP.nar ∈ l then (pat (2 ^ 63), (0 : Flags))
      else
        let z := acc + (l.map term).sum
        if z < -(2 ^ 63 - 1) ∨ 2 ^ 63 - 1 < z then (pat (2 ^ 63), flLOV) else (low 64 z, 0)
    let dot := fun (x : Opnds) =>
      sum (x.p.setWidth 64).toInt (if c.ty = .b32 then [lgUnword x.l.toNat]
        else (List.range 4).map (fun i => prod (elem x.l i) (elem x.r i)))
    Computes (.lgmul c p) 1 1 (fun x => pat (match prod (elem x.l 0) (elem x.r 0) with
      | .nar => 2 ^ 29 + (if q = 8 then 2 ^ 28 else 0)
      | .zero => 2 ^ 30 + (if q = 8 then 2 ^ 28 else 0)
      | .val s z _ => (if s then 2 ^ 31 else 0) + (if q = 8 then 2 ^ 28 else 0) + (z % 2 ^ 16).toNat)) ∧
    ComputesFp (.lgcvt c p) 2 2 (fun k x =>
      let r := lgenc (fIn fmt32 k.flush x.l.toNat) q k.sexp
      (pat r.1, r.2)) ∧
    Answers (.lgdot c p) (slots 2 2) (laneValues (fun x => (dot x).1)) (laneFlags (fun x => (dot x).2)) ∧
    (let exp := fun (i : Iss) (x : Opnds) =>
      let k := issSlot i p.fs.toNat
      let two := k.sexp + (issSlot i (p.aux.toNat % 8)).sexp
      let value := fun (z e : Int) =>
        rounded fmt32 (roundMode false p k) k.flush (.fin (z < 0) z.natAbs (e - 23), 0)
      let nan : FRes := (pat nan32, 0)
      if c.ty = .b32 then (match lgUnword x.l.toNat with
        | .nar => nan
        | y => value (term y) two)
      else if c.ty = .s64 then
        (if (x.l.setWidth 64).toInt = -(2 ^ 63) then nan else value (x.l.setWidth 64).toInt two)
      else (match elem x.l 0 with
        | .nar => nan
        | .zero => (0, 0)
        | .val s z => value (lgterm s z q) k.sexp)
     Answers (.lgexp c p) (slots 2 2) (fun i o c pl => laneValues (fun x => (exp i x).1) i o c pl)
      (fun i o c pl => laneFlags (fun x => (exp i x).2) i o c pl))

/-- R121: the code that a finite nonzero value gets is the nearest in the logarithmic domain, and out of range it
saturates or becomes zero. The value is m × 2^e under scale exponent E, and |x|^(2q) × 2^(−2qE) is compared with powers
of two. -/
def Sys2Proof.Claims.LogEncodingIsNearest : Prop :=
  ∀ (q : Nat) (s : Bool) (m : Nat) (e E : Int), (q = 4 ∨ q = 8) → m ≠ 0 →
    let cmax : Int := if q = 4 then 15 else 63
    let x : ℚ := (m : ℚ) ^ (2 * q) * (2 : ℚ) ^ (2 * (q : Int) * (e - E))
    ((2 : ℚ) ^ (2 * cmax) < x → lgenc (.fin s m e) q E = (lgByte q s cmax, flLSAT ||| flNX)) ∧
    (x < (2 : ℚ) ^ (-2 * cmax - 1) → lgenc (.fin s m e) q E = (lgByte q false (-cmax - 1), flUF ||| flNX)) ∧
    (∀ z : Int, -cmax ≤ z → z ≤ cmax → x ≤ (2 : ℚ) ^ (2 * cmax) →
      (2 : ℚ) ^ (2 * z - 1) < x → x < (2 : ℚ) ^ (2 * z + 1) →
      (lgenc (.fin s m e) q E).1 = lgByte q s z ∧
      ((lgenc (.fin s m e) q E).2 = 0 ↔ x = (2 : ℚ) ^ (2 * z)))

/-- R134: the special cases are exact, with the flags of the table; that FEXP2 of +∞ raises none is the inference of
log 43. R113, R124: a pattern that is no NaN, read and rounded again in its own format, gives the same pattern under
every mode and raises no flag, where flushing does not change it. R125: an arithmetic form with a NaN operand gives
the canonical NaN of its format, and NV where the NaN signals. R121: the code that a finite nonzero value gets is the
nearest in the logarithmic domain, and out of range it saturates or becomes zero. The value is m × 2^e under scale
exponent E, and |x|^(2q) × 2^(−2qE) is compared with powers of two. -/
def Obligations.RoundedSpecialAndLogarithmicResults : Prop :=
  Sys2Proof.Claims.SpecialValues ∧ Sys2Proof.Claims.RoundingKeepsRepresentable ∧ Sys2Proof.Claims.NanResultsAreCanonical ∧ Sys2Proof.Claims.LogEncodingIsNearest

/-- R138: FFLAGS.rd gives the flags as they stood at the block's entry; FFLAGS.clr adds its mask to the block's clear
mask where it fires with a value, and has no other effect. -/
def Obligations.FlagWords : Prop :=
  ∀ (c : Ctl),
    Answers (.fflagsRd c) (inSlots 1) (toFiring (fun i _ _ _ => i.f.entryFlags.setWidth 128)) quiet ∧
    (∀ s i, Turn s i .fflagsClr c .n →
      (∀ x, uniOpnds i .fflagsClr c .n = some x →
        exec (.fflagsClr c) s = .next (finishNone
          (updFlight s i.t i.u (fun f => { f with clear := f.clear ||| x.l.setWidth 8 })) i .fflagsClr c .n)) ∧
      (uniOpnds i .fflagsClr c .n = none → exec (.fflagsClr c) s = .next (finishNone s i .fflagsClr c .n)))

/-! ## Memory words (chapter 6) -/

namespace Sys2Proof.Claims

/-- A lane's global address: L plus the sign-extended OFS12, modulo 2^64 (R165). -/
def globalAt (p : FmtM) (x : Opnds) : Nat := (x.l.setWidth 64 + p.ofs12.signExtend 64).toNat

/-- A lane's window or constant offset, modulo 2^32 (R165). -/
def windowAt (p : FmtM) (x : Opnds) : Nat := (x.l.setWidth 32 + p.ofs12.signExtend 32).toNat

/-- The token of loaded bytes: sign-extended for s8 (R167). -/
def loaded (ty : Ty) (n : Nat) : Val := if ty = .s8 then low 32 (BitVec.ofNat 8 n).toInt else BitVec.ofNat 128 n

/-- A word that holds back no load: no acquire of an earlier instruction waits for a load from the homes or from the window (R157). -/
def NoAcquire (s : State) (i : Iss) : Prop :=
  (∀ l ∈ s.loads, l.team = i.t → l.unit = i.u → i.f.acq ≤ l.idx) ∧ ∀ l ∈ i.f.spLoads, i.f.acq ≤ l.idx

/-- The banks of `n` window bytes are free in this cycle (R252); no bank is granted or held while no image is active and no atomic
has one. -/
def WindowFree (s : State) (T : Team) (off n : Nat) : Prop :=
  ((getGrid s T.core).active = none ∧ (getGrid s T.core).bankUse = []) ∨ ∀ b ∈ spBanks T off n, bankFree s T.core b = true

/-- The firing lanes with their operands, in lane order. -/
def atLanes (i : Iss) (o : Op) (c : Ctl) (pl : Payload) : List (Nat × Opnds) :=
  ((allOpnds i o c pl).zipIdx).filterMap (fun x => x.1.map (fun v => (x.2, v)))

/-- The token of a load that gives the firing lanes `f`. -/
def loadedLanes (i : Iss) (o : Op) (c : Ctl) (pl : Payload) (f : Opnds → Except (TrapCode × TrapSource × Nat) Nat) : List Lane :=
  overLanes i (fun l => (opndsAt i o c pl l).bind (fun x => (f x).toOption.map (loaded c.ty)))

/-- The word stays at its turn while an acquire or `held` holds it. Then it answers every firing lane with `f`, if `ready`, in the
slots of R27 that R227 gives the Bridle too, or traps for its first faulting lane. -/
def LoadsNow (w : Instr) (f : State → Iss → Opnds → Except (TrapCode × TrapSource × Nat) Nat) (held ready : State → Iss → Prop)
    (n : Nat) : Prop :=
  ∀ s i o c pl, w.view = some (o, c, pl) → Turn s i o c pl →
    (¬NoAcquire s i ∨ held s i → exec w s = .next s) ∧
    (NoAcquire s i → ¬held s i → (∀ x ∈ atLanes i o c pl, ∃ v, f s i x.2 = .ok v) → ready s i →
      exec w s = .next (finish s i o c pl (loadedLanes i o c pl (f s i)) (8 * n) 0)) ∧
    (∀ pre x post e, NoAcquire s i → ¬held s i → atLanes i o c pl = pre ++ x :: post → (∀ y ∈ pre, ∃ v, f s i y.2 = .ok v) →
      f s i x.2 = .error e →
      exec w s = .next (raise s i.t i.u i.f.idx x.1 ⟨e.1, e.2.1, BitVec.ofNat 64 e.2.2, i.f.addr⟩))

/-- The window bytes of a lane, or its fault (R168, R177). -/
def windowRead (p : FmtM) (s : State) (i : Iss) (x : Opnds) : Except (TrapCode × TrapSource × Nat) Nat :=
  let a := windowAt p x
  let n := widthBytes p.width
  if i.T.spBytes < a + n then .error (.xlateNotMapped, .scratchpad, a)
  else if spPoisoned s i.T a n = true then .error (.dataPoison, .scratchpad, a)
  else .ok (((List.range n).map (fun k => (spByte s i.t i.u i.T.core (spAddr i.T (a + k))).toNat * 256 ^ k)).sum)

/-- The pieces of the firing lanes of an LDS (R158). -/
def windowPieces (i : Iss) (c : Ctl) (p : FmtM) : List SpPiece :=
  (atLanes i .lds c (.m p)).flatMap (fun x =>
    (pieces (windowAt p x.2) (widthBytes p.width)).map (fun q => ⟨i.f.idx, x.1, q.1, windowAt p x.2 + q.1, q.2⟩))

/-- A byte that a firing lane of an LDC reads lies in a page in transition (R163). -/
def constantMoves (c : Ctl) (p : FmtM) (s : State) (i : Iss) : Prop :=
  ∃ e, readEntry s i.T p.ridx.toNat = .ok e ∧ ∃ x ∈ atLanes i .ldc c (.m p),
    let n := min (widthBytes p.width) (e.size - windowAt p x.2)
    n ≠ 0 ∧ coreMoves s i.T.core i.T.vf (e.base + windowAt p x.2) n = true

/-- A token that a word sets is busy until the values that the word waits for are there (R36). -/
def awaited (s : State) (i : Iss) (c : Ctl) : State :=
  match sbOf c with
  | none => s
  | some b => updUnit (updFlight s i.t i.u (fun f => { f with sbLoads := f.sbLoads ++ [(i.f.idx, b)] })) i.t i.u
      (fun w => setTok w b { state := .pending })

/-- An atomic, a CLAIM or a SPAWN leaves its turn with its requests held, and waits for their values (R36, R72). -/
def heldAtomic (s : State) (i : Iss) (o : Op) (c : Ctl) (pl : Payload) (l : List HeldStore) : State :=
  awaited (advance (updFlight s i.t i.u (fun f => { f with stores := f.stores ++ l })) i o c pl 0) i c

/-- The word checks its firing lanes in order with `f`, and the block in flight holds what they give for the commit; the
token of an atomic waits for its values. -/
def Holds (w : Instr) (f : Iss → State → Nat × Opnds → State × Except LaneFault (List HeldStore)) : Prop :=
  ∀ s i o c pl, w.view = some (o, c, pl) → Turn s i o c pl →
    (∀ t l, holdLanes (f i) s (atLanes i o c pl) = (t, .ok l) →
      exec w s = .next (if ∀ h ∈ l, h.kind = .store then
          finishNone (updFlight t i.t i.u (fun fl => { fl with stores := fl.stores ++ l })) i o c pl
        else heldAtomic t i o c pl l)) ∧
    (∀ t e, holdLanes (f i) s (atLanes i o c pl) = (t, .error e) →
      exec w s = .next (raise t i.t i.u i.f.idx e.lane ⟨e.code, e.src, BitVec.ofNat 64 e.info, i.f.addr⟩))

/-- One lane of a global atomic: aligned, translated, permitted, and held as one event (R159, R170, R171). -/
def atomicLane (k : ReqKind) (c : Ctl) (p : FmtM) (i : Iss) (s : State) (x : Nat × Opnds) :
    State × Except LaneFault (List HeldStore) :=
  let a := globalAt p x.2
  let n := widthBytes p.width
  let r := checkAccess s i.T.core i.T.vf a n .atom true
  match r.2 with
  | .error e => (r.1, .error ⟨x.1, e, .globalMem, a⟩)
  | .ok ps =>
    if (∃ q ∈ ps, paKind r.1 q.pa = .host) ∧ hostAtom k c.ty = false then (r.1, .error ⟨x.1, .xlatePerm, .globalMem, a⟩)
    else (r.1, .ok (ps.map (fun q => ⟨c.lsid.toNat, i.f.idx, x.1, false, k, q.va, q.pa, n, x.2.r, x.2.p, []⟩)))

/-- One lane of a scratchpad word that writes: aligned if it is an atomic, inside the window, and held. -/
def scratchLane (atomic : Bool) (k : ReqKind) (c : Ctl) (p : FmtM) (i : Iss) (s : State) (x : Nat × Opnds) :
    State × Except LaneFault (List HeldStore) :=
  let a := windowAt p x.2
  let n := widthBytes p.width
  if atomic = true ∧ a % n ≠ 0 then (s, .error ⟨x.1, .align, .scratchpad, a⟩)
  else if i.T.spBytes < a + n then (s, .error ⟨x.1, .xlateNotMapped, .scratchpad, a⟩)
  else (s, .ok [⟨c.lsid.toNat, i.f.idx, x.1, true, k, a, 0, n, if atomic then x.2.r else cut (8 * n) x.2.r, 0, []⟩])

end Sys2Proof.Claims

/-- R168, R169, R252: LDS reads the window as it stands and LDC a constant buffer, zero past its size; each lane gets its
bytes, or the first faulting lane traps. An LDS whose banks are not all free leaves its turn with its pieces, and a cycle reads
those whose banks, and the banks of the earlier pieces of their lanes, are free; the last gives the result.
That LDC reads its bytes at their home when it issues is the inference of log 9; that an access waits for its banks piece by
piece is the choice of log 45. -/
def Obligations.ScratchpadAndConstantLoads : Prop :=
  (∀ (c : Ctl) (p : FmtM),
    LoadsNow (.lds c p) (windowRead p) (fun _ _ => False) (fun s i => ∀ q ∈ windowPieces i c p, WindowFree s i.T q.addr q.n) 4 ∧
    (∀ s i, Turn s i .lds c (.m p) → NoAcquire s i → (∀ x ∈ atLanes i .lds c (.m p), ∃ v, windowRead p s i x.2 = .ok v) →
      (∃ q ∈ windowPieces i c p, ¬WindowFree s i.T q.addr q.n) →
      exec (.lds c p) s = .next (readSp (updFlight (awaited (advance s i .lds c (.m p) 0) i c) i.t i.u (fun f => { f with
        loads := f.loads ++ (atLanes i .lds c (.m p)).map (fun x =>
          ⟨i.f.idx, x.1, 0, ((windowPieces i c p).filter (fun q => q.lane == x.1)).length⟩)
        spLoads := f.spLoads ++ windowPieces i c p })) i.t i.u)) ∧
    LoadsNow (.ldc c p) (fun s i x =>
      match readEntry s i.T p.ridx.toNat with
      | .error (k, a) => .error (k, if k = .resourceKind then .engine else .globalMem, a)
      | .ok e => if e.kind ≠ .const then .error (.resourceKind, .engine, p.ridx.toNat)
        else constNum s i.T e (windowAt p x) (widthBytes p.width)) (constantMoves c p) (fun _ _ => True) 12) ∧
  (∀ s t u T w f, getTeam s t = some T → getUnit s t u = some w → w.flight = some f → f.fault = none →
    let free := fun (q : SpPiece) => ∀ x ∈ f.spLoads, x.idx = q.idx → x.lane = q.lane → x.off ≤ q.off → WindowFree s T x.addr x.n
    ((∀ q ∈ f.spLoads, ¬free q) → readSp s t u = s) ∧
    (∀ q ll x, f.spLoads = [q] → free q → f.loads = [ll] → ll.idx = q.idx → ll.lane = q.lane → ll.missing = 1 →
      f.words[q.idx]? = some x → sbOf (ctlOf x) = none → spPoisoned s T q.addr q.n = false →
      (getUnit (readSp s t u) t u).bind WUnit.flight = some { sendResult f (ctlOf x) q.idx
          ⟨(List.range (laneCount u)).map (fun l => if l = q.lane then
            some (loaded (ctlOf x).ty (ll.val ||| BitVec.ofNat 128 (spNum s t u T q.addr q.n * 256 ^ q.off)).toNat) else none),
            s.ptc + 32⟩ with
        loads := [], spLoads := [], sbLoads := f.sbLoads.filter (fun x => x.1 != q.idx) }) ∧
    (∀ q, f.spLoads = [q] → free q → spPoisoned s T q.addr q.n = true → (∀ l ∈ f.loads, l.idx = q.idx → l.missing ≠ 0) →
      readSp s t u = recheckFault (raise (updFlight s t u (fun f => { f with spLoads := [] })) t u q.idx q.lane
        ⟨.dataPoison, .scratchpad, BitVec.ofNat 64 (q.addr - q.off), f.addr⟩) t u)) ∧
  (∀ s T e off n, e.size ≤ off → constNum s T e off n = .ok 0) ∧
  (∀ s (T : Team) e off n,
      let va := fun (k : Nat) => (e.base + off + k) % 2 ^ 64
      let inside := fun (k : Nat) => k < n ∧ off + k < e.size
      ((∃ k x, inside k ∧ transl s T.core T.vf (va k) = .error x) →
        constNum s T e off n = .error (.xlateNotMapped, .globalMem, va 0)) ∧
      ∀ pg : Nat → TlbEnt, (∀ k, inside k → transl s T.core T.vf (va k) = .ok (pg k)) →
        let at_ := fun (k : Nat) => homeAddr s T.vf (va k) (leafPa (pg k) (va k))
        ((∃ k, inside k ∧ (pg k).rd = false) → constNum s T e off n = .error (.xlatePerm, .globalMem, va 0)) ∧
        ((∀ k, inside k → (pg k).rd = true) → (∃ k, inside k ∧ granulePoisoned s (at_ k / 32) = true) →
          constNum s T e off n = .error (.dataPoison, .globalMem, va 0)) ∧
        ((∀ k, inside k → (pg k).rd = true ∧ granulePoisoned s (at_ k / 32) = false) →
          constNum s T e off n = .ok ((List.range n).map (fun k =>
            if off + k < e.size then (memByte s.mem (at_ k)).toNat * 256 ^ k else 0)).sum))

/-- R149, R157, R168: LD waits for an acquire before it, and checks its firing lanes in order; with no fault the result comes after
the slots of the level that served it where the die serves every piece, else the block waits for the requests that went to the
homes; the first fault traps.
What a view on ALT falls back to is the choice of log 47. -/
def Obligations.GlobalLoad : Prop :=
  ∀ (c : Ctl) (p : FmtM) s i, Turn s i .ld c (.m p) →
    (¬NoAcquire s i → exec (.ld c p) s = .next s) ∧ (NoAcquire s i →
    let a := (atLanes i .ld c (.m p)).foldl
      (loadLane i (widthBytes p.width) (decide (5 ≤ scopeCode p.scope)) p.cache (globalAt p)) { s := s }
    (∀ k, a.fault = some k →
      exec (.ld c p) s = .next (raise a.s i.t i.u i.f.idx k.lane ⟨k.code, k.src, BitVec.ofNat 64 k.info, i.f.addr⟩)) ∧
    (a.fault = none → (∀ l ∈ a.lanes, l.missing = 0) →
      exec (.ld c p) s = .next (finish a.s i .ld c (.m p)
        (overLanes i (fun n => (a.lanes.find? (fun x => x.idx == i.f.idx && x.lane == n)).map (fun x => loaded c.ty x.val.toNat)))
        (8 * a.slots) 0)) ∧
    (a.fault = none → (∃ l ∈ a.lanes, l.missing ≠ 0) →
      exec (.ld c p) s = .next (awaited (updFlight (advance a.s i .ld c (.m p) 0) i.t i.u (fun f =>
        { f with loads := f.loads ++ a.lanes })) i c)))

/-- R72, R168, R170 to R172: a store or atomic changes no memory at its turn: the block in flight holds, for every
firing lane, what its commit will release, or the first faulting lane traps. -/
def Obligations.StoresAndAtomicsAreHeld : Prop :=
  ∀ (c : Ctl) (p : FmtM),
    Holds (.st c p) (fun i s x =>
      let a := globalAt p x.2
      let r := checkAccess s i.T.core i.T.vf a (widthBytes p.width) .rw false
      match r.2 with
      | .error k => (r.1, .error ⟨x.1, k, .globalMem, a⟩)
      | .ok ps => (r.1, .ok (ps.map (fun q => ⟨c.lsid.toNat, i.f.idx, x.1, false, .store, q.va, q.pa, q.n,
          cut (8 * q.n) (x.2.r >>> (8 * q.off)), 0, []⟩)))) ∧
    Holds (.sts c p) (scratchLane false .store c p) ∧
    Holds (.atomAdd c p) (atomicLane (.atom .add c.ty) c p) ∧ Holds (.atomMin c p) (atomicLane (.atom .min c.ty) c p) ∧
    Holds (.atomMax c p) (atomicLane (.atom .max c.ty) c p) ∧ Holds (.atomAnd c p) (atomicLane (.atom .and c.ty) c p) ∧
    Holds (.atomOr c p) (atomicLane (.atom .or c.ty) c p) ∧ Holds (.atomXor c p) (atomicLane (.atom .xor c.ty) c p) ∧
    Holds (.atomExch c p) (atomicLane (.atom .exch c.ty) c p) ∧ Holds (.atomcas c p) (atomicLane (.cas c.ty) c p) ∧
    Holds (.atomvOr c p) (atomicLane (.vec .or (c.ty == .n64)) c p) ∧
    Holds (.atomvAnd c p) (atomicLane (.vec .and (c.ty == .n64)) c p) ∧
    Holds (.atomvAdd c p) (atomicLane (.vec .add (c.ty == .n64)) c p) ∧
    Holds (.atomvMax c p) (atomicLane (.vec .max (c.ty == .n64)) c p) ∧
    Holds (.satomAdd c p) (scratchLane true (.atom .add c.ty) c p) ∧
    Holds (.satomMin c p) (scratchLane true (.atom .min c.ty) c p) ∧
    Holds (.satomMax c p) (scratchLane true (.atom .max c.ty) c p) ∧
    Holds (.satomAnd c p) (scratchLane true (.atom .and c.ty) c p) ∧
    Holds (.satomOr c p) (scratchLane true (.atom .or c.ty) c p) ∧
    Holds (.satomXor c p) (scratchLane true (.atom .xor c.ty) c p) ∧
    Holds (.satomExch c p) (scratchLane true (.atom .exch c.ty) c p)

/-- R158: the pieces of an access lie in order with no gap, cover it exactly, and each is the largest of 1, 2, 4, 8
and 16 bytes that is aligned there and not longer than what is left. -/
def Obligations.PiecesCoverAnAccess : Prop :=
  ∀ a n : Nat,
    ((pieces a n).map Prod.snd).sum = n ∧
    (∀ k (h : k < (pieces a n).length), ((pieces a n)[k]).1 = (((pieces a n).take k).map Prod.snd).sum) ∧
    (∀ q ∈ pieces a n, q.2 ∈ [1, 2, 4, 8, 16] ∧ (a + q.1) % q.2 = 0 ∧
      ∀ m ∈ [1, 2, 4, 8, 16], (a + q.1) % m = 0 → q.1 + m ≤ n → m ≤ q.2)

/-- R157, R173: a fence waits for its release part, and from then its acquire part holds the block's later loads;
where no lane fires it only takes its slot. -/
def Sys2Proof.Claims.Fences : Prop :=
  ∀ (c : Ctl) (p : FmtS) s i,
    let done := releaseDone s i.t i.u i.T i.w (scopeCode p.scope)
    let mark := updFlight s i.t i.u (fun f => { f with acq := f.idx })
    (Turn s i .fenceAcq c (.s p) → atLanes i .fenceAcq c (.s p) ≠ [] →
      exec (.fenceAcq c p) s = .next (finishNone mark i .fenceAcq c (.s p))) ∧
    (Turn s i .fenceRel c (.s p) → atLanes i .fenceRel c (.s p) ≠ [] →
      exec (.fenceRel c p) s = .next (if done = true then finishNone s i .fenceRel c (.s p) else s)) ∧
    (Turn s i .fenceAr c (.s p) → atLanes i .fenceAr c (.s p) ≠ [] →
      exec (.fenceAr c p) s = .next (if done = true then finishNone mark i .fenceAr c (.s p) else s)) ∧
    (∀ w o, ((w, o) = (Instr.fenceAcq c p, Op.fenceAcq) ∨ (w, o) = (.fenceRel c p, .fenceRel) ∨ (w, o) = (.fenceAr c p, .fenceAr)) →
      Turn s i o c (.s p) → atLanes i o c (.s p) = [] → exec w s = .next (finishNone s i o c (.s p)))

/-- R174 to R176: PFETCH asks for the lines its lanes name and traps nothing; CINV records its range for the commit;
CLAIM and CLAIM.rel translate every page of the range and hold the request with the pages, or trap: for the first page that is not
mapped, else for the first that lacks a right. -/
def Sys2Proof.Claims.CacheAndClaimWords : Prop :=
  ∀ (c : Ctl) (p : FmtM) s i,
    (Turn s i .pfetch c (.m p) →
      exec (.pfetch c p) s = .next (finishNone ((atLanes i .pfetch c (.m p)).foldl (pfetchLane i p) s) i .pfetch c (.m p))) ∧
    (Turn s i .cinv c (.m p) → ∀ l x rest, atLanes i .cinv c (.m p) = (l, x) :: rest →
      exec (.cinv c p) s = .next (finishNone (updFlight s i.t i.u (fun f =>
        { f with cinv := f.cinv ++ [(globalAt p x, (x.r.setWidth 32).toNat)] })) i .cinv c (.m p))) ∧
    (∀ w o rel, ((w, o, rel) = (Instr.claim c p, Op.claim, false) ∨ (w, o, rel) = (.claimRel c p, .claimRel, true)) →
      Turn s i o c (.m p) →
      (atLanes i o c (.m p) = [] → exec w s = .next (finishNone s i o c (.m p))) ∧
      ∀ l x rest, atLanes i o c (.m p) = (l, x) :: rest →
        let n := (x.r.setWidth 32).toNat
        let r := claimTranslate i.T.core i.T.vf s (rangePages (globalAt p x) n)
        (∀ k va, r.2 = .error (k, va) →
          exec w s = .next (raise r.1 i.t i.u i.f.idx l ⟨k, .globalMem, BitVec.ofNat 64 va, i.f.addr⟩)) ∧
        (∀ pages, r.2 = .ok pages → exec w s = .next (heldAtomic r.1 i o c (.m p)
          [⟨c.lsid.toNat, i.f.idx, l, false, .claim rel, globalAt p x, 0, n, 0, 0, pages⟩]))) ∧
    (∀ core vf s pages,
      let r := translatePieces s core vf 0 (pages.map (fun va => (va, 2 ^ 16)))
      let unmapped := fun (q : Nat × Nat × Except TrapCode TlbEnt) => ∃ k, q.2.2 = .error k
      let barred := fun (q : Nat × Nat × Except TrapCode TlbEnt) =>
        ∃ e, q.2.2 = .ok e ∧ ¬(e.rd = true ∧ e.wr = true ∧ e.mt = .cached)
      (claimTranslate core vf s pages).1 = r.1 ∧
      (∀ pre q post, r.2 = pre ++ q :: post → unmapped q → (∀ y ∈ pre, ¬unmapped y) →
        (claimTranslate core vf s pages).2 = .error (.xlateNotMapped, q.1 % 2 ^ 64)) ∧
      (∀ pre q post, r.2 = pre ++ q :: post → (∀ y ∈ r.2, ¬unmapped y) → barred q → (∀ y ∈ pre, ¬barred y) →
        (claimTranslate core vf s pages).2 = .error (.xlatePerm, q.1 % 2 ^ 64)) ∧
      ((∀ y ∈ r.2, ¬unmapped y ∧ ¬barred y) →
        ∃ ps, (claimTranslate core vf s pages).2 = .ok ps ∧ ps.length = r.2.length ∧
          ∀ (k : Nat) (y : Nat × Nat × Except TrapCode TlbEnt) (e : TlbEnt), r.2[k]? = some y → y.2.2 = .ok e →
            ps[k]? = some e.ppage))

/-- R157, R173: a fence waits for its release part, and from then its acquire part holds the block's later loads;
where no lane fires it only takes its slot. R174 to R176: PFETCH asks for the lines its lanes name and traps nothing;
CINV records its range for the commit; CLAIM and CLAIM.rel translate every page of the range and hold the request with
the pages, or trap: for the first page that is not mapped, else for the first that lacks a right.
The order of the checks of a claim is the inference of log 39. -/
def Obligations.FencesCacheAndClaimWords : Prop :=
  Sys2Proof.Claims.Fences ∧ Sys2Proof.Claims.CacheAndClaimWords

/-! ## Copy words (chapter 7) -/

namespace Sys2Proof.Claims

/-- A copy word at its turn, with room in the queue, acting for its leader lane `l` with operands `x` (R178, R179). -/
def CopyTurn (s : State) (i : Iss) (o : Op) (c : Ctl) (p : FmtE) (l : Nat) (x : Opnds) : Prop :=
  Turn s i o c (.e p) ∧ NoAcquire s i ∧ (getCore s i.T.core).copyQ.length < 32 ∧
  ∃ rest, atLanes i o c (.e p) = (l, x) :: rest

/-- The word traps at its turn in lane `l`. -/
def TrapsIn (w : Instr) (s : State) (i : Iss) (l : Nat) (code : TrapCode) (src : TrapSource) (info : Nat) : Prop :=
  exec w s = .next (raise s i.t i.u i.f.idx l ⟨code, src, BitVec.ofNat 64 info, i.f.addr⟩)

/-- The request is accepted, with its view where it is shadowed; without one that holds its destination it traps RESOURCE_KIND
(R180, R184, R189). -/
def Accepted (w : Instr) (s : State) (i : Iss) (o : Op) (c : Ctl) (p : FmtE) (l : Nat) (r : CopyReq) : Prop :=
  (r.sh = false → exec w s = .next (acceptCopy s i o c p r).1) ∧
  (r.sh = true → (∀ t v, shView s i r = some (t, v) → exec w s = .next (acceptCopy t i o c p { r with view := some v }).1) ∧
    (shView s i r = none → TrapsIn w s i l .resourceKind .engine r.ridx))

/-- The request of a copy word before its operands: SBSET, AP, SH, NB and the resource (R189). -/
def request (i : Iss) (c : Ctl) (p : FmtE) (kind : CopyKind) (e : ResEntry) : CopyReq :=
  { id := 0, vf := i.T.vf, team := i.t, unit := i.u, kind := kind, sb := sbOf c, ap := p.mode.getLsbD 4, sh := p.mode.getLsbD 3,
    bv := if p.mode.getLsbD 2 then some (p.aux8.toNat / 16) else none, res := e, ridx := p.ridx.toNat }

/-- A participant has arrived at barrier b of team t in this cycle (R266). -/
def ArrivedNow (s : State) (t b : Nat) : Prop := ∃ T, getTeam s t = some T ∧ (getBar T b).arrivedAt = s.ptc + 1

/-- The bytes of a request are taken from its barrier before the arrivals of a cycle, and so wait after one for the next (R266). -/
def BytesLate (s : State) (r : CopyReq) : Prop := ∃ b, r.bv = some b ∧ ArrivedNow s r.team b

/-- The same of the requests that a view's CPYCAN ends, and of the bytes that the view owes. -/
def CancelLate (s : State) (v : ViewRef) : Prop :=
  (∃ core r, (core, r) ∈ cancelled s v ∧ BytesLate s r) ∨
  ∃ x, getView s v = some x ∧ ∃ y ∈ x.unpub, ArrivedNow s y.1 y.2.1

/-- An offset operand: the low 32 bits. -/
def w32 (x : Val) : Nat := (x.setWidth 32).toNat
/-- A byte offset or address operand: the low 64 bits. -/
def w64 (x : Val) : Nat := (x.setWidth 64).toNat

end Sys2Proof.Claims

/-- R189 to R192: tile, block and row copies between a resource and the window are accepted with the operands of their
leader lane where the resource has the kind, and the offsets the alignment and range, that the rules ask; a misaligned
window offset traps ALIGN, and a shadowed request whose destination no view holds RESOURCE_KIND. That the rows of an SP = 1
resource are checked by the list as it stands at issue is the choice of log 41. -/
def Sys2Proof.Claims.TileBlockAndRowCopies : Prop :=
  ∀ (c : Ctl) (p : FmtE) s i l x,
    (∀ w o k, ((w, o, k) = (Instr.cpytLd c p, Op.cpytLd, CopyKind.tileLd) ∨ (w, o, k) = (.cpytSt c p, .cpytSt, .tileSt)) →
      CopyTurn s i o c p l x → ∀ e, readEntry s i.T p.ridx.toNat = .ok e →
      let r := { request i c p k e with
        coords := (List.range 4).map (fun d => ((x.l >>> (32 * d)).setWidth 32).toInt), sp := w32 x.r }
      (w32 x.r % 16 ≠ 0 → TrapsIn w s i l .align .scratchpad (w32 x.r)) ∧
      (w32 x.r % 16 = 0 → tensorOk e = true → w32 x.r + spLen r ≤ i.T.spBytes → (firstOf (resInWindow i.T r)).isNone = true →
        Accepted w s i o c p l r)) ∧
    (∀ w o k, ((w, o, k) = (Instr.cpybLd c p, Op.cpybLd, CopyKind.bufLd) ∨ (w, o, k) = (.cpybSt c p, .cpybSt, .bufSt)) →
      CopyTurn s i o c p l x → ∀ e, readEntry s i.T p.ridx.toNat = .ok e →
      let r := { request i c p k e with ofs := w64 x.l, sp := w32 x.r, count := p.imm32.toNat }
      (w64 x.l % 16 ≠ 0 → TrapsIn w s i l .align .globalMem (w64 x.l)) ∧
      (w64 x.l % 16 = 0 → w32 x.r % 16 = 0 → p.imm32.toNat % 16 = 0 → w32 x.r + p.imm32.toNat ≤ i.T.spBytes →
        (e.kind = .buffer ∨ e.kind = .tensor) → (firstOf (resInWindow i.T r)).isNone = true → Accepted w s i o c p l r)) ∧
    (∀ w o k, ((w, o, k) = (Instr.cpyg c p, Op.cpyg, CopyKind.gather) ∨ (w, o, k) = (.cpys c p, .cpys, .scatter)) →
      CopyTurn s i o c p l x → ∀ e, readEntry s i.T p.ridx.toNat = .ok e → tensorOk e = true → 2 ≤ e.rank →
      w32 x.l % 16 = 0 → w32 x.r % 16 = 0 →
      let n := p.imm32.toNat % 2 ^ 12 + 1
      let r := { request i c p k e with row := w32 x.l, sp := w32 x.r, count := n }
      let rows := readList s i.T r
      let width := min (boxAt e 0) (dimAt e 0) * e.esize
      let out := fun (j : Nat) => j < dimAt e 1 ∧ width ≠ 0 ∧ i.T.spBytes < e.base + j * strideAt e 1 + width
      w32 x.l + 4 * n ≤ i.T.spBytes → w32 x.r + spLen r ≤ i.T.spBytes →
      (e.sp = false → Accepted w s i o c p l r) ∧
      (e.sp = true → (∀ j ∈ rows, ¬out j) → Accepted w s i o c p l r) ∧
      (∀ pre j post, e.sp = true → rows = pre ++ j :: post → out j → (∀ k ∈ pre, ¬out k) →
        TrapsIn w s i l .xlateNotMapped .scratchpad (e.base + j * strideAt e 1))) ∧
    (∀ r, loadsSp r = false → r.res.sp = false → r.res.size < (resBounds (startCopy s i.T r)).2 → shView s i r = none)

/-- R178, R179, R193 to R197, R208: accumulator copies, which a team that does not hold the engine may not issue, PUBL, CPYCAN, the
scale-out copies, CRED and TOKQ; a copy word waits for an acquire and for room in the queue, and does nothing without a leader; where it takes bytes from a barrier
after an arrival of the cycle it waits for the next (R266). That
the ENGINE_ROLE of a CPYACC comes before its other checks, and that a CRED of a group that is not installed fails, are the
inferences of log 39. -/
def Sys2Proof.Claims.OtherCopyWords : Prop :=
  ∀ (c : Ctl) (p : FmtE) s i l x,
    (∀ w o k, ((w, o, k) = (Instr.cpyaccIn c p, Op.cpyaccIn, CopyKind.accIn) ∨ (w, o, k) = (.cpyaccOut c p, .cpyaccOut, .accOut)) →
      CopyTurn s i o c p l x →
      let row := p.imm32.toNat % 2 ^ 9
      let n := p.imm32.toNat / 2 ^ 16 % 2 ^ 9 + 1
      let m := (getCore s i.T.core).mat
      (m.holder ≠ some i.t → TrapsIn w s i l .engineRole .engine (i.f.hdr.hcnt + i.f.idx)) ∧
      (m.holder = some i.t → w32 x.l % 16 = 0 → w32 x.l + 512 * n ≤ i.T.spBytes → row + n ≤ 512 →
        (∀ k ∈ m.chains, chainTouches k row n = false) →
        Accepted w s i o c p l { request i c p k {} with sp := w32 x.l, row := row, count := n })) ∧
    (∀ w o, (w, o) ∈ [(Instr.cpytLd c p, Op.cpytLd), (.cpytSt c p, .cpytSt), (.cpybLd c p, .cpybLd), (.cpybSt c p, .cpybSt),
        (.cpyg c p, .cpyg), (.cpys c p, .cpys), (.cpyaccIn c p, .cpyaccIn), (.cpyaccOut c p, .cpyaccOut), (.publ c p, .publ),
        (.cpycan c p, .cpycan), (.cpyrGet c p, .cpyrGet), (.cpyrPut c p, .cpyrPut), (.cred c p, .cred)] → Turn s i o c (.e p) →
      (¬NoAcquire s i → exec w s = .next s) ∧
      (NoAcquire s i → atLanes i o c (.e p) = [] → exec w s = .next (finishNone s i o c (.e p))) ∧
      (NoAcquire s i → atLanes i o c (.e p) ≠ [] → 32 ≤ (getCore s i.T.core).copyQ.length →
        exec w s = .next (setWaitKind s i .queue))) ∧
    (CopyTurn s i .publ c p l x → ∀ t v, namedView true s i p = .ok (t, v) →
      let y := (getView s v).getD {}
      exec (.publ c p) s = .next (if y.count = 0 ∧ y.dirty = false then finishNone s i .publ c (.e p)
        else (acceptCopy t i .publ c p { request i c p .publ {} with view := some v }).1)) ∧
    (CopyTurn s i .cpycan c p l x → ∀ t v, namedView false s i p = .ok (t, v) →
      (¬CancelLate s v →
        exec (.cpycan c p) s = .next (acceptCopy (cancelView s v) i .cpycan c p { request i c p .cancel {} with phase := .landed }).1) ∧
      (CancelLate s v → exec (.cpycan c p) s = .next s)) ∧
    (∀ w o k, ((w, o, k) = (Instr.cpyrGet c p, Op.cpyrGet, CopyKind.get) ∨ (w, o, k) = (.cpyrPut c p, .cpyrPut, .put)) →
      CopyTurn s i o c p l x → ∀ e, readEntry s i.T p.ridx.toNat = .ok e →
      let tgt := p.imm32.toNat / 2 ^ 27
      let n := p.imm32.toNat % 2 ^ 27
      (w64 x.l % 16 = 0 → n % 16 = 0 → tgt < 12 → (getTenant s i.T.vf).cfg.ports.contains tgt = false →
        TrapsIn w s i l .xlatePerm .engine (w64 x.r)) ∧
      (w64 x.l % 16 = 0 → n % 16 = 0 → (tgt < 12 → (getTenant s i.T.vf).cfg.ports.contains tgt = true) →
        e.kind = .buffer → e.sp = false →
        Accepted w s i o c p l { request i c p k e with ofs := w64 x.l, remote := w64 x.r, target := tgt, count := n })) ∧
    (CopyTurn s i .cred c p l x → ∀ e, readEntry s i.T p.ridx.toNat = .ok e → w64 x.l % 16 = 0 → e.kind = .buffer → e.sp = false →
      let g := p.imm32.toNat / 2 ^ 24
      let r := { request i c p .cred e with
        ofs := w64 x.l, remote := g, count := p.imm32.toNat % 2 ^ 24 + 1, lg := p.aux8.getLsbD 0 }
      let installed := (getTenant s i.T.vf).cfg.groups.any (fun y => y.1 == g)
      let accepted := fun (a : State × CopyReq) =>
        (installed = true → exec (.cred c p) s = .next a.1) ∧
        (installed = false → ¬BytesLate s r → exec (.cred c p) s = .next (failCopy a.1 i.T.core a.2 .resourceKind 0 false)) ∧
        (installed = false → BytesLate s r → exec (.cred c p) s = .next s)
      let inView := w64 x.l + r.count * (if p.aux8.getLsbD 0 then 8 else 16) ≤ e.size
      let view := entryView true s i.T.vf i.t i.T p.ridx.toNat e
      (p.mode.getLsbD 3 = false → accepted (acceptCopy s i .cred c p r)) ∧
      (p.mode.getLsbD 3 = true →
        (∀ t v, inView → view = some (t, v) → accepted (acceptCopy t i .cred c p { r with view := some v })) ∧
        (¬inView ∨ view = none → TrapsIn (.cred c p) s i l .resourceKind .engine p.ridx.toNat))) ∧
    (Turn s i .tokq c (.e p) →
      exec (.tokq c p) s = .next (finish s i .tokq c (.e p)
        (overLanes i (fun n => (opndsAt i .tokq c (.e p) n).map (fun _ =>
          let k := getTok i.w (p.aux8.toNat % 8)
          let now := diePtc s (dieOf i.T.core)
          if k.copy = true then
            BitVec.ofNat 128 (k.promise % 2 ^ 64 + 2 ^ 64 * tokCode k.state +
              2 ^ 67 * (if k.state = .failed then (match k.code with | some z => trapNum z | none => 0) else 0))
          else if tokBusy now k = true then BitVec.ofNat 128 (2 ^ 64) else 0))) (slotCycles i.u) 0))

/-- R186: CPYCAN cancels every request into the view that has not been published and has not completed: it leaves its queue, its
token is Cancelled, and those of saved teams end so too, a complete CRED's auto-publish that is still due among them; the view keeps its visible half, is no longer dirty and owes no bytes; no
byte of memory or of a scratchpad changes. -/
def Sys2Proof.Claims.CancelledCopies : Prop :=
  ∀ s v x, tabWf {} s.cores = true → tabWf {} s.tenants = true → getView s v = some x →
    (∀ vf b, v = .global vf b → ∀ g ∈ (getTenant s vf).gviews, ∀ h ∈ (getTenant s vf).gviews, g.base = h.base → g = h) →
    let t := cancelView s v
    let y := (getView t v).getD {}
    y.bit = x.bit ∧ y.dirty = false ∧ y.unpub = [] ∧ y.deferred = false ∧ t.mem = s.mem ∧
    (∀ k, (getCore t k).scratch = (getCore s k).scratch) ∧
    (∀ z ∈ t.creds, z.copy.view = some v → z.outcome ≠ none) ∧
    (∀ z ∈ s.creds, z.copy.view = some v →
      (z.outcome = none ∨ (z.outcome = some .complete ∧ z.copy.ap = true ∧ z.copy.phase ≠ .published)) →
      { z with outcome := some .cancelled } ∈ t.creds) ∧
    ∀ core id r, findCopy s core id = some r → r.view = some v → r.kind ≠ .publ →
      (r.phase = .published ∨ copyFinished s core r = true → (∀ q ∈ (getCore s core).copyQ, q.id = id → q = r) →
        findCopy t core id = some r) ∧
      (r.phase ≠ .published → copyFinished s core r = false →
        findCopy t core id = none ∧
        ∀ b w, r.sb = some b → getUnit s r.team r.unit = some w → (getTok w b).req = id → tokBusy 0 (getTok w b) = true →
          tabWf {} w.toks = true → ∃ w', getUnit t r.team r.unit = some w' ∧ (getTok w' b).state = .cancelled)

/-- R189 to R192: tile, block and row copies between a resource and the window are accepted with the operands of their
leader lane where the resource has the kind, and the offsets the alignment and range, that the rules ask; a misaligned
window offset traps ALIGN, and a shadowed request whose destination no view holds RESOURCE_KIND. That the rows of an
SP = 1 resource are checked by the list as it stands at issue is the choice of log 41. R178, R179, R193 to R197, R208:
accumulator copies, which a team that does not hold the engine may not issue, PUBL, CPYCAN, the scale-out copies, CRED
and TOKQ; a copy word waits for an acquire and for room in the queue, and does nothing without a leader; where it
takes bytes from a barrier after an arrival of the cycle it waits for the next (R266). That the ENGINE_ROLE of a
CPYACC comes before its other checks, and that a CRED of a group that is not installed fails, are the inferences of
log 39. R186: CPYCAN cancels every request into the view that has not been published and has not completed: it leaves
its queue, its token is Cancelled, and those of saved teams end so too, a complete CRED's auto-publish that is still
due among them; the view keeps its visible half, is no longer dirty and owes no bytes; no byte of memory or of a
scratchpad changes.
The promise that TOKQ reads after a PUBL of a clean view is the choice of log 47. The failure of a CRED of a group that is
not installed, and the order of the checks of CPYACC, are the inferences of log 39. -/
def Obligations.CopyWords : Prop :=
  Sys2Proof.Claims.TileBlockAndRowCopies ∧ Sys2Proof.Claims.OtherCopyWords ∧ Sys2Proof.Claims.CancelledCopies

/-- R178 to R181: an accepted request takes an entry at the tail of the core's copy queue, the token of its SBSET is
Pending with the promise, the view of a shadowed one counts it, and the word sends no result. The promise is the die's time plus a free
length of time (log 3). -/
def Obligations.CopyAcceptance : Prop :=
  ∀ s i o c p r, issCtx s = some i → tabWf {} s.cores = true →
    let t := (acceptCopy s i o c p r).1
    let q := (acceptCopy s i o c p r).2
    q = { r with id := s.nextId, issued := s.ptc, promise := diePtc s (dieOf i.T.core) + Config.freeTime s.free } ∧
    (getCore t i.T.core).copyQ = (getCore s i.T.core).copyQ ++ [q] ∧
    (∀ d, d ≠ i.T.core → getCore t d = getCore s d) ∧
    t.mem = s.mem ∧ t.reqs = s.reqs ∧ t.loads = s.loads ∧ (∀ d, (getDie t d).copies = (getDie s d).copies) ∧
    (∀ v x, r.sh = true → r.view = some v → getView s v = some x → getView t v = some { x with count := x.count + 1 }) ∧
    (r.sh = false → ∀ v, getView t v = getView s v) ∧
    (∃ w f, getUnit t i.t i.u = some w ∧ w.flight = some f ∧ f.idx = i.f.idx + 1 ∧ f.toks = i.f.toks ∧ f.results = i.f.results ∧
      f.copies = i.f.copies ++ [q.id] ∧ w.v = i.w.v ∧ w.k = i.w.k ∧ w.q = i.w.q) ∧
    (r.team = i.t → r.unit = i.u → ∀ b, r.sb = some b → ∀ w, getUnit t i.t i.u = some w → tabWf {} i.w.toks = true →
      getTok w b = { state := .pending, copy := true, promise := q.promise, req := q.id })

/-! ## Matrix words (chapter 8) -/

namespace Sys2Proof.Claims

/-- A queued matrix word at its turn, with room in the queue, for leader lane `l` with operands `x` (R214). -/
def MatTurn (s : State) (i : Iss) (o : Op) (c : Ctl) (p : FmtE) (l : Nat) (x : Opnds) : Prop :=
  Turn s i o c (.e p) ∧ (getMat s i.T.core).queue.length < 4 ∧ ∃ rest, atLanes i o c (.e p) = (l, x) :: rest

/-- The engine's tables after `f`, and the operation queued. -/
def Queues (w : Instr) (s : State) (i : Iss) (o : Op) (c : Ctl) (p : FmtE) (f : Matrix → Matrix) (m : MatOp) : Prop :=
  exec w s = .next (enqueueMat (updMat s i.T.core f) i o c p m)

/-- The row, tile and extent fields of IMM32 and AUX8 (R217 to R224). -/
def rowField (p : FmtE) : Nat := (p.imm32.extractLsb' 0 9).toNat
def countField (p : FmtE) : Nat := (p.imm32.extractLsb' 16 9).toNat + 1
def extent (p : FmtE) (bit : Nat) : Nat := 16 * ((p.imm32.extractLsb' bit 3).toNat + 1)
def loOf (p : FmtE) (x : Opnds) : Nat := if p.mode.getLsbD 1 then w32 x.l else 0

/-- No open chain reaches rows `row` to `row + n` − 1 (R209). -/
def NoChainAt (m : Matrix) (row n : Nat) : Prop := ∀ k ∈ m.chains, row + n ≤ k.base ∨ k.base + 4 * k.m ≤ row

end Sys2Proof.Claims

/-- R209, R214, R218, R221: CHB opens a chain and CHE closes its owner's chain at issue, and both are queued with ACCZ; a CHB
with a format that is not f32 or s32, a base out of place, or a fifth chain traps. A queued word whose leader operand is null does
nothing, and one that finds the queue full waits (R214). -/
def Sys2Proof.Claims.ChainWords : Prop :=
  ∀ (c : Ctl) (p : FmtE) s i l x,
    let slot := issSlot i p.fs.toNat
    let base := rowField p
    let mat := getMat s i.T.core
    (∀ w o, (w, o) ∈ [(Instr.chb c p, Op.chb), (.che c p, .che), (.mma c p, .mma), (.wbld c p, .wbld), (.wbldT c p, .wbldT),
        (.accz c p, .accz), (.drain c p, .drain)] → Turn s i o c (.e p) →
      (atLanes i o c (.e p) = [] → exec w s = .next (finishNone s i o c (.e p))) ∧
      (atLanes i o c (.e p) ≠ [] → 4 ≤ mat.queue.length → exec w s = .next (setWaitKind s i .queue))) ∧
    (MatTurn s i .chb c p l x →
      let m := extent p 9
      let n := extent p 12
      (slot.efmt ≠ .f32 → slot.efmt ≠ .s32 → TrapsIn (.chb c p) s i l .resourceKind .engine p.ridx.toNat) ∧
      ((slot.efmt = .f32 ∨ slot.efmt = .s32) →
        (¬(base % (4 * m) = 0 ∧ base + 4 * m ≤ 512) → TrapsIn (.chb c p) s i l .accRange .engine base) ∧
        (base % (4 * m) = 0 → base + 4 * m ≤ 512 →
          (¬(mat.chains.length < 4 ∧ NoChainAt mat base (4 * m)) → TrapsIn (.chb c p) s i l .chainOrder .engine base) ∧
          (mat.chains.length < 4 → NoChainAt mat base (4 * m) →
            Queues (.chb c p) s i .chb c p
              (fun y => { y with chains := y.chains ++ [{ base := base, m := m, n := n, slot := p.fs.toNat, owner := i.u }] })
              { id := 0, team := 0, unit := 0, kind := .chb (p.mode.getLsbD 0), sb := none, slot := slot, row := base
                rows := 4 * m, m := m, n := n })))) ∧
    (MatTurn s i .che c p l x →
      (ownChain s i base = none → TrapsIn (.che c p) s i l .chainOrder .engine base) ∧
      (∀ k, ownChain s i base = some k →
        Queues (.che c p) s i .che c p (fun y => { y with chains := y.chains.filter (fun z => z.base != k.base) })
          { id := 0, team := 0, unit := 0, kind := .che, sb := none, slot := issSlot i k.slot, row := k.base
            rows := 4 * k.m, m := k.m, n := k.n })) ∧
    (MatTurn s i .accz c p l x →
      let n := countField p
      (512 < base + n → TrapsIn (.accz c p) s i l .accRange .engine base) ∧
      (base + n ≤ 512 → NoChainAt mat base n →
        exec (.accz c p) s = .next (enqueueMat s i .accz c p
          { id := 0, team := 0, unit := 0, kind := .accz, sb := none, slot := {}, row := base, rows := n })))

/-- R205, R217, R219, R220, R224: MMA, WBLD, WBLD.t and DRAIN are queued with the shape, tile and chain they name where
every check of R217 passes; an MMA without its owner's open chain traps CHAIN_ORDER, and a tile or shape of the wrong kind
RESOURCE_KIND.
The order of the checks where several fail is the inference of log 39; the pieces kept from the issue serve the choice of
log 10. -/
def Obligations.MatrixMultiplyAndTiles : Prop :=
  ∀ (c : Ctl) (p : FmtE) s i l x,
    let idx := p.ridx.toNat
    let slot := issSlot i p.fs.toNat
    let lo := loOf p x
    let es := elemSize slot.efmt
    let tile := p.aux8.toNat % 16
    (MatTurn s i .mma c p l x → ∀ e, shapeRes s i idx = .ok e →
      let t := tabGet {} (getMat s i.T.core).tiles tile
      (¬(elemFmt slot.efmt = true ∧ t.issued = true ∧ t.efmt = slot.efmt) → TrapsIn (.mma c p) s i l .resourceKind .engine idx) ∧
      (elemFmt slot.efmt = true → t.issued = true → t.efmt = slot.efmt →
        (ownChain s i (rowField p) = none → TrapsIn (.mma c p) s i l .chainOrder .engine (rowField p)) ∧
        (∀ k, ownChain s i (rowField p) = some k → t.n = k.n → k.mmas < 65536 → shapeFaults i.T e lo es k.m t.k = [] →
          Queues (.mma c p) s i .mma c p
            (fun y => { y with chains := y.chains.map (fun z => if z.base = k.base then { z with mmas := z.mmas + 1 } else z) })
            { id := 0, team := 0, unit := 0, sb := none
              kind := .mma (p.mode.getLsbD 4) (p.mode.getLsbD 3) (p.mode.getLsbD 2) tile
              slot := slot, shape := e, lo := lo, row := k.base, rows := 4 * k.m, m := k.m, n := k.n, k := t.k
              ub := t.ub, units := t.units, w := (issSlot i k.slot).wexp, bsexp := t.sexp
              old := shapePieces s i.T e lo slot.efmt k.m t.k }))) ∧
    (∀ w o tr, ((w, o, tr) = (Instr.wbld c p, Op.wbld, false) ∨ (w, o, tr) = (.wbldT c p, .wbldT, true)) →
      MatTurn s i o c p l x → ∀ e, shapeRes s i idx = .ok e → elemFmt slot.efmt = true →
      let ub := (p.imm32.extractLsb' 0 12).toNat
      let k := extent p 12
      let n := extent p 15
      let u := (k * n * es + k * n / 8 + 63) / 64
      let rows := if tr then n else k
      let cols := if tr then k else n
      (4096 < ub + u → TrapsIn w s i l .accRange .engine ub) ∧
      (ub + u ≤ 4096 → shapeFaults i.T e lo es rows cols = [] →
        Queues w s i o c p
          (fun y =>
            let z : Tile := { ub := ub, units := u, k := k, n := n, efmt := slot.efmt, sexp := slot.sexp, issued := true }
            { y with tiles := tilesLoaded y.tiles tile z })
          { id := 0, team := 0, unit := 0, kind := .wbld tr tile, sb := none, slot := slot, shape := e, lo := lo
            n := n, k := k, ub := ub, units := u, old := shapePieces s i.T e lo slot.efmt rows cols })) ∧
    (MatTurn s i .drain c p l x → ∀ e, shapeRes s i idx = .ok e → drainFmt slot.efmt = true →
      let res := p.mode.getLsbD 4
      ∀ e2, (res = true → shapeRes s i (p.imm32.toNat / 2 ^ 16) = .ok e2) → (res = false → e2 = {}) →
      let org := p.mode.getLsbD 2
      let dlo := if p.mode.getLsbD 1 then (if org then w32 x.r else w32 x.l) else 0
      let m := extent p 9
      let n := extent p 12
      rowField p + m ≤ 512 → NoChainAt (getMat s i.T.core) (rowField p) m → shapeFaults i.T e dlo es m n = [] →
      (res = true → shapeFaults i.T e2 dlo es m n = []) →
      exec (.drain c p) s = .next (enqueueMat s i .drain c p
        { id := 0, team := 0, unit := 0, kind := .drain res (p.mode.getLsbD 3) (p.aux8.getLsbD 0), sb := none
          slot := slot, shape := e, shape2 := e2, lo := dlo, row := rowField p, rows := m, m := m, n := n
          org := if org then w64 x.l else 0, old := if res then shapePieces s i.T e2 dlo slot.efmt m n else [] }))

/-- R215 to R217, R222, R223: the accumulator reads and writes stay at their turn while queued instructions or copies touch their
rows, and take four slots; with no leader operand they give nulls at once; ACCRD and ACCWR move a row of words at rest, ACCWRD and ACCWWR a row of an open chain's wide elements with their marks. -/
def Sys2Proof.Claims.AccumulatorWords : Prop :=
  ∀ (c : Ctl) (p : FmtE) s i l x,
    let mat := getMat s i.T.core
    let lead := fun (o : Op) => ∃ rest, atLanes i o c (.e p) = (l, x) :: rest
    let row := rowField p + loOf p x
    let j := (p.imm32.extractLsb' 16 7).toNat + loOf p x
    let wideRow := rowField p + 4 * j
    let written := fun (o : Op) (t : State) =>
      sbTimed (advance t i o c (.e p) 0) i c (diePtc t (dieOf i.T.core) + slotCycles i.u * 4)
    (∀ w o, ((w, o) = (Instr.accrd c p, Op.accrd) ∨ (w, o) = (.accwr c p, .accwr)) → Turn s i o c (.e p) → lead o →
      (511 < row → TrapsIn w s i l .accRange .engine row) ∧
      (row ≤ 511 → ¬NoChainAt mat row 1 → TrapsIn w s i l .chainOrder .engine row) ∧
      (row ≤ 511 → NoChainAt mat row 1 → rowsFree (getCore s i.T.core) row 1 = false → exec w s = .next s)) ∧
    (∀ w o, (w, o) ∈ [(Instr.accrd c p, Op.accrd), (.accwr c p, .accwr), (.accwrd c p, .accwrd), (.accwwr c p, .accwwr)] →
      Turn s i o c (.e p) → atLanes i o c (.e p) = [] →
      exec w s = .next (finish s i o c (.e p) (overLanes i (fun _ => none)) 0 0)) ∧
    (Turn s i .accrd c (.e p) → lead .accrd → row ≤ 511 → NoChainAt mat row 1 → rowsFree (getCore s i.T.core) row 1 = true →
      exec (.accrd c p) s = .next (finish s i .accrd c (.e p) (overLanes i (fun n =>
        (opndsAt i .accrd c (.e p) n).map (fun _ => (tabGet 0 mat.acc (128 * row + n)).setWidth 128))) (slotCycles i.u * 4) 0)) ∧
    (Turn s i .accwr c (.e p) → lead .accwr → row ≤ 511 → NoChainAt mat row 1 → rowsFree (getCore s i.T.core) row 1 = true →
      exec (.accwr c p) s = .next (written .accwr (updMat s i.T.core (fun m => { m with
        acc := (atLanes i .accwr c (.e p)).foldl (fun t y => tabSet 0 t (128 * row + y.1) (y.2.r.setWidth 32)) m.acc })))) ∧
    (∀ w o, ((w, o) = (Instr.accwrd c p, Op.accwrd) ∨ (w, o) = (.accwwr c p, .accwwr)) → Turn s i o c (.e p) → lead o →
      (ownChain s i (rowField p) = none → TrapsIn w s i l .chainOrder .engine (rowField p)) ∧
      (∀ k, ownChain s i (rowField p) = some k → k.m ≤ j → TrapsIn w s i l .accRange .engine j) ∧
      (∀ k, ownChain s i (rowField p) = some k → j < k.m → rowsFree (getCore s i.T.core) (rowField p) (4 * k.m) = false →
        exec w s = .next s)) ∧
    (∀ k, ownChain s i (rowField p) = some k → j < k.m → rowsFree (getCore s i.T.core) (rowField p) (4 * k.m) = true →
      (Turn s i .accwrd c (.e p) → lead .accwrd →
        exec (.accwrd c p) s = .next (finish s i .accwrd c (.e p) (overLanes i (fun n =>
          (opndsAt i .accwrd c (.e p) n).map (fun _ =>
            if k.n ≤ n then 0 else if tabGet false mat.marks (markKey wideRow n) = true then BitVec.ofNat 128 (2 ^ 127)
            else BitVec.ofNat 128 (wideGet mat wideRow n)))) (slotCycles i.u * 4) 0)) ∧
      (Turn s i .accwwr c (.e p) → lead .accwwr →
        exec (.accwwr c p) s = .next (written .accwwr (updMat s i.T.core (fun m =>
          (atLanes i .accwwr c (.e p)).foldl (fun m y =>
            if k.n ≤ y.1 then m
            else if y.2.r.toNat = 2 ^ 127 then setMark m wideRow y.1 true
            else setMark (wideSet m wideRow y.1 y.2.r.toNat) wideRow y.1 false) m)))))

/-- R209, R214, R218, R221: CHB opens a chain and CHE closes its owner's chain at issue, and both are queued with
ACCZ; a CHB with a format that is not f32 or s32, a base out of place, or a fifth chain traps. A queued word whose
leader operand is null does nothing, and one that finds the queue full waits (R214). R215 to R217, R222, R223: the
accumulator reads and writes stay at their turn while queued instructions or copies touch their rows, and take four
slots; with no leader operand they give nulls at once; ACCRD and ACCWR move a row of words at rest, ACCWRD and ACCWWR
a row of an open chain's wide elements with their marks.
The order of the checks where several fail is the inference of log 39. -/
def Obligations.ChainAndAccumulatorWords : Prop :=
  Sys2Proof.Claims.ChainWords ∧ Sys2Proof.Claims.AccumulatorWords

/-- R210, R211: the value and the mark of every wide element after a list of products do not depend on their order. A
product is a row (a multiple of 4), a column and a term or MARK. -/
def Obligations.ChainSumsAreOrderFree : Prop :=
  ∀ (m : Matrix) (l l' : List (Nat × Nat × Option Int)), tabWf 0 m.acc = true → tabWf false m.marks = true → l.Perm l' →
    (∀ y ∈ l, y.1 % 4 = 0 ∧ y.2.1 < 128) →
    let sum := fun (l : List (Nat × Nat × Option Int)) => l.foldl (fun m y => wideAdd m y.1 y.2.1 y.2.2) m
    ∀ row col, row % 4 = 0 → col < 128 →
      wideGet (sum l) row col = wideGet (sum l') row col ∧
      tabGet false (sum l).marks (markKey row col) = tabGet false (sum l').marks (markKey row col)

/-! ## Grid and stream words (chapter 9) -/

namespace Sys2Proof.Claims

/-- The turn of a word of chapter 9 in which lane 0 fires with operands `x`, in a team that has page `p0` (R228, R257). -/
def GridTurn (s : State) (i : Iss) (o : Op) (c : Ctl) (p : FmtE) (p0 : Nat) (x : Opnds) : Prop :=
  Turn s i o c (.e p) ∧ p0 < i.T.pages.length ∧ ∃ l rest, atLanes i o c (.e p) = (l, x) :: rest

/-- The words of chapter 9 that give no result and check only the team's pages. -/
def plainGrid (c : Ctl) (p : FmtE) : List (Instr × Op) :=
  [(.grun c p, .grun), (.gstop c p, .gstop), (.gwait c p, .gwait), (.gframe c p, .gframe), (.lctx c p, .lctx),
   (.strma c p, .strma), (.strmb c p, .strmb), (.strmc c p, .strmc)]

/-- A configuration command (R255): at once on an active generation, after what `before` does, kept while its generation is staged, and without
effect on any other. -/
def Commands (w : Instr) (s : State) (i : Iss) (o : Op) (c : Ctl) (p : FmtE) (k : GridCmdKind) (before : State → State)
    (f : Grid → Grid) : Prop :=
  let g := getGrid s i.T.core
  (g.gen ≠ 0 → g.active.map GridImage.gen = some g.gen →
    exec w s = .next (updGrid (before (finishNone s i o c (.e p))) i.T.core f)) ∧
  (g.gen ≠ 0 → g.active.map GridImage.gen ≠ some g.gen →
    (g.staging.map Staging.gen = some g.gen ∨ g.staged.map GridImage.gen = some g.gen) →
    let r := issueGrid s i o c p
    exec w s = .next (updGrid r.1 i.T.core (fun y =>
      let z : GridCmd := { id := r.2, gen := g.gen, kind := k, sb := sbOf c }
      { y with cmds := y.cmds ++ [z] }))) ∧
  (g.active.map GridImage.gen ≠ some g.gen → g.staging.map Staging.gen ≠ some g.gen →
    g.staged.map GridImage.gen ≠ some g.gen → exec w s = .next (finishNone s i o c (.e p)))

/-- A stream command joins the queue of its engine, or waits at its turn while the queue is full (R246). -/
def Streams (w : Instr) (s : State) (i : Iss) (o : Op) (c : Ctl) (p : FmtE) (k : StreamCmdKind) (n : Nat) : Prop :=
  let g := getGrid s i.T.core
  let e := p.aux8.toNat % 8
  (16 ≤ (getEng g e).cmds.length → exec w s = .next (setWaitKind s i .queue)) ∧
  ((getEng g e).cmds.length < 16 →
    let r := issueGrid s i o c p
    exec w s = .next (updEng r.1 i.T.core e (fun y =>
      let z : StreamCmd := { id := r.2, gen := g.gen, kind := k, sb := sbOf c, left := n }
      { y with cmds := y.cmds ++ [z] })))

end Sys2Proof.Claims

/-- R254, R255, R258 to R262: GCFG stages its image under the next generation or waits while one is staged; GRUN,
GFRAME and LCTX go to the current generation, GFRAME after the grid's part of the cycle at hand, whose cinch wires still test the old
budget; GSTOP acts at once; GWAIT goes on or waits; GQRY answers. -/
def Sys2Proof.Claims.GridWords : Prop :=
  ∀ (c : Ctl) (p : FmtE) s i x,
    let g := getGrid s i.T.core
    (∀ e, GridTurn s i .gcfg c p (p.aux8.toNat % 4) x → readEntry s i.T p.ridx.toNat = .ok e → e.kind = .gridimg →
      (g.staging ≠ none ∨ g.staged ≠ none → exec (.gcfg c p) s = .next (setWaitKind s i .queue)) ∧
      (g.staging = none → g.staged = none →
        let n := if g.gen = 65535 then 1 else g.gen + 1
        let r := issueGrid s i .gcfg c p
        exec (.gcfg c p) s = .next (updGrid r.1 i.T.core (fun y =>
          let z : Staging := { gen := n, res := e, p0 := p.aux8.toNat % 4, slot := issSlot i p.fs.toNat, id := r.2, sb := sbOf c }
          { y with gen := n, staging := some z, past := y.past.filter (fun k => k != n) })))) ∧
    (GridTurn s i .grun c p 0 x → Commands (.grun c p) s i .grun c p .run id applyRun) ∧
    (GridTurn s i .gframe c p 0 x →
      let n := p.imm32.toNat % 2 ^ 16
      Commands (.gframe c p) s i .gframe c p (.frame (p.mode.getLsbD 0) (p.mode.getLsbD 1) n)
        (fun t => gridCycle t i.T.core) (fun y =>
        let b := if p.mode.getLsbD 1 then none
          else if p.mode.getLsbD 0 then y.budget.map (fun b => min 65535 (b + n)) else some n
        { y with budget := b })) ∧
    (GridTurn s i .lctx c p 0 x →
      let key := 4 * (p.aux8.extractLsb' 0 2).toNat + (p.aux8.extractLsb' 2 2).toNat
      let n := if p.mode.getLsbD 1 then w32 x.l else p.imm32.toNat
      Commands (.lctx c p) s i .lctx c p (.lctx (p.mode.getLsbD 0) key n) id (fun y => applyLctx y (p.mode.getLsbD 0) key n)) ∧
    (GridTurn s i .gstop c p 0 x →
      let s1 := if p.mode.getLsbD 1 then discardStaged s i.T.core else s
      ((getGrid s1 i.T.core).active = none → exec (.gstop c p) s = .next (finishNone s1 i .gstop c (.e p))) ∧
      (∀ a, (getGrid s1 i.T.core).active = some a →
        let r := issueGrid s1 i .gstop c p
        exec (.gstop c p) s = .next (updGrid r.1 i.T.core (fun y =>
          let z := if y.active.isNone || y.stopped then y
            else if p.mode.getLsbD 0 && gridRuns y && (activeRegs y).any (fun d => d.frame != 0) then { y with stopFrame := true }
            else { y with stopping := true }
          { z with stops := y.stops ++ [(a.gen, r.2, sbOf c)] })))) ∧
    (GridTurn s i .gwait c p 0 x →
      exec (.gwait c p) s = .next (if gwaitHolds s.ptc g (p.aux8.toNat % 4) g.gen then finishNone s i .gwait c (.e p)
        else updFlight (issueSlot s i .gwait c (.e p)) i.t i.u (fun f => { f with wait := some (.grid (p.aux8.toNat % 4) g.gen), waitKind := .gwait }))) ∧
    (GridTurn s i .gqry c p 0 x →
      exec (.gqry c p) s = .next (finish s i .gqry c (.e p) (toFiring (fun _ _ _ _ => gqryVal s.ptc g (p.aux8.toNat % 16)) i .gqry c (.e p))
        (slotCycles i.u) 0))

/-- R238 to R240, R242, R243, R262: a region begins its next interval as the pseudocode gives; LCTX sets the remaining count of
a region's context, or adds to it up to 2^32 − 1, and a completed region with iterations left starts again; every other context, and
every context where no region uses the named one, is unaffected; the lane-wise integer operations, and the sources that need no neighbour. -/
def Sys2Proof.Claims.RegionIntervals : Prop :=
  ((∀ (d : RegDesc) (c : LoopCtx),
     let nb := if 0 < c.remaining then 1 else 0
     let b := beginRegion d c
     b.remaining = c.remaining - nb ∧ b.iter = c.iter + BitVec.ofNat 32 nb ∧ b.slot = 0 ∧
     b.valid = ((c.valid <<< 1) ||| BitVec.ofNat 16 nb) &&& BitVec.ofNat 16 (2 ^ (d.stg + 1) - 1) ∧
     b.completed = decide (b.valid = 0) ∧ b.running = !b.completed ∧ b.hold = c.hold ∧ b.fc = c.fc ∧ b.freezing = false) ∧
   (∀ (g : Grid) (add : Bool) (key n : Nat), tabWf {} g.ctxs = true →
     ((∀ a, g.active = some a → ∀ d ∈ a.regions, 4 * d.page + d.ctx ≠ key) → applyLctx g add key n = g) ∧
     (∀ a pre d post, g.active = some a → a.regions = pre ++ d :: post → 4 * d.page + d.ctx = key →
       (∀ e ∈ pre, 4 * e.page + e.ctx ≠ key) →
       let c := tabGet {} g.ctxs key
       let left := if add then min (2 ^ 32 - 1) (c.remaining + n) else n
       let h := applyLctx g add key n
       (c.completed = true ∧ left ≠ 0 ∧ g.stopped = false →
         tabGet {} h.ctxs key = beginRegion d { c with remaining := left, fc := 0 }) ∧
       (¬(c.completed = true ∧ left ≠ 0 ∧ g.stopped = false) → tabGet {} h.ctxs key = { c with remaining := left } ∧
         h.tiles = g.tiles) ∧
       ∀ k, k ≠ key → tabGet {} h.ctxs k = tabGet {} g.ctxs k))) ∧
  (∀ (k : FmtSlot) (n : BitVec 32) (a b d : Word),
     let f := fun op sub => gLane k ⟨op, 0, 0, sub, 0, 0, 0⟩ n a b d
     (∀ ty ∈ [1, 2], f 1 ty = a + b ∧ f 2 ty = a - b ∧ f 3 ty = a * b ∧ f 4 ty = a * b + d) ∧
     (f 5 1).toInt = max a.toInt b.toInt ∧ (f 5 5).toInt = min a.toInt b.toInt ∧
     (f 5 2).toNat = max a.toNat b.toNat ∧ (f 5 6).toNat = min a.toNat b.toNat ∧
     f 6 0 = a &&& b ∧ f 6 1 = a ||| b ∧ f 6 2 = a ^^^ b ∧ f 6 6 = a &&& ~~~b ∧
     f 6 3 = a <<< (b.toNat % 32) ∧ f 6 4 = a >>> (b.toNat % 32) ∧ f 6 5 = a.sshiftRight (b.toNat % 32) ∧
     f 7 0 = (if d ≠ 0 then a else b) ∧ f 10 0 = a + b * n ∧ f 15 0 = a ∧
     (∀ now g i t, srcVal now g i t 28 = [0, 0, 0, 0] ∧ srcVal now g i t 29 = [0, 1, 2, 3]))

/-- R240, R241: the floating-point operations of the grid round once by RNE and flush as the slot says; GMAX treats NaNs and signed
zeros as R131; GCVT saturates to s32 and converts from and to LG bytes; GLGM gives the product word of the bytes it names; GACC adds
exactly into one accumulator a lane, or the four lanes into one, and keeps the NaR sum; GRDO reads a half of an accumulator or its
rounded value. -/
def Sys2Proof.Claims.GridValues : Prop :=
  ∀ (k : FmtSlot),
    let v := fun (x : Word) => fIn fmt32 k.flush x.toNat
    let rne := fun (x : FV) => BitVec.ofNat 32 (fRound fmt32 .rne k.flush x).1
    let ofInt := fun (z e : Int) => rne (.fin (z < 0) z.natAbs e)
    let isNan := fun (x : FV) => match x with | .nan _ => true | _ => false
    let byte := fun (x : Word) (j : Nat) => x.toNat / 256 ^ j % 256
    (∀ (n : BitVec 32) (a b d : Word),
      let f := fun op sub => gLane k ⟨op, 0, 0, sub, 0, 0, 0⟩ n a b d
      let best := fun (big : Bool) =>
        if isNan (v a) = true then v b else if isNan (v b) = true then v a
        else if fvLt (v a) (v b) = true then (if big then v b else v a)
        else if fvLt (v b) (v a) = true then (if big then v a else v b)
        else (if fvSign (v a) = big then v b else v a)
      let ofLg := fun (q : Nat) => match lgDecode q (byte a 0) with
        | .nar => BitVec.ofNat 32 nan32
        | .zero => 0
        | .val s c => ofInt (lgterm s c q) (k.sexp - 23)
      let product := fun (q j : Nat) => BitVec.ofNat 32 ((if q = 8 then 2 ^ 28 else 0) +
        match lgDecode q (byte a j), lgDecode q (byte b j) with
        | .nar, _ => 2 ^ 29
        | _, .nar => 2 ^ 29
        | .zero, _ => 2 ^ 30
        | _, .zero => 2 ^ 30
        | .val s x, .val t y => (if s ≠ t then 2 ^ 31 else 0) + ((x + y) % 2 ^ 16).toNat)
      f 1 0 = rne (fvAdd false (v a) (v b)).1 ∧ f 2 0 = rne (fvAdd false (v a) (fvNeg (v b))).1 ∧
      f 3 0 = rne (fvMul (v a) (v b)).1 ∧ f 4 0 = rne (fvAdd false (fvMul (v a) (v b)).1 (v d)).1 ∧
      f 5 0 = BitVec.ofNat 32 (fRound fmt32 .rne false (best true)).1 ∧ f 5 4 = BitVec.ofNat 32 (fRound fmt32 .rne false (best false)).1 ∧
      f 8 0 = (match v a with
        | .nan _ => 0
        | .inf s => if s then BitVec.ofInt 32 (-(2 ^ 31)) else BitVec.ofInt 32 (2 ^ 31 - 1)
        | .fin s m e =>
          let z : Int := (if s then -1 else 1) * (rndShift .rne s m (-e)).1
          BitVec.ofInt 32 (max (-(2 ^ 31)) (min (2 ^ 31 - 1) z))) ∧
      f 8 1 = ofInt a.toInt 0 ∧ f 8 2 = BitVec.ofNat 32 (lgenc (v a) 4 k.sexp).1 ∧ f 8 3 = BitVec.ofNat 32 (lgenc (v a) 8 k.sexp).1 ∧
      f 8 4 = ofLg 4 ∧ f 8 5 = ofLg 8 ∧ (∀ j < 4, f 9 j = product 4 j ∧ f 9 (4 + j) = product 8 j)) ∧
    (∀ (x : Group) (w : List Word64), x.length = 4 → w.length = 4 →
      let term := fun (kind : Nat) (y : Word) =>
        if kind = 0 then some y.toInt
        else if kind = 1 then (match lgUnword y.toNat with | .nar => none | .zero => some 0 | .val s c q => some (lgterm s c q))
        else match v y with
          | .fin s m e => if m = 0 then some 0
            else if (2 : ℚ) ^ (k.wexp + 62) ≤ (m : ℚ) * (2 : ℚ) ^ e then none
            else some ((if s then -1 else 1) * (rndShift .rne s m (k.wexp - e)).1)
          | _ => none
      let add := fun (acc : Word64) (l : List (Option Int)) =>
        let z := acc.toInt + (l.map (fun t => t.getD 0)).sum
        if acc.toNat = 2 ^ 63 ∨ none ∈ l ∨ z < -(2 ^ 63 - 1) ∨ 2 ^ 63 - 1 < z then BitVec.ofNat 64 (2 ^ 63) else BitVec.ofInt 64 z
      ∀ kind < 3,
        gAcc k ⟨13, 0, 0, kind, 0, 0, 0⟩ x w = (List.range 4).map (fun l => add (w.getD l 0) [term kind (x.getD l 0)]) ∧
        ∀ dst < 4, gAcc k ⟨13, 0, 0, 4 + kind, dst, 0, 0⟩ x w =
          (List.range 4).map (fun l => if l = dst then add (w.getD l 0) (x.map (term kind)) else w.getD l 0)) ∧
    (∀ (w : Word64),
      gRdo k 0 w = w.setWidth 32 ∧ gRdo k 1 w = (w >>> 32).setWidth 32 ∧
      (w.toNat = 2 ^ 63 → gRdo k 2 w = BitVec.ofNat 32 nan32 ∧ gRdo k 3 w = BitVec.ofNat 32 nan32) ∧
      (w.toNat ≠ 2 ^ 63 → gRdo k 2 w = ofInt w.toInt (2 * k.sexp - 23) ∧ gRdo k 3 w = ofInt w.toInt k.wexp))

/-- R238 to R240, R242, R243, R262: a region begins its next interval as the pseudocode gives; LCTX sets the remaining
count of a region's context, or adds to it up to 2^32 − 1, and a completed region with iterations left starts again;
every other context, and every context where no region uses the named one, is unaffected; the lane-wise integer
operations, and the sources that need no neighbour. R240, R241: the floating-point operations of the grid round once
by RNE and flush as the slot says; GMAX treats NaNs and signed zeros as R131; GCVT saturates to s32 and converts from
and to LG bytes; GLGM gives the product word of the bytes it names; GACC adds exactly into one accumulator a lane, or
the four lanes into one, and keeps the NaR sum; GRDO reads a half of an accumulator or its rounded value. -/
def Obligations.RegionsAndGridOperations : Prop :=
  Sys2Proof.Claims.RegionIntervals ∧ Sys2Proof.Claims.GridValues

/-- R246, R247, R263: STRMO, STRMA, STRMB and STRMC join the queue of their engine under the current generation, and
STRMQ reports the engine. -/
def Sys2Proof.Claims.StreamWords : Prop :=
  ∀ (c : Ctl) (p : FmtE) s i x,
    (∀ e, GridTurn s i .strmo c p 0 x → readEntry s i.T p.ridx.toNat = .ok e → (e.kind = .buffer ∨ e.kind = .tensor) →
      Streams (.strmo c p) s i .strmo c p
        (.open (p.mode.getLsbD 0) (2 ^ (p.mode.extractLsb' 1 2).toNat) e
          (if p.imm32.getLsbD 15 then some (p.imm32.extractLsb' 0 6).toNat else none)
          (if p.imm32.getLsbD 14 then some ((p.imm32.extractLsb' 6 6).toNat, (p.imm32.extractLsb' 12 2).toNat) else none)) 0) ∧
    (GridTurn s i .strma c p 0 x → Streams (.strma c p) s i .strma c p .permits p.imm32.toNat) ∧
    (GridTurn s i .strmb c p 0 x →
      Streams (.strmb c p) s i .strmb c p (.drive (x.l.extractLsb' 0 32).toNat (x.l.extractLsb' 32 32).toInt) p.imm32.toNat) ∧
    (GridTurn s i .strmc c p 0 x → Streams (.strmc c p) s i .strmc c p .close 0) ∧
    (GridTurn s i .strmq c p 0 x →
      let y := getEng (getGrid s i.T.core) (p.aux8.toNat % 8)
      exec (.strmq c p) s = .next (finish s i .strmq c (.e p) (toFiring (fun _ _ _ _ => strmqVal s.ptc y) i .strmq c (.e p))
        (slotCycles i.u) 0))

/-- R254, R255, R258 to R262: GCFG stages its image under the next generation or waits while one is staged; GRUN,
GFRAME and LCTX go to the current generation, GFRAME after the grid's part of the cycle at hand, whose cinch wires
still test the old budget; GSTOP acts at once; GWAIT goes on or waits; GQRY answers. R246, R247, R263: STRMO, STRMA,
STRMB and STRMC join the queue of their engine under the current generation, and STRMQ reports the engine. -/
def Obligations.GridAndStreamWords : Prop :=
  Sys2Proof.Claims.GridWords ∧ Sys2Proof.Claims.StreamWords

/-! ## Synchronisation words (chapter 10) -/

namespace Sys2Proof.Claims

/-- The turn of a word of chapter 10 in which lane `l` is the first that fires (R276). -/
def SyncTurn (s : State) (i : Iss) (o : Op) (c : Ctl) (p : FmtS) (l : Nat) (x : Opnds) : Prop :=
  Turn s i o c (.s p) ∧ ∃ rest, atLanes i o c (.s p) = (l, x) :: rest

/-- The fragment waits at this word (R81, R271). -/
def waiting (s : State) (i : Iss) (w : Wait) (k : WaitKind) : State :=
  updFlight s i.t i.u (fun f => { f with wait := some w, waitKind := k })

/-- The word issues and its fragment waits at it. -/
def started (s : State) (i : Iss) (o : Op) (c : Ctl) (p : FmtS) (w : Wait) (k : WaitKind) : State :=
  waiting (issueSlot s i o c (.s p)) i w k

/-- A participant of a lower number whose arrival at barrier b can come in this cycle (R266). -/
def LowerArrives (s : State) (i : Iss) (b : Nat) : Prop :=
  ∃ u w f o c q, u < i.u ∧ (u, w) ∈ i.T.units ∧ w.flight = some f ∧
    let j : Iss := ⟨i.t, u, i.T, w, f⟩
    wordOf j = some (o, c, .s q) ∧ (o = .bar ∨ o = .bara ∨ o = .barx) ∧ q.id.toNat = b ∧ gate s j o c (.s q) = none ∧
      atLanes j o c (.s q) ≠ [] ∧ releaseDone s i.t u i.T w (scopeCode q.scope) = true

/-- A participant of a higher number has arrived at barrier b in this cycle already: the unit's arrival comes in the next (R266). -/
def HigherArrived (s : State) (i : Iss) (b : Nat) : Prop :=
  (getBar i.T b).arrivedAt = s.ptc + 1 ∧ i.u < (getBar i.T b).arrivedBy

/-- The acquire part: later loads of the block wait until the earlier ones have returned (R157). -/
def acquired (s : State) (i : Iss) : State := updFlight s i.t i.u (fun f => { f with acq := f.idx })

/-- CNT resolved (R265). -/
def countOf (T : Team) (p : FmtS) : Nat :=
  let n := (p.imm40.extractLsb' 0 5).toNat
  if n = 0 then T.lrec.warps + (if T.lrec.bentry = 0 then 0 else 1) else n

/-- BAR, BARA and BARX up to their arrival: the count, the bytes, the release part and the order of the arrivals of one cycle,
lower units first (R266), then the arrival, after which `k` holds. -/
def Arrives (w : Instr) (s : State) (i : Iss) (p : FmtS) (bytes : Nat) (k : Iss → State → State) : Prop :=
  let b := p.id.toNat
  let n := countOf i.T p
  let x := getBar i.T b
  let mismatch := exec w s = .next (raise s i.t i.u i.f.idx 0
    ⟨.barrierMismatch, .engine, BitVec.ofNat 64 (b + 16 * (if x.cv then x.c else 0) + 512 * n), i.f.addr⟩)
  (participants i.T < n → mismatch) ∧
  (n ≤ participants i.T → 2 ^ 40 ≤ bytes →
    exec w s = .next (raise s i.t i.u i.f.idx 0
      ⟨.reservedBits, .engine, BitVec.ofNat 64 (i.f.hdr.hcnt + i.f.idx), i.f.addr⟩)) ∧
  (n ≤ participants i.T → bytes < 2 ^ 40 →
    let free := releaseDone s i.t i.u i.T i.w (scopeCode p.scope)
    let late := LowerArrives s i b ∨ HigherArrived s i b
    (free = false ∨ late → exec w s = .next s) ∧
    (free = true → ¬late → barArrive i.T i.u b n bytes s.ptc = none → mismatch) ∧
    (free = true → ¬late → ∀ T v, barArrive i.T i.u b n bytes s.ptc = some T → tabFind T.units i.u = some v →
      exec w s = .next (k { i with T := T, w := v } (putTeam s i.t T))))

end Sys2Proof.Claims

/-- R266, R325: an arrival joins where the unit has arrived already, or arrived in a generation that a save interrupted, is refused where its count disagrees, and else counts, adds
its bytes modulo 2^40 and completes the generation with the last arrival and no bytes pending; that C then reads 0 is the inference
of log 48. The barrier notes the cycle and the unit of its last arrival. Nothing else of the team changes. -/
def Sys2Proof.Claims.BarrierArrival : Prop :=
  ∀ (T : Team) (u b n bytes now : Nat) (w : WUnit), tabWf {} T.bars = true → tabWf {} w.arrivals = true →
    tabFind T.units u = some w →
    let x := getBar T b
    let r := tabGet {} w.arrivals b
    let joined := r.flag = true ∧ (r.gen = x.g ∨ r.rejoin = true)
    let p := x.p + BitVec.ofNat 40 bytes
    let only := fun (T' : Team) (a : Arrival) => (∀ k, k ≠ u → tabFind T'.units k = tabFind T.units k) ∧
      { T' with bars := T.bars, units := T.units } = T ∧
      ∃ w', tabFind T'.units u = some w' ∧ tabGet {} w'.arrivals b = a ∧ { w' with arrivals := w.arrivals } = w ∧
        ∀ k, k ≠ b → tabGet {} w'.arrivals k = tabGet {} w.arrivals k
    let others := fun (T' : Team) => ∀ k, k ≠ b → getBar T' k = getBar T k
    (joined → ∃ T', barArrive T u b n bytes now = some T' ∧ getBar T' b = { x with arrivedAt := now + 1, arrivedBy := u } ∧
      others T' ∧ only T' ⟨true, r.gen, false⟩) ∧
    (¬joined → x.cv = true → n ≠ x.c → barArrive T u b n bytes now = none) ∧
    (¬joined → (x.cv = true → n = x.c) → ∃ T', barArrive T u b n bytes now = some T' ∧
      getBar T' b = (if x.a + 1 = n ∧ p = 0 then ⟨x.g + 1, false, 0, 0, 0, now + 1, u⟩ else ⟨x.g, true, n, x.a + 1, p, now + 1, u⟩) ∧
      others T' ∧ only T' ⟨true, x.g, false⟩)

/-- R265, R270, R277: BAR, BARA and BARX arrive after their release part, BARX with its bytes; BAR and BARW go on with
their acquire part where the generation of their arrival is complete, and wait where it is open. -/
def Sys2Proof.Claims.BarrierWords : Prop :=
  ∀ (c : Ctl) (p : FmtS) s i l x,
    let b := p.id.toNat
    let closed := fun (T : Team) (w : WUnit) =>
      ¬((tabGet {} w.arrivals b).flag = true ∧ (tabGet {} w.arrivals b).gen = (getBar T b).g)
    (SyncTurn s i .bar c p l x → ∃ k, Arrives (.bar c p) s i p 0 k ∧ ∀ i' s',
      (closed i'.T i'.w → k i' s' = finishNone (acquired s' i') i' .bar c (.s p)) ∧
      (¬closed i'.T i'.w → k i' s' = started s' i' .bar c p (.barrier b) .barrier)) ∧
    (SyncTurn s i .bara c p l x → Arrives (.bara c p) s i p 0 (fun i' s' => finishNone s' i' .bara c (.s p))) ∧
    (SyncTurn s i .barx c p l x →
      Arrives (.barx c p) s i p (if p.sub.getLsbD 0 then w64 x.l else (p.imm40.extractLsb' 8 32).toNat)
        (fun i' s' => finishNone s' i' .barx c (.s p))) ∧
    (SyncTurn s i .barw c p l x →
      (closed i.T i.w → exec (.barw c p) s = .next (finishNone (acquired s i) i .barw c (.s p))) ∧
      (¬closed i.T i.w → exec (.barw c p) s = .next (started s i .barw c p (.barrier b) .barrier)))

/-- R266, R325: an arrival joins where the unit has arrived already, or arrived in a generation that a save
interrupted, is refused where its count disagrees, and else counts, adds its bytes modulo 2^40 and completes the
generation with the last arrival and no bytes pending; that C then reads 0 is the inference of log 48. The barrier
notes the cycle and the unit of its last arrival. Nothing else of the team changes. R265, R270, R277: BAR, BARA and
BARX arrive after their release part, BARX with its bytes; BAR and BARW go on with their acquire part where the
generation of their arrival is complete, and wait where it is open.
That BARRIER_MISMATCH comes before RESERVED_BITS where bytes are 2^40 or more is the order of log 39. -/
def Obligations.Barriers : Prop :=
  Sys2Proof.Claims.BarrierArrival ∧ Sys2Proof.Claims.BarrierWords

/-- R268, R269, R274, R278 to R280, R282: STGFILL and STGFREE record a flip for after the commit; STGWAIT, SLEEPT, TOKW, TOKW.F
and REALIGN go on at once where their condition holds, else they wait; a TOKW that finds a token late or failed traps, late being a
promise that has passed while the request is not complete, and REALIGN returns its lateness. -/
def Sys2Proof.Claims.WaitWords : Prop :=
  (∀ (c : Ctl) (p : FmtS) s i l x,
     let r := p.id.toNat
     let g := p.sub.toNat
     (∀ w o e, ((w, o, e) = (Instr.stgfill c p, Op.stgfill, false) ∨ (w, o, e) = (.stgfree c p, .stgfree, true)) →
       SyncTurn s i o c p l x →
       exec w s = .next (finishNone (updFlight s i.t i.u (fun f =>
         let k : Flip := ⟨r, g, e, scopeCode p.scope⟩
         { f with flips := f.flips ++ [k] })) i o c (.s p))) ∧
     (SyncTurn s i .stgwait c p l x →
       let e := p.imm40.getLsbD 1
       let bit := tabGet false (if e then i.T.eph else i.T.fph) (8 * r + g)
       exec (.stgwait c p) s = .next (if bit = p.imm40.getLsbD 0 then finishNone (acquired s i) i .stgwait c (.s p)
         else started s i .stgwait c p (.ring r g e (p.imm40.getLsbD 0)) .ring))) ∧
  (∀ (c : Ctl) (p : FmtS) s i l x,
     let now := diePtc s (dieOf i.T.core)
     let mask := (p.imm40.extractLsb' 0 8).toNat
     let named := (List.range 8).filter (fun b => mask.testBit b)
     (SyncTurn s i .sleept c p l x →
       let t := if p.sub.getLsbD 0 then now + p.imm40.toNat else w64 x.l
       exec (.sleept c p) s = .next (if t ≤ now then finishNone s i .sleept c (.s p)
         else started s i .sleept c p (.sleep t) .external)) ∧
     (SyncTurn s i .tokw c p l x →
       let ends := fun b => tokWait now (reqDone s i.T.core) (getTok i.w b)
       let traps := fun b => ends b = .late ∨ ends b = .failed
       ((∀ b ∈ named, ends b = .go) → exec (.tokw c p) s = .next (finishNone s i .tokw c (.s p))) ∧
       ((∀ b ∈ named, ¬traps b) → (∃ b ∈ named, ends b = .wait) →
         exec (.tokw c p) s = .next (started s i .tokw c p (.tokens mask false) .token)) ∧
       (∀ pre b post, named = pre ++ b :: post → (∀ k ∈ pre, ¬traps k) →
         (ends b = .late → exec (.tokw c p) s = .next (tokRaise s i.t i.u i.f.idx b true)) ∧
         (ends b = .failed → exec (.tokw c p) s = .next (tokRaise s i.t i.u i.f.idx b false)))) ∧
     (∀ fin k, (tokWait now fin k = .late ↔ k.state = .pending ∧ k.copy = true ∧ k.promise ≤ now ∧ fin k.req = false) ∧
       (tokWait now fin k = .failed ↔ k.state = .failed) ∧
       (tokWait now fin k = .go ↔ k.state = .withdrawn ∨ k.state = .cancelled ∨ (k.state = .complete ∧ tokBusy now k = false))) ∧
     (∀ core n, reqDone s core n = true ↔ ∃ r ∈ (getCore s core).copyQ, r.id = n ∧
       (copyFinished s core r = true ∨ (r.ap = true ∧ r.phase = .landed ∧ ∃ t k T x,
         r.view = some (.scratch t k) ∧ getTeam s t = some T ∧ T.views[k]? = some x ∧ x.st.count = 0))) ∧
     (SyncTurn s i .tokwF c p l x →
       ((∃ b ∈ named, tokBusy now (getTok i.w b) = true) →
         exec (.tokwF c p) s = .next (started s i .tokwF c p (.tokens mask true) .token)) ∧
       ((∀ b ∈ named, tokBusy now (getTok i.w b) = false) →
         exec (.tokwF c p) s = .next (finishNone (updUnit s i.t i.u (fun w => clearFailed w mask)) i .tokwF c (.s p)))) ∧
     (∀ w b, tabWf {} w.toks = true → getTok (clearFailed w mask) b =
       (if b ∈ named ∧ (getTok w b).state = .failed then { getTok w b with state := .complete } else getTok w b)) ∧
     (SyncTurn s i .realign c p l x →
       let t := w64 x.l
       let done := (max t s.ptc + 7) / 8 * 8
       (s.ptc < done → exec (.realign c p) s = .next (started s i .realign c p (.realign t s.ptc) .external)) ∧
       (done = s.ptc → exec (.realign c p) s = .next (updFlight
         (finish s i .realign c (.s p) (toFiring (fun _ _ _ _ => BitVec.ofNat 128 ((s.ptc - t) % 2 ^ 64)) i .realign c (.s p)) 0 0)
         i.t i.u (fun f => { f with turn := s.ptc })))))

/-- R145, R281: WAITX translates its address, traps where it cannot, and else waits for its first read, with a deadline
where the region has a timeout. -/
def Sys2Proof.Claims.ExternalWait : Prop :=
  ∀ (c : Ctl) (p : FmtS) s i l x, SyncTurn s i .waitx c p l x →
    let a := w64 x.l
    let wide := p.sub.getLsbD 2
    let n := if wide then 8 else 4
    let r := checkAccess s i.T.core i.T.vf a n .rd true
    (∀ k, r.2 = .error k →
      exec (.waitx c p) s = .next (raise r.1 i.t i.u i.f.idx l ⟨k, .globalMem, BitVec.ofNat 64 a, i.f.addr⟩)) ∧
    (∀ q rest, r.2 = .ok (q :: rest) →
      let d := if i.T.xto = 0 then none else some (diePtc s (dieOf i.T.core) + 1050 * i.T.xto)
      exec (.waitx c p) s = .next (started (touchPieces r.1 i.T (q :: rest)) i .waitx c p
        (.word a q.pa wide (q.mt == .cached && homedPa r.1 q.pa) (p.sub.extractLsb' 0 2).toNat
          (x.r.toNat % 2 ^ (8 * n)) d 0 false) .external))

/-- R268, R269, R274, R278 to R280, R282: STGFILL and STGFREE record a flip for after the commit; STGWAIT, SLEEPT,
TOKW, TOKW.F and REALIGN go on at once where their condition holds, else they wait; a TOKW that finds a token late or
failed traps, late being a promise that has passed while the request is not complete, and REALIGN returns its
lateness. R145, R281: WAITX translates its address, traps where it cannot, and else waits for its first read, with a
deadline where the region has a timeout. -/
def Obligations.WaitingWords : Prop :=
  Sys2Proof.Claims.WaitWords ∧ Sys2Proof.Claims.ExternalWait

/-- R228, R257, R276, R316: a word that acts once for the warp does nothing where no active lane fires with its operands; a word
of chapter 9 traps GRID_CONFIG in a team without the page, and RESOURCE_KIND on an entry of another kind.
The outcome where both the page and the kind are missing is the order of log 39. -/
def Obligations.IdleWords : Prop :=
  (∀ (c : Ctl) (p : FmtE) s i w o, Turn s i o c (.e p) →
     ((w, o) ∈ plainGrid c p →
       (atLanes i o c (.e p) = [] → exec w s = .next (finishNone s i o c (.e p))) ∧
       (atLanes i o c (.e p) ≠ [] → i.T.pages = [] →
         exec w s = .next (raise s i.t i.u i.f.idx 0 ⟨.gridConfig, .engine, 0, i.f.addr⟩))) ∧
     ((w, o) ∈ [(Instr.gqry c p, Op.gqry), (.strmq c p, .strmq)] → atLanes i o c (.e p) ≠ [] → i.T.pages = [] →
       exec w s = .next (raise s i.t i.u i.f.idx 0 ⟨.gridConfig, .engine, 0, i.f.addr⟩)) ∧
     ((w, o) ∈ [(Instr.gcfg c p, Op.gcfg), (.strmo c p, .strmo)] →
       (atLanes i o c (.e p) = [] → exec w s = .next (finishNone s i o c (.e p))) ∧
       (∀ e p0, atLanes i o c (.e p) ≠ [] → readEntry s i.T p.ridx.toNat = .ok e →
         p0 = (if o = .gcfg then p.aux8.toNat % 4 else 0) →
         ((if o = .gcfg then e.kind ≠ .gridimg else e.kind ≠ .buffer ∧ e.kind ≠ .tensor) →
           exec w s = .next (raise s i.t i.u i.f.idx 0 ⟨.resourceKind, .engine, BitVec.ofNat 64 p.ridx.toNat, i.f.addr⟩)) ∧
         ((if o = .gcfg then e.kind = .gridimg else e.kind = .buffer ∨ e.kind = .tensor) → i.T.pages.length ≤ p0 →
           exec w s = .next (raise s i.t i.u i.f.idx 0 ⟨.gridConfig, .engine, BitVec.ofNat 64 p0, i.f.addr⟩))))) ∧
  ((∀ (c : Ctl) (p : FmtS) s i w o,
     (w, o) ∈ [(Instr.bar c p, Op.bar), (.bara c p, .bara), (.barw c p, .barw), (.barx c p, .barx), (.stgfill c p, .stgfill),
       (.stgwait c p, .stgwait), (.stgfree c p, .stgfree), (.sleept c p, .sleept), (.tokw c p, .tokw), (.tokwF c p, .tokwF),
       (.waitx c p, .waitx), (.realign c p, .realign)] →
     Turn s i o c (.s p) → atLanes i o c (.s p) = [] →
     exec w s = .next (finish s i o c (.s p) (List.replicate (laneCount i.u) none) 0 0)) ∧
   (∀ (c : Ctl) (p : FmtS) (q : FmtE) s i w o pl,
     (w, o, pl) ∈ [(Instr.trap c p, Op.trap, Payload.s p), (.bkpt c p, .bkpt, .s p), (.swr c p, .swr, .s p), (.tret c, .tret, .n),
       (.yield c, .yield, .n), (.nopb c, .nopb, .n), (.spawn c q, .spawn, .e q)] →
     Turn s i o c pl → atLanes i o c pl = [] → exec w s = .next (finishNone s i o c pl)))

/-! ## System words (chapter 12) -/

/-- R309, R310, R315, R317 to R321: the system words at their turn, and what the special registers hold. TRAP and BKPT leave the
block's first class C trap for its commit, SWR and TRET act at the commit, SRD and PERFRD answer at once, YIELD leaves
the next four slots of its quarter to others, NOPB does nothing, and SPAWN is held with the block's stores where its record's address passes. -/
def Obligations.SystemWords : Prop :=
  (∀ (c : Ctl) (p : FmtS) s i,
     let fires := fun (o : Op) (pl : Payload) (l : Nat) (x : Opnds) => ∃ rest, atLanes i o c pl = (l, x) :: rest
     let note := fun (code : TrapCode) (info l : Nat) => updFlight s i.t i.u (fun f =>
       let z := if f.csys = none then some (⟨code, .engine, BitVec.ofNat 64 info, i.f.addr⟩, l) else f.csys
       { f with csys := z })
     (∀ l x, Turn s i .trap c (.s p) → fires .trap (.s p) l x →
       exec (.trap c p) s = .next (finishNone (note .swTrap (p.imm40.extractLsb' 0 32).toNat l) i .trap c (.s p))) ∧
     (∀ l x, Turn s i .bkpt c (.s p) → fires .bkpt (.s p) l x →
       let k := (p.imm40.extractLsb' 0 6).toNat
       exec (.bkpt c p) s = .next (finishNone (if i.w.bkpten.getLsbD k = true then note .bkpt k l else s) i .bkpt c (.s p))) ∧
     (∀ l x, Turn s i .tret c .n → fires .tret .n l x →
       exec (.tret c) s = .next (finishNone (updFlight s i.t i.u (fun f => { f with tret := true })) i .tret c .n)) ∧
     (∀ l x, Turn s i .swr c (.s p) → fires .swr (.s p) l x →
       exec (.swr c p) s = .next (finishNone (updFlight s i.t i.u (fun f =>
         { f with swrs := f.swrs ++ [((p.imm40.extractLsb' 0 9).toNat, x.l.setWidth 64)] })) i .swr c (.s p))) ∧
     (∀ l x, Turn s i .yield c .n → fires .yield .n l x →
       exec (.yield c) s = .next (finishNone (updUnit (if i.u = 16 then s else updCore s i.T.core (fun y =>
         { y with yields := tabSet 0 y.yields (32 * i.t + i.u) 5 })) i.t i.u (fun w => { w with ageing := 0 })) i .yield c .n)) ∧
     (∀ l x, Turn s i .nopb c .n → fires .nopb .n l x → exec (.nopb c) s = .next (finishNone s i .nopb c .n)) ∧
     (Turn s i .srd c (.s p) → exec (.srd c p) s = .next (finish s i .srd c (.s p) (overLanes i (fun l =>
       (opndsAt i .srd c (.s p) l).map (fun _ =>
         BitVec.ofNat 128 (sregVal s i.u i.T i.w i.f.frag (p.imm40.extractLsb' 0 9).toNat l)))) (slotCycles i.u) 0)) ∧
     (Turn s i .perfrd c (.s p) → exec (.perfrd c p) s = .next (finish s i .perfrd c (.s p) (toFiring (fun i _ _ _ =>
       (tabGet 0 (getCore s i.T.core).counters (p.imm40.extractLsb' 0 3).toNat).setWidth 128) i .perfrd c (.s p)) (slotCycles i.u) 0))) ∧
  (∀ s t u n q y, q = u % 4 → tabWf {} s.cores = true →
     tabWf 0 (getCore s t).yields = true →
     let v := fun (k : Nat) => tabGet 0 (getCore (takeSlot s t y u n false) t).yields k
     ∀ k, v k = if k % 4 = q then tabGet 0 (getCore s t).yields k - 1 else tabGet 0 (getCore s t).yields k) ∧
  (∀ s u T w frag lane,
     let r := fun n => sregVal s u T w frag n lane
     let frame := fun (v : Nat) => if w.tm then v else 0
     r 0 = (if u = 16 then 0 else lane) ∧ r 1 = u ∧ r 2 = T.num ∧ r 3 = T.lrec.teams ∧ r 4 = T.core ∧
     r 5 = ncores s T.vf ∧ r 6 = dieOf T.core ∧ r 7 = diePtc s (dieOf T.core) % 2 ^ 64 ∧ r 8 = (getSplit w frag).mask.toNat ∧
     r 9 = w.fflags.toNat ∧ r 10 = T.lrec.seed.toNat ∧ r 11 = frag ∧
     (∀ k, w.frame.code = some k → r 16 = frame (sourceNum w.frame.source * 256 + trapNum k)) ∧
     r 17 = frame (w.frame.blk % 2 ^ 64) ∧ r 18 = frame w.frame.info.toNat ∧ r 19 = w.bkpten.toNat) ∧
  (∀ (c : Ctl) (p : FmtE) s i l x, Turn s i .spawn c (.e p) → (∃ rest, atLanes i .spawn c (.e p) = (l, x) :: rest) →
     let a := w64 x.l
     let r := checkOne s i.T.core i.T.vf a 256 64 .rd
     (a % 64 ≠ 0 → exec (.spawn c p) s = .next (raise s i.t i.u i.f.idx l ⟨.align, .globalMem, BitVec.ofNat 64 a, i.f.addr⟩)) ∧
     (a % 64 = 0 →
       (∀ k, r.2 = .error k →
         exec (.spawn c p) s = .next (raise r.1 i.t i.u i.f.idx l ⟨k, .globalMem, BitVec.ofNat 64 a, i.f.addr⟩)) ∧
       (∀ ps, r.2 = .ok ps →
         exec (.spawn c p) s = .next (heldAtomic (touchPieces r.1 i.T ps) i .spawn c (.e p)
           [⟨c.lsid.toNat, i.f.idx, l, false, .spawn, a, (ps.map Piece.pa).headD 0, 256, 0, 0, []⟩]))))

/-! ## Blocks and traps (chapters 3 and 12) -/

namespace Sys2Proof.Claims

/-- A unit of a team. -/
def At (s : State) (t u : Nat) (T : Team) (w : WUnit) : Prop := getTeam s t = some T ∧ tabFind T.units u = some w

/-- A unit at a block boundary, free to enter the next block of its chosen fragment `i` (R80). -/
def Enters (s : State) (t u : Nat) (T : Team) (w : WUnit) (i : Nat) : Prop :=
  At s t u T w ∧ w.flight = none ∧ mayEnter T w = true ∧ chooseFrag w s.ptc = some i

/-- The mask class that a fragment's fetch takes (R65). -/
def classOf (w : WUnit) (u i : Nat) : Bool := u != 16 && (getSplit w i).mask == BitVec.allOnes 128

/-- The registers that a read entry takes in a block. -/
def regsOf (words : List IWord) (r : ReadEntry) : Nat := readRegs r (readBits (viewsOf words) r)

/-- No header read waits for an atomic or finds poison (R64, R159). -/
def ReadsClean (w : WUnit) (m : BitVec 128) (words : List IWord) (h : Header) : Prop :=
  ∀ r ∈ h.reads, readPending w m r (regsOf words r) = false ∧ readPoison w m r (regsOf words r) = false

/-- No unit but one changes. -/
def OtherUnits (s s' : State) (t u : Nat) : Prop := ∀ t' u', (t', u') ≠ (t, u) → getUnit s' t' u' = getUnit s t' u'

/-- An atomic that is held. -/
def atomHeld (h : HeldStore) : Bool := match h.kind with | .atom _ _ => true | _ => false

/-- What the SWRs of a block leave in a special register: the last value, or what stood there (R317). -/
def lastSwr (f : Flight) (p : Nat → Bool) (d : BitVec 64) : BitVec 64 :=
  ((f.swrs.filter (fun y => p y.1)).getLast?.map Prod.snd).getD d

/-- The stores and atomics of a block in the order of their release (R72). -/
def released (f : Flight) : List HeldStore := (List.range 32).flatMap (fun n => f.stores.filter (fun h => h.lsid == n))

end Sys2Proof.Claims

/-- R57, R61, R64, R65, R84: the chosen fragment enters its block: a failing fetch or decode check, against the unit that
enters, leaves its trap pending with its source and the failing word's index, or escalates in a handler; else the block is in
flight and its header reads are delivered to their slots. A page in transition or not yet verified lets nothing enter. No
register, no other unit, no byte of memory and no request changes. -/
def Sys2Proof.Claims.BlockEntry : Prop :=
  ∀ s t u T w i, Enters s t u T w i → tabWf {} w.splits = true →
    let e := getSplit w i
    let full := classOf w u i
    let fetched := (fetchBlock s T t u e.block full).2
    let alone := fun (s' : State) (w' : WUnit) => w'.v = w.v ∧ w'.k = w.k ∧ w'.q = w.q ∧ w'.toks = w.toks ∧ s'.mem = s.mem ∧
      s'.reqs = s.reqs ∧ OtherUnits s s' t u
    let traps := fun (tr : PendTrap) =>
      (¬(w.tm = true ∧ e.handler = true) →
        ∃ s' w', exec (.blockEntry t u) s = .next s' ∧ getUnit s' t u = some w' ∧ w'.flight = none ∧
          (getSplit w' i).traps = e.traps ++ [tr] ∧ alone s' w') ∧
      (w.tm = true → e.handler = true → isPending tr.code = false →
        ∃ s' w', exec (.blockEntry t u) s = .next (escalate s' t tr.code (codeVa tr.blk) tr.info.toNat) ∧
          getUnit s' t u = some w' ∧ alone s' w')
    ((fetched = .moving ∨ ∃ v p, fetched = .unverified v p) → exec (.blockEntry t u) s = .next s) ∧
    (∀ c src n, fetched = .trap c src n → traps ⟨c, src, BitVec.ofNat 64 n, e.block⟩) ∧
    ∀ words hit, fetched = .ok words hit →
    let check := checkBlock w.role full (tretConds w e) hit (vBound T u) words
    (∀ c n, check = .error (c, n) → traps ⟨c, .engine, BitVec.ofNat 64 n, e.block⟩) ∧
    (∀ h ins, check = .ok (h, ins) → h.prefetch = none →
      let code := (words.drop h.hcnt).take h.icnt
      ReadsClean w e.mask code h → (∀ r ∈ h.reads, ∀ q ∈ h.reads, r.cons = q.cons → r.slot = q.slot → r = q) →
      ∃ s' w' f, exec (.blockEntry t u) s = .next s' ∧ getUnit s' t u = some w' ∧ w'.flight = some f ∧
        f.frag = i ∧ f.addr = e.block ∧ f.words = code ∧ f.hdr = h ∧ f.entered = true ∧ f.idx = 0 ∧ f.stores = [] ∧
        f.entryFlags = w.fflags ∧
        (∀ r ∈ h.reads, tabFind f.toks (4 * r.cons + slotIdx r.slot) = some ⟨(List.range (laneCount u)).map (fun l =>
          if e.mask.getLsbD l then some (readLane s u T w i r (regsOf code r) l) else none), s.ptc⟩) ∧ alone s' w')

/-- R36, R64, R191, R334, R368: a header prefetch is issued once the reads are clean, its checks pass, its token is not busy and
the copy queue has room, and the block's reads are then delivered; an unverified code page is hashed, and the result verifies
the page, or revokes its object and traps CODE_INTEGRITY. -/
def Sys2Proof.Claims.PrefetchAndCodeHash : Prop :=
  (∀ s t u T w f p e, At s t u T w → w.flight = some f → f.entered = false → f.hdr.prefetch = some p →
    let m := (getSplit w f.frag).mask
    ReadsClean w m f.words f.hdr → readPending w m (kregRead p) 1 = false → prefetchCheck s T w f p = .ok e →
    (getTok w p.token).state ≠ .failed → tokBusy (diePtc s (dieOf T.core)) (getTok w p.token) = false →
    (getCore s T.core).copyQ.length < 32 →
    let kv := (getK w p.kreg).toNat
    let r : CopyReq := { id := 0, vf := T.vf, team := t, unit := u, kind := .bufLd, sb := some p.token, ap := false, sh := false,
                         bv := none, res := e, ridx := p.ridx, sp := kv / 2 ^ 32, count := p.bytes
                         ofs := kv % 2 ^ 32 * (if e.kind = .tensor then e.esize else 1) }
    let a := enqueueCopy (touchEntry s T p.ridx) T.core r
    exec (.headerPrefetchIssue t u) s = .next (deliverReads (pendCopyTok a.1 a.2) t u)) ∧
  (∀ s t u T w i vp pp o p, Enters s t u T w i →
    (fetchBlock s T t u (getSplit w i).block (classOf w u i)).2 = .unverified vp pp →
    codePageAt s T.vf pp = some (o, p) →
    let hash := Config.shake256 (memBytes s.mem (pp * 2 ^ 16) (2 ^ 16))
    (hash = p.hash → exec (.codePageHashCheck t u) s = .next (updTenant s T.vf (fun V =>
      let mark := fun (q : CodePage) => if q.ppage = p.ppage then { q with verified := true } else q
      { V with objs := V.objs.map (fun x => { x with pages := x.pages.map mark }) }))) ∧
    (hash ≠ p.hash →
      let tr : PendTrap := ⟨.codeIntegrity, .codeFetch, BitVec.ofNat 64 (vp * 2 ^ 16), (getSplit w i).block⟩
      let t1 := if w.tm = true ∧ (getSplit w i).handler = false then pendTrap s t u i tr
        else escalate s t .codeIntegrity (codeVa tr.blk) tr.info.toNat
      exec (.codePageHashCheck t u) s = .next (revoke t1 T o (vp * 2 ^ 16)))) ∧
  (∀ s (T : Team) o va, (o.revoked = true → revoke s T o va = s) ∧
    (o.revoked = false →
      (∀ x ∈ (getTenant (revoke s T o va) T.vf).objs, x.num = o.num → x.revoked = true) ∧
      (∀ l ∈ (getTenant s T.vf).ready, l.status = 0 → entersObj s T.vf o l.lrec = true →
        ∃ k ∈ (getTenant (revoke s T o va) T.vf).ready, k.seq = l.seq ∧ k.status = 4 ∧ k.reason = 0x11)))

/-- R57, R61, R64, R65, R84: the chosen fragment enters its block: a failing fetch or decode check, against the unit
that enters, leaves its trap pending with its source and the failing word's index, or escalates in a handler; else the
block is in flight and its header reads are delivered to their slots. A page in transition or not yet verified lets
nothing enter. No register, no other unit, no byte of memory and no request changes. R36, R64, R191, R334, R368: a
header prefetch is issued once the reads are clean, its checks pass, its token is not busy and the copy queue has
room, and the block's reads are then delivered; an unverified code page is hashed, and the result verifies the page,
or revokes its object and traps CODE_INTEGRITY.
The source of a decode trap is the inference of log 36, the order of the escalation and the revocation that of log 39; the
reads that count as served and the unchecked k[KREG] are the choices of log 42. -/
def Obligations.BlockEntryAndPrefetch : Prop :=
  Sys2Proof.Claims.BlockEntry ∧ Sys2Proof.Claims.PrefetchAndCodeHash

/-- R72, R76, R77, R127, R162, R175, R317 to R319: a block that is ready commits: its registers are written, its flags joined,
its SWRs and TRET take effect, its STS write their bytes, its stores and atomics are handed over in LSID order, memory itself not
yet changed and no other unit touched; its class C trap is pending on the fragment that goes on with its lane; a split without
room aborts with SPLIT_OVERFLOW. The clauses about its effect leave out a block with an STS that drops on poison, whose fault
record is a write of its own. A CINV is complete 24 cycles after its commit or later, when the partition's block caches have
dropped its range. -/
def Sys2Proof.Claims.BlockCommit : Prop :=
  (∀ s t u T w f term, At s t u T w → w.flight = some f → f.term = some term → commitReady s t u f = true →
    let next := decideSuccs w f term (diePtc s (dieOf T.core))
    let kept := tabWf false (getCore s T.core).spPoison = true ∧ ∀ h ∈ f.stores, h.scratch = true → atomHeld h = false →
      spDrops s T.core (fun i => spAddr T (h.va + i)) h.n = false
    (next = none → exec (.blockCommit t u) s = .next (abortTrap s t u ⟨.splitOverflow, .engine, 0, f.addr⟩)) ∧
    (next ≠ none → f.csys = none → kept → ∃ s' x new, exec (.blockCommit t u) s = .next s' ∧ getUnit s' t u = some x ∧ x.flight = none ∧
      let r := commitWrites (getSplit w f.frag).mask f (viewsOf f.words) w
      x.v = r.v ∧ x.vPoison = r.vPoison ∧ x.k = r.k ∧ x.kPoison = r.kPoison ∧ x.q = r.q ∧ x.qPoison = r.qPoison ∧
      x.fflags = (w.fflags &&& ~~~(f.clear &&& f.entryFlags)) ||| f.raised ∧
      s'.reqs = s.reqs ++ new ∧
      new.map (fun q => (q.kind, q.va, q.pa, q.n, q.data, q.cmp, q.t, q.phase)) =
        ((released f).filter (fun h => !h.scratch)).map (fun h => (h.kind, h.va, h.pa, h.n, h.data, h.cmp, s.ptc, ReqPhase.released)) ∧
      s'.mem = s.mem ∧ s'.loads = s.loads ∧ OtherUnits s s' t u ∧
      x.bkpten = lastSwr f (fun n => n = 19) w.bkpten ∧
      (let blk := if w.tm then (lastSwr f (fun n => n ≠ 19) (BitVec.ofNat 64 w.frame.blk)).toNat else w.frame.blk
       w.frame.blk < 2 ^ 64 → term ≠ .exit → tabWf {} w.splits = true →
       (f.tret = false → x.tm = w.tm ∧ x.frame = { w.frame with blk := blk }) ∧
       (f.tret = true → x.tm = false ∧ x.frame = {} ∧ (getSplit x f.frag).block = blk % 2 ^ 57 ∧ ∀ j, (getSplit x j).handler = false)) ∧
      (tabWf {} s.cores = true → tabWf 0 (getCore s T.core).scratch = true →
        let written := ((released f).filter (fun h => h.scratch && !atomHeld h)).flatMap (fun h =>
          (List.range h.n).map (fun k => (spAddr T (h.va + k), BitVec.ofNat 8 (h.data.toNat / 256 ^ k))))
        (∀ a, tabGet 0 (getCore s' T.core).scratch a =
          ((written.reverse.find? (fun y => y.1 == a)).map Prod.snd).getD (tabGet 0 (getCore s T.core).scratch a)) ∧
        (∀ k, k ≠ T.core → (getCore s' k).scratch = (getCore s k).scratch))) ∧
    (∀ w2 tr lane i, next = some w2 → f.csys = some (tr, lane) → kept → w.tm = false → f.tret = false →
      tabWf {} w.splits = true →
      (∀ j, ((getSplit w2 j).live = true ∧ (getSplit w2 j).mask.getLsbD lane = true) ↔ j = i) →
      ∃ s' x, exec (.blockCommit t u) s = .next s' ∧ getUnit s' t u = some x ∧ x.flight = none ∧
        (getSplit x i).traps = (getSplit w2 i).traps ++ [{ tr with blk := (getSplit w2 i).block }])) ∧
  (∀ s t u T w, At s t u T w → w.cinvs ≠ [] → (∀ c ∈ w.cinvs, c.2.2 + 24 ≤ s.ptc) →
    ∃ s', exec (.cinvComplete t u) s = .next s' ∧ getUnit s' t u = some { w with cinvs := [] } ∧ s'.mem = s.mem ∧
      ∀ P, getPart s (getTenant s T.vf).cfg.part = some P → tabWf {} s.cores = true → ∀ k, k ∈ partCores s P →
        (getCore s' k).blocks = (getCore s k).blocks.filter (fun b =>
          !w.cinvs.any (fun r => r.2.1 != 0 && blockInRange r.1 r.2.1 b)))

/-- R33, R42, R72, R90, R98: at the commit, a v register that no write entry covers keeps its value. A write entry puts each 32
bits of its result in a v register of its own, and in q whether the result is not 0, in every active lane in which it is not null;
in k a uniform result is extended to 64 bits, with its sign where its type is s8 or s32, and one of 128 bits takes a pair. -/
def Sys2Proof.Claims.CommittedRegisters : Prop :=
  ∀ (mask : BitVec 128) (f : Flight) (ins : List View) (w : WUnit) (n l : Nat), l < 128 →
    tabWf 0 w.v = true → tabWf 0 w.k = true → tabWf false w.q = true →
    let r := commitWrites mask f ins w
    ((∀ e ∈ f.hdr.writes, e.space ≠ 1 → e.space ≠ 2 → ∀ v, ins[e.prod]? = some v →
        n < e.index ∨ e.index + vRegs (resWidth v.1 v.2.1.ty) ≤ n) → getV r n l = getV w n l) ∧
    (∀ e v k, f.hdr.writes = [e] → ins[e.prod]? = some v → tabFind f.results e.prod = some k →
      let width := resWidth v.1 v.2.1.ty
      let bits := kWidth v.1 v.2.1.ty
      let idle := mask.getLsbD l = false ∨ k.lanes[l]? = some none
      (e.space = 0 → e.index ≤ n → n < e.index + vRegs width →
        (∀ x, mask.getLsbD l = true → k.lanes[l]? = some (some x) → getV r n l = (x >>> (32 * (n - e.index))).setWidth 32) ∧
        (idle → getV r n l = getV w n l)) ∧
      (e.space = 2 → e.index = n →
        (∀ x, mask.getLsbD l = true → k.lanes[l]? = some (some x) → (getQ r n l = true ↔ x.setWidth width ≠ 0)) ∧
        (idle → getQ r n l = getQ w n l)) ∧
      (e.space = 1 →
        (∀ x, (∃ j, mask.getLsbD j = true ∧ k.lanes[j]? = some (some x)) →
          (∀ j y, mask.getLsbD j = true → k.lanes[j]? = some (some y) → y = x) →
          (bits ≤ 64 → getK r e.index = if resSigned v.2.1.ty then (x.setWidth bits).signExtend 64 else (x.setWidth bits).setWidth 64) ∧
          (64 < bits → getK r e.index = x.setWidth 64 ∧ getK r (e.index + 1) = (x >>> 64).setWidth 64)) ∧
        ((∀ j y, mask.getLsbD j = true → k.lanes[j]? ≠ some (some y)) → r.k = w.k)))

/-- R72, R76, R77, R127, R162, R175, R317 to R319: a block that is ready commits: its registers are written, its flags
joined, its SWRs and TRET take effect, its STS write their bytes, its stores and atomics are handed over in LSID
order, memory itself not yet changed and no other unit touched; its class C trap is pending on the fragment that goes
on with its lane; a split without room aborts with SPLIT_OVERFLOW. The clauses about its effect leave out a block with
an STS that drops on poison, whose fault record is a write of its own. A CINV is complete 24 cycles after its commit
or later, when the partition's block caches have dropped its range. R33, R42, R72, R90, R98: at the commit, a v
register that no write entry covers keeps its value. A write entry puts each 32 bits of its result in a v register of
its own, and in q whether the result is not 0, in every active lane in which it is not null; in k a uniform result is
extended to 64 bits, with its sign where its type is s8 or s32, and one of 128 bits takes a pair.
That a STALL delays the fragments that come out of the block is the inference of log 36. -/
def Obligations.BlockCommitAndRegisters : Prop :=
  Sys2Proof.Claims.BlockCommit ∧ Sys2Proof.Claims.CommittedRegisters

/-- R76: the fragments of a warp hold disjoint masks after the decision of successors if they did before, and together the
lanes they held but for those that exited. -/
def Sys2Proof.Claims.SuccessorsPartitionLanes : Prop :=
  ∀ (w w' : WUnit) (f : Flight) (term : Term) (now : Nat), tabWf {} w.splits = true → (getSplit w f.frag).live = true → f.frag < 32 →
    (∀ l k, laneSucc term l = some k → k < 4) →
    (∀ a b, a ≠ b → (getSplit w a).live = true → (getSplit w b).live = true →
      (getSplit w a).mask &&& (getSplit w b).mask = 0) →
    decideSuccs w f term now = some w' →
    (∀ a b, a ≠ b → (getSplit w' a).live = true → (getSplit w' b).live = true →
      (getSplit w' a).mask &&& (getSplit w' b).mask = 0) ∧
    (∀ l, l < 128 →
      ((∃ a, (getSplit w' a).live = true ∧ (getSplit w' a).mask.getLsbD l = true) ↔
       (∃ a, (getSplit w a).live = true ∧ (getSplit w a).mask.getLsbD l = true ∧ ¬(a = f.frag ∧ laneSucc term l = none))))

/-- R78, R82, R311 to R314: a group whose members have all parked fuses into one fragment with their lanes, at the rejoin
address in the group's parent. The oldest trapped fragment takes its first trap, with the frame written, its mask and the
registers unchanged; CODE_INTEGRITY and an empty handler entry escalate, but a PREEMPT_NOTICE is dropped; while TM = 1 nothing is
delivered. A trap that arises joins its fragment's list and stops a ready one; one of class E or C, or WATCHDOG, on a fragment that
runs a handler escalates at once, and any other lets it go on. An escalation ends the team and its launch with status 3 and the
trap's code. -/
def Sys2Proof.Claims.FusionAndTrapDelivery : Prop :=
  (∀ s t u T w g r k e, At s t u T w → tabWf {} w.splits = true → mayFuse w g = true → (getSplit w g).record = some r →
    keeper (members w g) = some (k, e) →
    ∃ s' w', exec (.groupFusion t u g) s = .next s' ∧ getUnit s' t u = some w' ∧
      (getSplit w' k).live = true ∧ (getSplit w' k).block = r.rejoin ∧ (getSplit w' k).group = r.parent ∧
      (getSplit w' k).stack = e.stack ∧
      (∀ l, l < 128 → ((getSplit w' k).mask.getLsbD l = true ↔ ∃ x ∈ members w g, x.2.mask.getLsbD l = true)) ∧
      (∀ x ∈ members w g, x.1 ≠ k → (getSplit w' x.1).live = false) ∧
      w'.v = w.v ∧ w'.k = w.k ∧ w'.q = w.q ∧ s'.mem = s.mem) ∧
  (∀ s t u T w i tr rest, At s t u T w → tabWf {} w.splits = true → w.flight = none → w.done = false → w.tm = false →
    T.term = none → T.retired = false → nextTrapped T w = some i → (getSplit w i).traps = tr :: rest → tr.code ≠ .codeIntegrity →
    let e := getSplit w i
    (∀ h, handlerEntry s T.vf T.htab tr.code = some h →
      ∃ s' w', exec (.trapDelivery t u) s = .next s' ∧ getUnit s' t u = some w' ∧ w'.tm = true ∧
        w'.frame = { code := some tr.code, source := tr.source, info := tr.info, blk := codeVa e.block, mask := e.mask
                     depth := e.stack.length, entry := i } ∧
        getSplit w' i = { e with traps := rest, block := h % 2 ^ 57, handler := true, state := .ready } ∧
        (∀ j, j ≠ i → getSplit w' j = getSplit w j) ∧ w'.v = w.v ∧ w'.k = w.k ∧ w'.q = w.q ∧ s'.mem = s.mem) ∧
    (handlerEntry s T.vf T.htab tr.code = none → tr.code = .preemptNotice →
      ∃ s' w', exec (.trapDelivery t u) s = .next s' ∧ getUnit s' t u = some w' ∧ w'.tm = false ∧
        (getSplit w' i).traps = rest ∧ (getSplit w' i).block = e.block ∧ w'.v = w.v ∧ w'.k = w.k ∧ w'.q = w.q)) ∧
  (∀ s t u T w i tr rest, At s t u T w → w.flight = none → w.done = false → w.tm = false →
    T.term = none → T.retired = false → nextTrapped T w = some i → (getSplit w i).traps = tr :: rest →
    (tr.code = .codeIntegrity ∨ (handlerEntry s T.vf T.htab tr.code = none ∧ tr.code ≠ .preemptNotice)) →
    exec (.trapDelivery t u) s = .next (escalate (updUnit s t u (fun w => setSplit w i { (getSplit w i) with
      traps := rest, state := if rest = [] then .ready else .trapPending })) t tr.code (codeVa (getSplit w i).block) tr.info.toNat)) ∧
  (∀ s t u T w, At s t u T w → w.tm = true → exec (.trapDelivery t u) s = .next s) ∧
  (∀ s t u w i tr, getUnit s t u = some w → tabWf {} w.splits = true →
    let e := getSplit w i
    let now := isPending tr.code = false ∨ tr.code = .watchdog
    (w.tm = true → e.handler = true → now → pendTrap s t u i tr = escalate s t tr.code (codeVa tr.blk) tr.info.toNat) ∧
    (¬(w.tm = true ∧ e.handler = true ∧ now) → ∃ w', getUnit (pendTrap s t u i tr) t u = some w' ∧
      (getSplit w' i).traps = e.traps ++ [tr] ∧
      ((e.state = .ready ∨ e.state = .parked) → ¬(w.tm = true ∧ e.handler = true) → (getSplit w' i).state = .trapPending) ∧
      (w.tm = true → e.handler = true → e.state = .ready → (getSplit w' i).state ≠ .trapPending) ∧
      (e.state ≠ .ready → e.state ≠ .parked → (getSplit w' i).state = e.state) ∧
      ∀ j, j ≠ i → getSplit w' j = getSplit w j)) ∧
  (∀ code, isPending code = true ↔ code ∈ [.bankConflict, .stream, .watchdog, .preemptNotice]) ∧
  (∀ s t T code blk info, getTeam s t = some T → T.retired = false → T.term = none →
    let s' := escalate s t code blk info
    (∃ T', getTeam s' t = some T' ∧ T'.term = some (3, trapNum code)) ∧
    (∀ l ∈ (getTenant s T.vf).ready, l.seq = T.seq → l.status = 0 →
      ∃ k ∈ (getTenant s' T.vf).ready, k.seq = l.seq ∧ k.status = 3 ∧ k.reason = trapNum code))

/-- R76: the fragments of a warp hold disjoint masks after the decision of successors if they did before, and together
the lanes they held but for those that exited. R78, R82, R311 to R314: a group whose members have all parked fuses
into one fragment with their lanes, at the rejoin address in the group's parent. The oldest trapped fragment takes its
first trap, with the frame written, its mask and the registers unchanged; CODE_INTEGRITY and an empty handler entry
escalate, but a PREEMPT_NOTICE is dropped; while TM = 1 nothing is delivered. A trap that arises joins its fragment's
list and stops a ready one; one of class E or C, or WATCHDOG, on a fragment that runs a handler escalates at once, and
any other lets it go on. An escalation ends the team and its launch with status 3 and the trap's code.
A handler address that wraps at 57 bits is the inference of log 36; which fragment is next in a team that stops is that of
log 21, and the order of traps of different cycles the choice of log 42. -/
def Obligations.FragmentsAndTrapDelivery : Prop :=
  Sys2Proof.Claims.SuccessorsPartitionLanes ∧ Sys2Proof.Claims.FusionAndTrapDelivery

/-! ## The memory system's own steps (chapter 6) -/

namespace Sys2Proof.Claims

/-- A request of a unit, an event of its own, that its home has not applied, and which is next there (R151, R275); its bytes lie in
one page. -/
def AtHome (s : State) (id : Nat) (r : MemReq) : Prop :=
  findReq s id = some r ∧ r.phase = .forwarded ∧ arrives s r = true ∧ homedPa s r.pa = true ∧ r.event = none ∧
  r.pa % 2 ^ 16 + r.n ≤ 2 ^ 16

/-- Bytes `pa` to `pa` + n − 1 of memory hold `b`, and every other byte is as it was. -/
def Wrote (s s' : State) (pa : Nat) (b : List Byte) : Prop :=
  (∀ k, k < b.length → memByte s'.mem (pa + k) = b.getD k 0) ∧
  (∀ a, a < pa ∨ pa + b.length ≤ a → memByte s'.mem a = memByte s.mem a)

/-- The home address of byte `k` of an access, with the views of its tenant resolved (R184). -/
def homeOf (s : State) (vf va pa k : Nat) : Nat := homeAddr s vf (va + k) (pa + k)

/-- The homes of an access's bytes hold `b`, each the last byte that falls on it, and every other byte is as it was. -/
def WroteAt (s s' : State) (home : Nat → Nat) (b : List Byte) : Prop :=
  (∀ k, k < b.length → (∀ j, k < j → j < b.length → home j ≠ home k) → memByte s'.mem (home k) = b.getD k 0) ∧
  (∀ a, (∀ k, k < b.length → home k ≠ a) → memByte s'.mem a = memByte s.mem a)

/-- The link of a source of posted writes is up: a host port that serves, or a scale-out port, of which Halter mode has none (R336,
R346, R348). -/
def LinkUp (s : State) (src : Nat) : Prop :=
  if 16 ≤ src then pfReached s = true ∧ tabGet 0 s.hostLanes (src - 16) ≠ 0 else s.boot.mode = .full ∧ tabGet 0 s.ports src ≠ 0

/-- No granule of a range is poisoned and only partly covered (R161). -/
def WholeGranules (s : State) (pa n : Nat) : Prop := ∀ g ∈ granules pa n, granuleDrops s pa n g = false

end Sys2Proof.Claims

/-- R148, R151, R152, R161: a released store leaves its die 24 cycles after its commit; its home applies its bytes, and no
others, and raises its warp's CT to 8 more than the cycle and the other dies' leases; a store to part of a poisoned granule
is dropped; a write to host memory lands and is acknowledged in order, each I/O die's writes by themselves (R143); the pieces of one store, and
the stores of one stream engine, are applied in the order of their release, and those of one event together (R248); behind a
SPAWN its unit's stores and atomics wait (R310).
When a store is forwarded, and the order of the stores of a die, are the choice of log 38, what a view on ALT falls back to
that of log 47. -/
def Obligations.StoresReachTheirHome : Prop :=
  (∀ s id r, findReq s id = some r → r.phase = .released → r.t + 24 ≤ s.ptc →
    exec (.storeDieForward id) s = .next (updReq s id (fun q => { q with phase := .forwarded }))) ∧
  (∀ s id r T w, Memory.wf s.mem = true → AtHome s id r → r.kind = .store → r.unit < 98 → At s r.team r.unit T w →
    let g := max s.ptc (leaseMax s r.die (r.pa / 128) ((r.pa + r.n - 1) / 128)) + 8
    accessDrops s r.vf r.va r.pa r.n = false →
      ∃ s' w', exec (.homeApplyWrite id) s = .next s' ∧
        WroteAt s s' (homeOf s r.vf r.va r.pa) (numBytes r.n r.data.toNat) ∧
        s'.reqs = s.reqs.filter (fun q => q.id != id) ∧ getUnit s' r.team r.unit = some w' ∧ w'.ct = max w.ct g ∧
        w'.v = w.v ∧ w'.k = w.k ∧ w'.q = w.q) ∧
  (∀ s id r T w, AtHome s id r → r.kind = .store → r.unit < 98 → At s r.team r.unit T w →
    accessDrops s r.vf r.va r.pa r.n = true → (getTenant s T.vf).frctl.getLsbD 4 = false →
      ∃ s', exec (.homeApplyWrite id) s = .next s' ∧ s'.mem = s.mem ∧ s'.reqs = s.reqs.filter (fun q => q.id != id)) ∧
  (∀ s id r T w, Memory.wf s.mem = true → findReq s id = some r → r.kind = .store → paKind s r.pa = .host →
    r.phase = .forwarded → r.unit < 98 → At s r.team r.unit T w → orderHeld s r = false → r.event = none →
    (∀ q ∈ s.reqs, q.id < id → q.die = r.die → q.kind = .store → paKind s q.pa = .host → hostIo q.pa ≠ hostIo r.pa) →
    WholeGranules s (cellOf r.pa) r.n →
      ∃ s' w', exec (.hostWriteAck id) s = .next s' ∧ Wrote s s' (cellOf r.pa) (numBytes r.n r.data.toNat) ∧
        s'.reqs = s.reqs.filter (fun q => q.id != id) ∧ getUnit s' r.team r.unit = some w' ∧ w'.hostOut = w.hostOut - 1) ∧
  (∀ s id r q, findReq s id = some r → q ∈ s.reqs → q.team = r.team → q.unit = r.unit → q.core = r.core → q.id < r.id →
    q.phase ≠ .applied → (q.event = none ∨ q.event ≠ r.event) → (q.kind = .spawn ∨ (r.order ≠ none ∧ q.order = r.order)) →
    exec (.homeApplyWrite id) s = .next s ∧ exec (.hostWriteAck id) s = .next s ∧
    (r.kind ≠ .spawn → exec (.atomicAtHome id) s = .next s)) ∧
  (∀ s id r e, findReq s id = some r → r.kind = .store → paKind s r.pa ≠ .host → r.event = some e →
    let mine := fun (q : MemReq) => q.event = some e ∧ paKind s q.pa ≠ .host
    ((∃ q ∈ s.reqs, mine q ∧ arrives s q = false) → exec (.homeApplyWrite id) s = .next s) ∧
    ((∀ q ∈ s.reqs, mine q → arrives s q = true ∧ (paKind s q.pa = .device → deviceKnown q.pa q.n = true)) →
      ∃ s', exec (.homeApplyWrite id) s = .next s' ∧ ∀ q ∈ s'.reqs, ∀ p ∈ s.reqs, mine p → q.id ≠ p.id)) ∧
  (∀ pa, cellOf pa = if 2 ^ 56 ≤ pa ∧ pa < 2 ^ 57 then 2 ^ 56 + pa % 2 ^ 55 else pa) ∧
  (∀ s vf va pa n, (getTenant s vf).gviews = [] → (accessDrops s vf va pa n = true ↔ ¬WholeGranules s (cellOf pa) n))

/-- R21, R27, R143, R147, R149, R150, R158, R161, R163, R273: a load is served by its home once the earlier pieces of its access and the earlier loads of
its thread of the same bytes have been, its page is not in transition and its planned time has come; its die receives the line
under a lease of 64 to 4,096 cycles, in a cache of 393,216 lines; its lane collects the bytes, and poison traps DATA_POISON; a lease that has run out, or a
load of a page in transition or not cached, drops its die's copy of the line, and with it the line from the L1 caches of the die; of the device registers a load reads the time-zone table and the place entries, and stops at any other.
The length of a lease is the choice of log 38, which copies a full die cache keeps the choice of log 8, what a view on ALT
falls back to that of log 47, and the place of the place entries the choice of log 40. -/
def Obligations.LoadsAtTheirHome : Prop :=
  (∀ s id lease l T w f, s.loads.find? (fun q => q.id == id) = some l → l.unit < 98 → At s l.team l.unit T w →
    w.flight = some f → f.fault = none → homedPa s l.pa = true → loadHeld s l = false → l.event = none →
    let s1 := grantCopy { (if l.cached then fillHub s (l.pa / 128) else s) with
      loads := s.loads.filter (fun q => q.id != id) } l lease
    (accessPoisoned s l.vf l.va l.pa l.n = false →
      exec (.loadAtHome id lease) s = .next (loadDone (updFlight s1 l.team l.unit (fun y => { y with loads := y.loads.map (fun x =>
        if x.idx = l.idx ∧ x.lane = l.lane then
          { x with val := x.val ||| BitVec.ofNat 128 (servedNum s l 0 l.n * 256 ^ l.off), missing := x.missing - 1 } else x) }))
        l.team l.unit l.idx 0)) ∧
    (accessPoisoned s l.vf l.va l.pa l.n = true → earlierLoad s1 l.team l.unit l.idx l.lane = false →
      ∃ s', exec (.loadAtHome id lease) s = .next s' ∧ s' = abortTrap s1 l.team l.unit
        ⟨.dataPoison, .globalMem, BitVec.ofNat 64 (l.va - l.off), f.addr⟩)) ∧
  (∀ s id lease l, s.loads.find? (fun q => q.id == id) = some l →
    ((∃ q ∈ s.loads, q.id < l.id ∧ q.team = l.team ∧ q.unit = l.unit ∧ q.unit ≠ noUnit ∧ q.lane = l.lane ∧
        (q.event = none ∨ q.event ≠ l.event) ∧
        (q.idx = l.idx ∨ (cellOf q.pa < cellOf l.pa + l.n ∧ cellOf l.pa < cellOf q.pa + q.n))) ∨
      moving s l.id l.pa = true ∨ s.ptc < l.issued + 8 * homeSlots s l.pa) →
    loadHeld s l = true ∧ exec (.loadAtHome id lease) s = .next s) ∧
  (∀ s pa, (homedPa s pa = true → pa / 128 ∈ s.hub → homeSlots s pa = 64) ∧
    (pa / 128 ∉ s.hub → (paKind s pa = .tier1 → homeSlots s pa = 110) ∧ (paKind s pa = .tier2 → homeSlots s pa = 260))) ∧
  (∀ s id lease l, s.loads.find? (fun q => q.id == id) = some l → loadHeld s l = false → l.unit ≠ gridUnit → l.event = none → paKind s l.pa = .device →
    deviceRead s l.pa l.n = none → exec (.loadAtHome id lease) s = .refused .deviceRegister) ∧
  (∀ s d, d < 11 → deviceRead s (tzTable + 16 * d) 16 = some (tzEntry s d)) ∧
  (∀ s c, c < 288 → placeTable + 4 * c + 4 ≤ tzTable ∨ tzTable + 176 ≤ placeTable + 4 * c →
    deviceRead s (placeTable + 4 * c) 4 = some (tabGet 0 s.place c).toNat) ∧
  (∀ s l lease, tabWf {} s.dies = true → tabWf {} s.cores = true → homedPa s l.pa = true → claimedBy s l.pa ≠ some l.die →
    let cs := (getDie (grantCopy s l lease) l.die).copies
    let fresh := l.cached = true ∧ moving s s.nextId l.pa = false
    (¬fresh → cs = (getDie s l.die).copies.filter (fun c => c.line != l.pa / 128) ∧
      ∀ k, dieOf k = l.die → l.pa / 128 ∉ (getCore (grantCopy s l lease) k).l1) ∧
    (fresh → cs.length ≤ 393216 ∧
      (∀ k x, dieOf k = l.die → x ∈ (getCore (grantCopy s l lease) k).l1 → x ∉ (getDie s l.die).copies.map LineCopy.line ∨
        x ∈ cs.map LineCopy.line) ∧
      ∃ c, cs.find? (fun x => x.line == l.pa / 128) = some c ∧
        c.bytes = homeLine s l.vf (l.va / 128 * 128) (l.pa / 128 * 128) ∧ s.ptc + 64 ≤ c.expiry ∧ c.expiry ≤ s.ptc + 4096)) ∧
  (∀ s die line, tabWf {} s.dies = true → tabWf {} s.cores = true →
    let ended := ∃ c ∈ (getDie s die).copies, c.line = line ∧ c.expiry ≤ diePtc s die
    (¬ended → exec (.leaseExpiry die line) s = .next s) ∧
    (ended → ∃ s', exec (.leaseExpiry die line) s = .next s' ∧ s'.mem = s.mem ∧ s'.teams = s.teams ∧
      (getDie s' die).copies = (getDie s die).copies.filter (fun c => c.line != line) ∧
      ∀ k, (getCore s' k).l1 = if dieOf k = die then (getCore s k).l1.filter (fun x => x != line) else (getCore s k).l1))

/-- R159, R161, R170, R171: an atomic is one read, modification and write at its home; its response writes the old value to
its registers and raises CT, a lost one poisons them, and with the last of them the token of their word completes (R36); the
scratchpad's atomics likewise, on the core, at the half of a view that is visible as they execute (R184), after earlier ones on
their words, in a window of three cycles that the grid's schedule and other atomics leave free on its banks. -/
def Obligations.Atomics : Prop :=
  (∀ s id r, Memory.wf s.mem = true → AtHome s id r → isAtomKind r.kind = true →
    let old := accessNum s r.vf r.va r.pa r.n
    accessPoisoned s r.vf r.va r.pa r.n = false →
      ∃ s', exec (.atomicAtHome id) s = .next s' ∧
        WroteAt s s' (homeOf s r.vf r.va r.pa) (numBytes r.n (atomEffect r.kind r.n old r.data r.cmp).1) ∧
        s'.reqs = s.reqs.map (fun q => if q.id = id then
          { q with phase := .applied, old := (atomEffect r.kind r.n old r.data r.cmp).2
                   gwct := max s.ptc (leaseMax s r.die (r.pa / 128) ((r.pa + r.n - 1) / 128)) + 8 } else q)) ∧
  (∀ s id r, AtHome s id r → isAtomKind r.kind = true → accessPoisoned s r.vf r.va r.pa r.n = true →
    exec (.atomicAtHome id) s = .next (reqRecord (updReq s id (fun q => { q with phase := .applied, poison := true })) r 3)) ∧
  (∀ s id r T w, findReq s id = some r → r.kind ≠ .store → r.phase = .applied → r.unit < 98 → At s r.team r.unit T w →
    let regs := fun (f : WUnit → RegDest → WUnit) => r.dests.foldl f w
    (∃ s' w', exec (.atomicResponse id) s = .next s' ∧ getUnit s' r.team r.unit = some w' ∧
      w'.v = (regs (fun x d => if r.poison then poisonReg x d else writeReg x d r.old)).v ∧
      w'.k = (regs (fun x d => if r.poison then poisonReg x d else writeReg x d r.old)).k ∧
      w'.ct = max w.ct r.gwct ∧ w'.atomics = w.atomics - 1 ∧
      w'.pendRegs = w.pendRegs.filter (fun p => p.id != r.id) ∧ s'.reqs = s.reqs.filter (fun q => q.id != r.id) ∧ s'.mem = s.mem ∧
      (∀ b, r.sb = some b → tabWf {} w.toks = true →
        ((∀ q ∈ s.reqs, q.id ≠ r.id → q.team = r.team → q.unit = r.unit → q.sb ≠ some b) →
          (∀ c ∈ s.cores, ∀ q ∈ c.2.satoms, q.team = r.team → q.unit = r.unit → q.sb ≠ some b) →
          getTok w' b = { getTok w b with state := .complete, promise := 0 }) ∧
        ((∃ q ∈ s.reqs, q.id ≠ r.id ∧ q.team = r.team ∧ q.unit = r.unit ∧ q.sb = some b) → getTok w' b = getTok w b))) ∧
    (r.poison = false → (getTenant s T.vf).frctl.getLsbD 4 = false →
      ∃ s' w', exec (.atomicResponseLost id) s = .next s' ∧ getUnit s' r.team r.unit = some w' ∧
        w'.kPoison = (regs poisonReg).kPoison ∧ w'.vPoison = (regs poisonReg).vPoison ∧ w'.v = w.v ∧ w'.k = w.k ∧
        w'.ct = max w.ct (diePtc s r.die + 4104) ∧ s'.mem = s.mem)) ∧
  (∀ s vf va pa n, pa % 2 ^ 16 + n ≤ 2 ^ 16 → accessNum s vf va pa n =
      ((List.range n).map (fun k => (memByte s.mem (homeOf s vf va pa k)).toNat * 256 ^ k)).sum ∧
    (0 < n → (accessPoisoned s vf va pa n = true ↔ ∃ k, k < n ∧ granulePoisoned s (homeOf s vf va pa k / 32) = true))) ∧
  (∀ (ty : Ty) (m x : Val), ty ≠ .f32 →
    atomNew .add ty m x = low (tyWidth ty) (asInt ty (tyWidth ty) m + asInt ty (tyWidth ty) x) ∧
    atomNew .min ty m x = low (tyWidth ty) (min (asInt ty (tyWidth ty) m) (asInt ty (tyWidth ty) x)) ∧
    atomNew .max ty m x = low (tyWidth ty) (max (asInt ty (tyWidth ty) m) (asInt ty (tyWidth ty) x)) ∧
    atomNew .and ty m x = cut (tyWidth ty) m &&& cut (tyWidth ty) x ∧
    atomNew .or ty m x = cut (tyWidth ty) m ||| cut (tyWidth ty) x ∧
    atomNew .xor ty m x = cut (tyWidth ty) m ^^^ cut (tyWidth ty) x ∧ atomNew .exch ty m x = cut (tyWidth ty) x) ∧
  (∀ (m x : Val), atomNew .add .f32 m x =
    (rounded fmt32 .rne false (fvAdd false (fIn fmt32 false (m.setWidth 32).toNat) (fIn fmt32 false (x.setWidth 32).toNat))).1) ∧
  (∀ (ty : Ty) (n old : Nat) (x y : Val), tyWidth ty = 8 * n → old < 256 ^ n →
    atomEffect (.cas ty) n old x y = (if old = (cut (8 * n) x).toNat then (cut (8 * n) y).toNat else old, BitVec.ofNat 128 old)) ∧
  (∀ (op : VecOp) (index : Bool) (n old : Nat) (x y : Val), n ∈ [8, 16, 32, 64] → (index = false → n ≤ 16) →
    (index = true → op = .or ∨ op = .and) → old < 256 ^ n →
    let r := atomEffect (.vec op index) n old x y
    r.1 < 256 ^ n ∧ r.2.toNat < 2 ^ (n / 8) ∧ ∀ j, j < n / 8 →
      let word := fun (z : Nat) => BitVec.ofNat 64 (z / 2 ^ (64 * j))
      let m := word old
      let arg := if index then 1#64 <<< (x.extractLsb' (6 * j) 6).toNat else word x.toNat
      word r.1 = (match op with
        | .or => m ||| arg
        | .and => if index then m &&& ~~~arg else m &&& arg
        | .add => m + arg
        | .max => if m.ult arg then arg else m) ∧
      (r.2.getLsbD j = true ↔ word r.1 ≠ m)) ∧
  (∀ s core id r T w, tabWf {} s.cores = true → tabWf 0 (getCore s core).scratch = true →
    (getCore s core).satoms.find? (fun q => q.id == id) = some r → At s r.team r.unit T w →
    let at_ := fun (i : Nat) => spAddr T (r.addr + i)
    let before := ∃ q ∈ (getCore s core).satoms, q.id < id ∧ ∃ i j, i < q.n ∧ j < r.n ∧ satomAddr s q i / 8 = at_ j / 8
    let old := ((List.range r.n).map (fun i => (tabGet 0 (getCore s core).scratch (at_ i)).toNat * 256 ^ i)).sum
    let new := (atomNew r.op r.ty (BitVec.ofNat 128 old) r.data).toNat
    let banks := (List.range r.n).map (fun i => at_ i / 4 % 32)
    ((before ∨ ∃ b ∈ banks, windowFree s core b = false) → exec (.scratchpadAtomicExecute core id) s = .next s) ∧
    (¬before → (∀ b ∈ banks, windowFree s core b = true) →
      (∀ i, i < r.n → tabGet false (getCore s core).spPoison (at_ i / 32) = false) →
    ∃ s' w', exec (.scratchpadAtomicExecute core id) s = .next s' ∧ s'.mem = s.mem ∧
      (∀ b ∈ banks, ∀ j, j < 3 → bankHeld s' core (s.ptc + j) b = true) ∧
      (∀ i, i < r.n → (∀ j, i < j → j < r.n → at_ j ≠ at_ i) →
        tabGet 0 (getCore s' core).scratch (at_ i) = BitVec.ofNat 8 (new / 256 ^ i)) ∧
      (∀ a, (∀ i, i < r.n → at_ i ≠ a) → tabGet 0 (getCore s' core).scratch a = tabGet 0 (getCore s core).scratch a) ∧
      getUnit s' r.team r.unit = some w' ∧ w'.v = (r.dests.foldl (fun x d => writeReg x d (BitVec.ofNat 128 old)) w).v ∧
      w'.atomics = w.atomics - 1))

/-- R144, R153, R161, R163, R346, R348: posted writes of a source land in order, each when its I/O die's counter has passed the GWCT of
the one before, while the source's link is up and no page of theirs is in transition; a claim waits for the accesses and leases of its pages and then homes them on its die, or is refused with its status; a store
or atomic to a page in transition is refused and tries again; an invalidation drops a
page's translations everywhere; an uncorrectable error marks a granule.
The stop of a write outside the map is the inference of log 33, the order of the statuses of a claim that of log 39; the
ring of a dropped host write is the choice of log 44. -/
def Obligations.PostedWritesClaimsAndMarks : Prop :=
  (∀ s src addr bytes, let q := if 16 ≤ src then 16 else src
    let io := if src < 6 ∨ src = 16 then 9 else 10
    Memory.wf s.mem = true → LinkUp s src → rangeMoves s addr bytes.length = false →
    tabGet 0 s.ioLast q < diePtc s io → bytes ≠ [] → homedPa s addr = true →
    paKind s (addr + bytes.length - 1) ≠ .hole → WholeGranules s addr bytes.length →
    ∃ s', exec (.hostPostedWrite src addr bytes) s = .next s' ∧ Wrote s s' addr bytes ∧ s'.reqs = s.reqs ∧
      (tabWf 0 s.ioLast = true → tabGet 0 s'.ioLast q =
        max s.ptc (leaseMax s 99 (addr / 128) ((addr + bytes.length - 1) / 128)) + 8)) ∧
  (∀ s src addr bytes, let q := if 16 ≤ src then 16 else src
    let io := if src < 6 ∨ src = 16 then 9 else 10
    (diePtc s io ≤ tabGet 0 s.ioLast q ∨ ¬LinkUp s src ∨ rangeMoves s addr bytes.length = true →
      exec (.hostPostedWrite src addr bytes) s = .next s) ∧
    (LinkUp s src → rangeMoves s addr bytes.length = false → tabGet 0 s.ioLast q < diePtc s io → bytes ≠ [] → (paKind s addr = .hole ∨ paKind s addr = .host) →
      exec (.hostPostedWrite src addr bytes) s = .fault .physicalHole)) ∧
  (∀ s id r rel, findReq s id = some r → r.kind = .claim rel → r.phase ≠ .applied →
    let pages := if rel = true then r.pages.filter (fun p => s.claims.any (fun c => c.page == p && c.die == r.die)) else r.pages
    let st := if rel = true ∨ r.n = 0 then 0 else claimStatus s r.die pages
    let s1 := updReq s id (fun q => { q with phase := .applied, old := BitVec.ofNat 128 st, gwct := s.ptc })
    (st ≠ 0 → exec (.claimComplete id) s = .next s1) ∧
    (st = 0 → claimQuiet s r pages = false → exec (.claimComplete id) s = .next s) ∧
    (st = 0 → claimQuiet s r pages = true →
      (rel = true → exec (.claimComplete id) s = .next
        { s1 with claims := s.claims.filter (fun c => !(c.die == r.die && pages.contains c.page)) }) ∧
      (rel = false → r.n = 0 → r.pages = [] → exec (.claimComplete id) s = .next s1) ∧
      (rel = false → r.n ≠ 0 → ∃ new, exec (.claimComplete id) s = .next { s1 with claims := s.claims ++ new } ∧
        (∀ c ∈ new, c.die = r.die ∧ c.vf = r.vf ∧ c.page ∈ pages ∧ ∀ x ∈ s.claims, x.page ≠ c.page) ∧
        ∀ p ∈ pages, ∃ c ∈ s.claims ++ new, c.page = p ∧ c.die = r.die))) ∧
  (∀ s r pages, claimQuiet s r pages = true ↔
    (∀ q ∈ s.reqs, (q.kind = .store ∨ isAtomKind q.kind = true) → q.id < r.id → q.phase ≠ .applied → q.pa / 2 ^ 16 ∉ pages) ∧
    (∀ l ∈ s.loads, l.id < r.id → l.pa / 2 ^ 16 ∉ pages) ∧
    (∀ d ∈ s.dies, ∀ c ∈ d.2.copies, c.line / 512 ∈ pages → c.expiry ≤ s.ptc)) ∧
  (∀ s pa n, 0 < n → (rangeMoves s pa n = true ↔ ∃ k, k < n ∧ moving s s.nextId (pa + k) = true)) ∧
  (∀ s id pa, moving s id pa = true ↔ ∃ q ∈ s.reqs, ∃ rel, q.kind = .claim rel ∧ q.phase ≠ .applied ∧ q.id < id ∧
    pa / 2 ^ 16 ∈ claimPages s q ∧ (rel = true ∨ claimStatus s q.die q.pages = 0)) ∧
  (∀ s id r, findReq s id = some r → moving s r.id r.pa = true → paKind s r.pa ≠ .host → r.kind ≠ .spawn →
    exec (.homeApplyWrite id) s = .next s ∧ exec (.atomicAtHome id) s = .next s) ∧
  (∀ s vf page, ∃ s', exec (.tlbInvalidation vf page) s = .next s' ∧ s'.mem = s.mem ∧ s'.teams = s.teams ∧
    (∀ c ∈ s'.cores, ∀ e ∈ c.2.tlb, ¬(e.vf = vf ∧ e.vpage = page)) ∧
    (∀ d ∈ s'.dies, ∀ e ∈ d.2.tlb, ¬(e.vf = vf ∧ e.vpage = page))) ∧
  (∀ s g, homedPa s (32 * g) = true → tabWf false s.memPoison = true →
    ∃ s', exec (.poisonMarkSet g) s = .next s' ∧ s'.mem = s.mem ∧ ∀ k, granulePoisoned s' k = (decide (k = g) || granulePoisoned s k))

/-! ## The copy engine's steps (chapter 7) -/

namespace Sys2Proof.Claims

/-- A publish of a view would take bytes from a barrier at which a participant has arrived in this cycle (R266). -/
def PublishLate (s : State) (v : ViewRef) : Prop :=
  (∃ core r, (core, r) ∈ publishing s v ∧ BytesLate s r) ∨
  ∃ x, getView s v = some x ∧ ∃ y ∈ x.unpub, ArrivedNow s y.1 y.2.1

end Sys2Proof.Claims

/-- R143, R190, R191, R195, R196: where element (i0, i1, i2, i3) of a tile lies in the window and in the tensor, what 16 bytes of a
CPYB.ld move, where a CPYR's 16 bytes lie in host memory, which both I/O dies reach, and the exact sum of a collective's
contributions.
The bytes past the SIZE of a BUFFER, and of a row past DIM0, are the choices of log 47. -/
def Obligations.CopyFormulas : Prop :=
  (∀ (r : CopyReq) (i0 i1 i2 i3 : Nat),
    let e := r.res
    i0 < boxAt e 0 → i1 < boxAt e 1 → i2 < boxAt e 2 → i3 < boxAt e 3 →
    let row := (i3 * boxAt e 2 + i2) * boxAt e 1 + i1
    let pitch := (boxAt e 0 * e.esize + 15) / 16 * 16
    let x := fun (d i : Nat) => coordAt e r.coords d + i
    let s := Place.sp (r.sp + row * pitch + i0 * e.esize)
    let g := if (0 ≤ x 0 i0 ∧ x 0 i0 < dimAt e 0) ∧ (0 ≤ x 1 i1 ∧ x 1 i1 < dimAt e 1) ∧ (0 ≤ x 2 i2 ∧ x 2 i2 < dimAt e 2) ∧
        (0 ≤ x 3 i3 ∧ x 3 i3 < dimAt e 3)
      then resPlace e (x 0 i0 * strideAt e 0 + x 1 i1 * strideAt e 1 + x 2 i2 * strideAt e 2 + x 3 i3 * strideAt e 3) else .none
    (r.kind = .tileLd → copyPiece r (row * boxAt e 0 + i0) = ⟨e.esize, g, s, e.esize⟩) ∧
    (r.kind = .tileSt → copyPiece r (row * boxAt e 0 + i0) = ⟨e.esize, s, g, e.esize⟩)) ∧
  (∀ s core r T k s1 q, r.kind = .bufLd → r.sh = false → r.res.sp = false → T.views = [] → r.ofs + 16 * k + 16 ≤ r.res.size →
    checkAccess s core r.vf (((r.res.base + (r.ofs + 16 * k) : Nat) : Int) % 2 ^ 64).toNat 16 .rd false = (s1, .ok [q]) → q.n = 16 →
    inTransition s1 q.pa = false → paKind s1 q.pa ≠ .device → accessPoisoned s1 r.vf q.va q.pa 16 = false → T.core = core →
    r.sp + 16 * k + 16 ≤ T.spBytes → tabWf {} s1.cores = true →
    tabWf 0 (getCore s1 core).scratch = true → (getCore s1 core).spPoison = [] →
    ∃ s', movePiece s core r T k = .ok (s', 0) ∧ s'.mem = s1.mem ∧ ∀ j, j < 16 →
      tabGet 0 (getCore s' core).scratch (T.spBase + r.sp + 16 * k + j) = memByte s1.mem (homeOf s1 r.vf q.va q.pa j)) ∧
  (∀ (r : CopyReq) (k : Nat), r.target = 16 ∨ r.target = 17 → r.remote + 16 * k < 2 ^ 55 →
    let va := (r.res.base + (r.ofs + 16 * k)) % 2 ^ 64
    let pa := 2 ^ 56 + (r.target - 16) * 2 ^ 55 + (r.remote + 16 * k)
    (r.kind = .get → copyPiece r k = ⟨16, .host pa, .gl va, 16⟩) ∧ (r.kind = .put → copyPiece r k = ⟨16, .gl va, .host pa, 16⟩) ∧
    cellOf pa = 2 ^ 56 + (r.remote + 16 * k)) ∧
  (∀ (l : List Val),
    credSum false l = (l.map BitVec.toNat).sum % 2 ^ 128 ∧
    (let n := (l.map (fun v => (v.setWidth 64).toInt)).sum
     credSum true l = if (∃ v ∈ l, v.setWidth 64 = BitVec.ofNat 64 (2 ^ 63)) ∨ n < -(2 ^ 63 - 1) ∨ 2 ^ 63 - 1 < n then 2 ^ 63
       else (n % 2 ^ 64).toNat))

/-- R181 to R183, R185, R187, R196, R252: a piece that may move lands in a cycle in which every bank that it reaches is free; the
entries of a list are read so too; a request whose bytes, publish and completion time are done completes; a publish flips a dirty view
once nothing is in flight into it; a waiting block takes MISSED_PROMISE at the promise of a request that is not complete; a fault hands
the rest to the firmware, which completes or fails it; a collective completes, fails or is withdrawn, a shadowed one leaves its view
dirty and its bytes to the publish, and so does that of a saved team at once, while a fault of a saved team's collective fails it with
its record. Bytes are taken from a barrier before the arrivals of a cycle (R266): a step that would take them after one leaves the
state as it is until the next.
Which auto-publishes a publish takes from a team that stops is the inference of log 21. -/
def Obligations.CopySteps : Prop :=
  (∀ s core id r T k s' g, findCopy s core id = some r → getTeam s r.team = some T →
    let q := readEntries s core T r
    pieceReady s core T q k = true → movePiece s core q T k = .ok (s', g) →
    (¬BytesLate s q → exec (.copyBytesLand core id k) s = .next (landPiece s' core q k g)) ∧
    (BytesLate s q → exec (.copyBytesLand core id k) s = .next s)) ∧
  (∀ s core id r T k, findCopy s core id = some r → getTeam s r.team = some T → pieceReady s core T (readEntries s core T r) k = false →
    exec (.copyBytesLand core id k) s = .next s) ∧
  (∀ s core T r k, pieceReady s core T r k = true ↔ ((r.phase = .running ∨ r.phase = .slow) ∧ k < pieceCount r ∧ k ∉ r.landed ∧
    wantsList r = false ∧ mayMove s core r = true ∧ (r.kind = .scatter → k = r.landed.length) ∧
    banksFree s core (pieceBanks T r k) = true)) ∧
  (∀ s core T r, (wantsList r = false → readEntries s core T r = r) ∧
    (wantsList r = true → (∀ k, k < r.count → (tabFind r.got k).isSome ∨ banksFree s core (entryBanks T r k) = true) →
      readEntries s core T r = { r with list := some (readList s T r) }) ∧
    (wantsList r = true → (∃ k, k < r.count ∧ tabFind r.got k = none ∧ banksFree s core (entryBanks T r k) = false) →
      (readEntries s core T r).list = none)) ∧
  (∀ s core id r, findCopy s core id = some r → (r.phase = .published ∨ (r.phase = .landed ∧ r.ap = false)) →
    (r.gwct = 0 ∨ r.gwct < diePtc s (dieOf core)) → ¬BytesLate s r →
    exec (.copyComplete core id) s =
      .next (endCopy (if r.sh = true ∨ globalDest r = false then s else settleBytes s r) core r .complete)) ∧
  (∀ s core id r, findCopy s core id = some r → copyFinished s core r = false → ¬BytesLate s r →
    exec (.copyComplete core id) s = .next (countOwed s core r)) ∧
  (∀ s core id r, findCopy s core id = some r → BytesLate s r →
    exec (.copyComplete core id) s = .next s ∧ exec (.slowPathEnd core id) s = .next s) ∧
  (∀ s v, PublishLate s v → exec (.publish v) s = .next s) ∧
  (∀ s v x, getView s v = some x → (x.count ≠ 0 ∨ publishing s v = []) → exec (.publish v) s = .next s) ∧
  (∀ s t i x, getView s (.scratch t i) = some x → x.count = 0 → publishing s (.scratch t i) ≠ [] →
    ¬PublishLate s (.scratch t i) →
    ∃ s', exec (.publish (.scratch t i)) s = .next s' ∧ s'.mem = s.mem ∧
      getView s' (.scratch t i) = some { bit := x.bit != x.dirty, count := 0, dirty := false, deferred := false, unpub := [] }) ∧
  (∀ s vf b x, tabWf {} s.tenants = true → getView s (.global vf b) = some x → x.count = 0 → publishing s (.global vf b) ≠ [] →
    ¬PublishLate s (.global vf b) →
    (∀ g ∈ (getTenant s vf).gviews, ∀ h ∈ (getTenant s vf).gviews, g.base = h.base → g = h) →
    ∃ s', exec (.publish (.global vf b)) s = .next s' ∧ s'.mem = s.mem ∧
      (getView s' (.global vf b)).getD {} = { bit := x.bit != x.dirty, count := 0, dirty := false, deferred := false, unpub := [] }) ∧
  (∀ s t u sb T w f x, At s t u T w → w.flight = some f → f.entered = true → f.fault = none →
    (f.wait = some (.tokens x false) ∨ (f.wait = none ∧ f.waitKind = .token ∧ ∃ y, f.words[f.idx]? = some y ∧ (ctlOf y).wait.toNat = x)) →
    firstWait (diePtc s (dieOf T.core)) (reqDone s T.core) w x = some (sb, .late) →
    exec (.missedPromise t u sb) s = .next (tokRaise s t u f.idx sb true)) ∧
  (∀ (now : Nat) fin (k : SbTok), tokWait now fin k = .late ↔
    (k.state = .pending ∧ k.copy = true ∧ k.promise ≤ now ∧ fin k.req = false)) ∧
  (∀ s core id, reqDone s core id = true ↔
    ∃ r ∈ (getCore s core).copyQ, r.id = id ∧ (copyFinished s core r = true ∨ spPublishDue s r = true)) ∧
  (∀ s core id r T z, findCopy s core id = some r → getTeam s r.team = some T →
    let q := readEntries s core T r
    q.phase = .running → wantsList q = false → priorStores s q = false →
    copyBlocked s core q = false → matrixBefore (getCore s core) q = false →
    firstStop s core q T = some z →
    exec (.copySlowPath core id) s = .next (completeTok (updCopy s core id (fun _ => { q with phase := .slow, fault := some z }))
      r.team r.unit r.sb id .slow)) ∧
  (∀ s core id r T, findCopy s core id = some r → getTeam s r.team = some T → r.phase = .slow → r.kind ≠ .cred → ¬BytesLate s r →
    let rest := moveRest core T id (List.range (pieceCount r)) s
    (∀ s', rest = .ok s' → exec (.slowPathEnd core id) s = .next s') ∧
    (∀ c a, rest = .error (.fault c a) → exec (.slowPathEnd core id) s = .next (failCopy s core r c a true))) ∧
  (∀ s core id r T, findCopy s core id = some r → getTeam s r.team = some T → r.phase = .slow → r.kind = .cred → ¬BytesLate s r →
    (credMeets s core r = none → exec (.slowPathEnd core id) s =
      .next (updCopy s core id (fun q => { q with phase := .running, fault := none }))) ∧
    (∀ c a, credMeets s core r = some (c, a) → exec (.slowPathEnd core id) s = .next (failCopy s core r c a true))) ∧
  (∀ s core r, (∀ c a, credValues s core r = .error (.fault c a) → credMeets s core r = some (c, a)) ∧
    (∀ l, credValues s core r = .ok l →
      (∀ c a, credWrite s core r none (List.replicate r.count 0) = .error (.fault c a) → credMeets s core r = some (c, a)) ∧
      (∀ z, credWrite s core r none (List.replicate r.count 0) = .ok z → credMeets s core r = none))) ∧
  (∀ s vf group core r, oldestCred s vf group = some (core, r) →
    (¬BytesLate s r → exec (.credWithdrawn vf group) s = .next (endCred s core r .withdrawn id)) ∧
    (BytesLate s r → exec (.credWithdrawn vf group) s = .next s) ∧
    ∀ kind count (l : List (List Val)), (r.phase ≠ .running ∨ scaleOut s = false ∨ BytesLate s r →
        exec (.credInstanceComplete vf group kind count l) s = .next s) ∧
      (priorStores s r = false → copyBlocked s core r = false → r.phase = .running → scaleOut s = true → ¬BytesLate s r →
      (count ≠ r.count ∨ ¬(kind = 1 ↔ r.lg = true) ∨ (∃ c ∈ l, c.length ≠ count) →
        exec (.credInstanceComplete vf group kind count l) s = .next (endCred s core r .failed id)) ∧
      (count = r.count → (kind = 1 ↔ r.lg = true) → (∀ c ∈ l, c.length = count) → ∀ own s' g, credValues s core r = .ok own →
        credWrite (credTouch s core r (anyTeam s r.team)) core r (anyTeam s r.team)
          ((List.range count).map (fun i => credSum r.lg (own.getD i 0 :: l.map (fun c => c.getD i 0)))) = .ok (s', g) →
        exec (.credInstanceComplete vf group kind count l) s = .next (endCred s' core { r with gwct := g } .complete (fun y =>
          credLanded y core r g))))) ∧
  (∀ s core r v b y (go : State → State), (∃ x ∈ s.creds, x.copy.id = r.id) → v = ViewRef.global r.vf b → r.view = some v →
    getView s v = some y → (∀ g ∈ (getTenant s r.vf).gviews, ∀ h ∈ (getTenant s r.vf).gviews, g.base = h.base → g = h) →
    tabWf {} s.tenants = true →
    getView (endCred s core r .complete go) v = some { y with
      dirty := true, count := y.count - 1, deferred := y.deferred || r.ap
      unpub := y.unpub ++ (match r.bv with
        | some k => [(r.team, k, destTotal r)]
        | none => []) }) ∧
  (∀ s core r g,
    (r.view = none → r.sh = false → credLanded s core r g =
      landedAll (updCopy (settleBytes s r) core r.id (fun q => { q with gwct := g, counted := destTotal r })) core
        { r with gwct := g }) ∧
    (∀ v, r.view = some v → r.sh = true → credLanded s core r g =
      landedAll (updCopy (updView s v (fun x => { x with dirty := true })) core r.id (fun q => { q with gwct := g })) core
        { r with gwct := g })) ∧
  (∀ s core r c a, s.creds = [] → scaleOut s = true → ¬BytesLate s r →
    (∀ vf group kind count l, oldestCred s vf group = some (core, r) → priorStores s r = false →
      copyBlocked s core r = false → r.phase = .running → count = r.count → (kind = 1 ↔ r.lg = true) → (∀ y ∈ l, y.length = count) →
      credValues s core r = .error (.fault c a) → exec (.credInstanceComplete vf group kind count l) s =
        .next (completeTok (updCopy s core r.id (fun q => { q with phase := .slow, fault := some (c, a) })) r.team r.unit r.sb r.id .slow))) ∧
  (∀ s core r c a x T, x ∈ s.creds → x.copy.id = r.id → anyTeam s r.team = some T →
    credFault s core r c a = endCred (teamRecord s T 5 (trapNum c) 0 a) core { r with fault := some (c, a) } .failed id)

/-! ## The matrix engine's and the grid's steps (chapters 8 and 9) -/

namespace Sys2Proof.Claims

/-- The feed intervals of `m` A rows (R199). -/
def intervals (ty : Ty) (m : Nat) : Nat :=
  match ty with
  | .f32 => 4 * m
  | .f16 | .bf16 => m
  | .lg6 => m / 4
  | _ => m / 2

/-- The value of an s8 element's pattern. -/
def asS8 (x : Word) : Int := (x.setWidth 8).toInt

/-- Element (a, b) of a shape as the window holds it: inside its aligned piece of four bytes, or zero outside the shape (R202, R203). -/
def elemNow (s : State) (T : Team) (e : ResEntry) (lo : Nat) (ty : Ty) (a b : Nat) : Nat :=
  let x := shapeAddr e lo (elemSize ty) a b
  if a < e.rows ∧ b < e.cols then (winPiece s T (x / 4)).toNat / 256 ^ (x % 4) % 256 ^ elemSize ty else zeroElem ty

/-- A queued matrix instruction that runs, whose time has come and which has reached its banks (R252), or which has begun to write. -/
def MatDue (s : State) (core id : Nat) (o : MatOp) (T : Team) : Prop :=
  findOp s core id = some o ∧ getTeam s o.team = some T ∧ o.started = true ∧ o.feed = 0 ∧ o.ready ≤ s.ptc ∧
    (o.written ≠ 0 ∨ banksReached s core o.reached (opBanks T o) = true) ∧ tabWf {} s.cores = true ∧ tabWf 0 (getMat s core).acc = true ∧ tabWf false (getMat s core).marks = true

/-- The integer nearest a number, ties to the even integer. -/
def NearestEven (x : ℚ) (z : Int) : Prop := |x - z| < 1 / 2 ∨ (|x - z| = 1 / 2 ∧ z % 2 = 0)

/-- A product that enters the grid of 2^W: a mark from 2^(W+110) on, else the nearest integer of p / 2^W (R210). -/
def OnGrid (W : Int) (p : ℚ) (r : Option Int) : Prop :=
  ((2 : ℚ) ^ (W + 110) ≤ |p| → r = none) ∧ (|p| < (2 : ℚ) ^ (W + 110) → ∃ z, r = some z ∧ NearestEven (p / (2 : ℚ) ^ W) z)

/-- Where byte b of element (i, j) of a DRAIN's destination stands in the core's scratchpad, for a team without views. -/
def drainByte (T : Team) (o : MatOp) (i j b : Nat) : Nat := T.spBase + shapeAddr o.shape o.lo (elemSize o.slot.efmt) i j + b

/-- A grid with one region, `d`, that runs in this cycle. -/
def OneRegion (s : State) (core : Nat) (i : GridImage) (d : RegDesc) : Prop :=
  let g := getGrid s core
  g.active = some i ∧ i.regions = [d] ∧ g.lastCycle ≤ s.ptc ∧ gridStalled s core = false ∧ g.halted = false ∧
    g.stopped = false ∧ (getCtx g d).running = true ∧ (getCtx g d).hold = false ∧
    tabWf {} s.cores = true ∧ tabWf {} g.ctxs = true ∧ tabWf {} g.tiles = true

end Sys2Proof.Claims

/-- R199, R201, R210, R213 to R216, R220, R221: a queued instruction starts once nothing earlier that it touches is left, an MMA
with its feed intervals, the last of which is done 128 cycles before its completion; a piece of the window that changes while it waits
is read as one of the values that it has held; at its completion it leaves the queue: ACCZ and CHB clear their elements, CHE leaves the at-rest
values and zeros and raises their flags, an MMA adds its products to the wide elements modulo 2^128 and marks those that a product marks,
with an s8 MMA's products spelled out, WBLD and WBLD.t fill their tile; the ramp limiter's L rises by 4 to 32 after a full window, to 16
under the current clamp, and returns to 4 after 64 bubbles; the interval that ends an idle time begins a window. -/
def Sys2Proof.Claims.MatrixRuns : Prop :=
  (∀ s core id o, findOp s core id = some o → o.started = false → mayStart (getCore s core) o = true →
    exec (.matrixStart core id) s = .next (updOp s core id (fun q =>
      let feed := match o.kind with | .mma _ _ _ _ => intervals o.slot.efmt o.m | _ => 0
      { q with started := true, feed := feed, reached := 0, ready := s.ptc + opCycles o }))) ∧
  (∀ s core id o T, findOp s core id = some o → getTeam s o.team = some T →
    o.written = 0 → banksReached s core o.reached (opBanks T o) = false → exec (.matrixComplete core id) s = .next s) ∧
  (∀ s core id o T, MatDue s core id o T → (∀ res drp intIn, o.kind ≠ .drain res drp intIn) →
    ∃ s', exec (.matrixComplete core id) s = .next s' ∧ s'.mem = s.mem ∧ s'.reqs = s.reqs ∧
      (getMat s' core).queue = (getMat s core).queue.filter (fun q => q.id != id) ∧
      (let a := getMat s core
       let b := getMat s' core
       (o.kind = .accz → ∀ r c, c < 128 → tabGet 0 b.acc (128 * r + c) =
         if o.row ≤ r ∧ r < o.row + o.rows then 0 else tabGet 0 a.acc (128 * r + c)) ∧
       (o.kind = .chb false → o.n ≤ 128 → ∀ i j, i < o.m → j < o.n →
         wideGet b (o.row + 4 * i) j = 0 ∧ tabGet false b.marks (markKey (o.row + 4 * i) j) = false) ∧
       (o.kind = .che → o.n ≤ 128 → ∀ i j, i < o.m → j < o.n →
         tabGet 0 b.acc (128 * (o.row + i) + j) = BitVec.ofNat 32 (cheValue o a i j).1 ∧
         (∀ k, o.m ≤ k → k < 4 * o.m → tabGet 0 b.acc (128 * (o.row + k) + j) = 0)) ∧
       (o.kind = .che → ∀ w, getUnit s o.team o.unit = some w → ∃ w', getUnit s' o.team o.unit = some w' ∧
         ∀ k, k < 8 → (w'.fflags.getLsbD k = true ↔
           (w.fflags.getLsbD k = true ∨ ∃ i j, i < o.m ∧ j < o.n ∧ (cheValue o a i j).2.getLsbD k = true))) ∧
       (∀ na nb ad tile, o.kind = .mma na nb ad tile → o.n ≤ 128 → o.k ≤ 128 →
         o.old = shapePieces s T o.shape o.lo o.slot.efmt o.m o.k → ∀ i j, i < o.m → j < o.n →
         let ty := o.slot.efmt
         let neg := fun (n : Bool) (x : MElem) => match x with
           | .num t m e => MElem.num (t != n) m e
           | .lg t c => .lg (t != n) c
           | y => y
         let p := (List.range o.k).map (fun k => gridProd (lgQ ty) (o.slot.sexp + o.bsexp) o.w
           (neg na (melem ty o.slot.flush (elemNow s T o.shape o.lo ty i k)))
           (neg nb (melem ty false (tabGet 0 (tabGet {} a.tiles tile).elems (128 * k + j)).toNat)))
         let z : Int := if ad then 0 else wideGet a (o.row + 4 * i) j
         (wideGet b (o.row + 4 * i) j : Int) = (z + (p.map (fun t => t.getD 0)).sum) % 2 ^ 128 ∧
         (tabGet false b.marks (markKey (o.row + 4 * i) j) = true ↔
           ((ad = false ∧ tabGet false a.marks (markKey (o.row + 4 * i) j) = true) ∨ none ∈ p))) ∧
       (∀ na nb ad tile, o.kind = .mma na nb ad tile → o.slot.efmt = .s8 → o.n ≤ 128 → o.k ≤ 128 → o.slot.sexp + o.bsexp = o.w →
         o.old = shapePieces s T o.shape o.lo .s8 o.m o.k → ∀ i j, i < o.m → j < o.n →
         let p := ((List.range o.k).map (fun k =>
           asS8 (BitVec.ofNat 32 (elemNow s T o.shape o.lo .s8 i k)) * asS8 (tabGet 0 (tabGet {} a.tiles tile).elems (128 * k + j)))).sum
         let z : Int := if ad then 0 else wideGet a (o.row + 4 * i) j
         (wideGet b (o.row + 4 * i) j : Int) = (z + if na = nb then p else -p) % 2 ^ 128) ∧
       (∀ tile, o.kind = .wbld false tile → o.n ≤ 128 → o.k ≤ 128 → tabWf {} a.tiles = true →
         o.old = shapePieces s T o.shape o.lo o.slot.efmt o.k o.n → ∀ k j, k < o.k → j < o.n →
         tabGet 0 (tabGet {} b.tiles tile).elems (128 * k + j) = BitVec.ofNat 32
           (storedElem o.slot.efmt o.slot.flush (elemNow s T o.shape o.lo o.slot.efmt k j))) ∧
       (∀ tile, o.kind = .wbld true tile → o.n ≤ 128 → o.k ≤ 128 → tabWf {} a.tiles = true →
         o.old = shapePieces s T o.shape o.lo o.slot.efmt o.n o.k → ∀ k j, k < o.k → j < o.n →
         tabGet 0 (tabGet {} b.tiles tile).elems (128 * k + j) = BitVec.ofNat 32
           (storedElem o.slot.efmt o.slot.flush (elemNow s T o.shape o.lo o.slot.efmt j k))))) ∧
  (∀ free w (l : List Word), l ≠ [] → racyPiece free w l ∈ l) ∧
  (∀ (o : MatOp) (m : Matrix) (i j : Nat),
    let mark := tabGet false m.marks (markKey (o.row + 4 * i) j)
    let v := (BitVec.ofNat 128 (wideGet m (o.row + 4 * i) j)).toInt
    (o.slot.efmt = .s32 → mark = true → cheValue o m i j = (0x80000000, flCHOV)) ∧
    (o.slot.efmt = .f32 → mark = true → cheValue o m i j = (0x7FC00000, flCHOV)) ∧
    (o.slot.efmt = .s32 → mark = false → o.slot.wexp = 0 →
      cheValue o m i j = (((max (-2 ^ 31) (min (2 ^ 31 - 1) v)) % 2 ^ 32).toNat, if -2 ^ 31 ≤ v ∧ v ≤ 2 ^ 31 - 1 then 0 else flNV))) ∧
  (∀ s core, tabWf {} s.cores = true →
    let m := getMat s core
    let top := if s.currentCap then 16 else 32
    let cap := min m.rampL top
    (m.windowAt + 32 ≤ s.ptc → ∃ s', exec (.rampWindow core) s = .next s' ∧ s'.mem = s.mem ∧ s'.teams = s.teams ∧
      let l := if cap ≤ m.used then min top (cap + 4) else cap
      getMat s' core = { m with rampL := l, used := 0, windowAt := s.ptc - (s.ptc - m.windowAt) % 32 }) ∧
    (64 ≤ m.bubbleRun → ∃ s', exec (.rampReset core) s = .next s' ∧ s'.mem = s.mem ∧ s'.teams = s.teams ∧
      getMat s' core = { m with rampL := 4, bubbleRun := 0, idle := true }) ∧
    (4 ≤ m.rampL → (getMat (feedCycle s core) core).used ≤ max m.used cap) ∧
    (∀ o, s.ptc < m.windowAt + 32 → m.bubbleRun < 64 → feeding m = some o →
      let fed := m.queue.map (fun q => if q.id = o.id then
          { q with feed := q.feed - 1, reached := 0, ready := if q.feed = 1 then s.ptc + 129 else q.ready } else q)
      (feedReady s core o = true → m.idle = false → m.used < cap →
        (getMat (feedCycle s core) core) = { m with used := m.used + 1, bubbleRun := 0, queue := fed }) ∧
      (feedReady s core o = true → m.idle = true →
        (getMat (feedCycle s core) core) = { m with idle := false, windowAt := s.ptc, used := 1, bubbleRun := 0, queue := fed }) ∧
      (feedReady s core o = false ∨ (m.idle = false ∧ cap ≤ m.used) →
        (getMat (feedCycle s core) core) = { m with bubbleRun := m.bubbleRun + 1 })))

/-- R210, R213, R224: what enters the grid of a chain: NaNs, infinities and NaRs mark, zeros add nothing, and any other product is
the nearest grid point, ties to even, or a mark from 2^(W+110) on; CHE rounds an f32 element once; a DRAIN converts each at-rest
element, dropped, scaled and summed as asked, and writes those inside its shape, each where its shape says, and no other byte; it writes
none while the banks of the next are not free. -/
def Sys2Proof.Claims.MatrixValues : Prop :=
  (∀ (q : Nat) (E W : Int),
    (∀ x, gridProd q E W .mark x = none ∧ gridProd q E W x .mark = none) ∧
    (∀ x, x ≠ .mark → gridProd q E W .zero x = some 0 ∧ gridProd q E W x .zero = some 0) ∧
    (∀ s m e t n k, OnGrid W (numOf (.fin s m e) * numOf (.fin t n k) * (2 : ℚ) ^ E) (gridProd q E W (.num s m e) (.num t n k))) ∧
    (∀ s c t d, OnGrid W ((lgterm (s != t) (c + d) q : ℚ) * (2 : ℚ) ^ (E - 23)) (gridProd q E W (.lg s c) (.lg t d)))) ∧
  (∀ (flush : Bool) (x : Nat),
    (∀ ty ∈ [Ty.f32, .f16, .bf16], melem ty flush x = match fIn (fmtOf ty) flush x with
      | .fin s m e => if m = 0 then .zero else .num s m e
      | _ => .mark) ∧
    (let z := (BitVec.ofNat 8 x).toInt
     melem .s8 flush x = if z = 0 then .zero else .num (z < 0) z.natAbs 0) ∧
    (melem .n8 flush x = if x % 256 = 0 then .zero else .num false (x % 256) 0) ∧
    (∀ ty ∈ [Ty.lg6, .lg8], melem ty flush x = match lgDecode (lgQ ty) x with
      | .nar => .mark
      | .zero => .zero
      | .val s c => .lg s c)) ∧
  (∀ (o : MatOp) (m : Matrix) (i j : Nat),
    tabGet false m.marks (markKey (o.row + 4 * i) j) = false →
    let v := (BitVec.ofNat 128 (wideGet m (o.row + 4 * i) j)).toInt
    (o.slot.efmt = .f32 → cheValue o m i j = fRound fmt32 o.slot.rmode o.slot.flush (.fin (v < 0) v.natAbs o.slot.wexp)) ∧
    (o.slot.efmt = .s32 →
      let r := rndShift o.slot.rmode (v < 0) v.natAbs (-o.slot.wexp)
      let x : Int := if v < 0 then -(r.1 : Int) else r.1
      let y := max (-2 ^ 31) (min (2 ^ 31 - 1) x)
      cheValue o m i j = ((y % 2 ^ 32).toNat, (if x = y then 0 else flNV) ||| (if r.2 then flNX else 0)))) ∧
  (∀ (o : MatOp) (drp : Bool) (seed acc resid i j : Nat), o.slot.sexp = 0 →
    let z := (BitVec.ofNat 32 acc).toInt
    let dropped := drp = true ∧ o.slot.dkeep ≠ 0
    let kept := dropKeep seed (o.org % 2 ^ 32 + i) (o.org / 2 ^ 32 + j) o.slot.dkeep
    let out := fun (res intIn : Bool) => drainElem o drp res intIn seed acc resid i j
    let clamped := fun (lo hi x : Int) => (((max lo (min hi x)) % 2 ^ 32).toNat, if lo ≤ x ∧ x ≤ hi then (0 : Flags) else flNV)
    let fin := fun (x : FV) => fRound (fmtOf o.slot.efmt) o.slot.rmode o.slot.flush x
    (¬dropped →
      (o.slot.efmt = .s8 → out false true = clamped (-128) 127 z) ∧ (o.slot.efmt = .n8 → out false true = clamped 0 255 z) ∧
      (o.slot.efmt = .s32 → out false true = clamped (-2 ^ 31) (2 ^ 31 - 1) z) ∧
      (o.slot.efmt = .n32 → out false true = clamped 0 (2 ^ 32 - 1) z) ∧
      (∀ sig, fDecode fmt32 acc = .nan sig → o.slot.efmt ∈ [.s8, .n8, .s32, .n32] → out false false = (0, flNV)) ∧
      (∀ s m e, fDecode fmt32 acc = .fin s m e → o.slot.efmt ∈ [.f32, .f16, .bf16] → out false false = fin (.fin s m e)) ∧
      (o.slot.efmt ∈ [.f32, .f16, .bf16] → out false true = fin (.fin (z < 0) z.natAbs 0)) ∧
      (o.slot.efmt ∈ [.lg6, .lg8] → out false false = lgenc (fDecode fmt32 acc) (lgQ o.slot.efmt) 0) ∧
      (∀ x, (fvAdd false (fDecode fmt32 acc) (fIn fmt32 o.slot.flush resid)) = (x, 0) → o.slot.efmt = .f32 → o.slot.rmode = .rne →
        (∀ sig, x ≠ .nan sig) → out true false = fRound fmt32 .rne o.slot.flush x)) ∧
    (dropped → kept = false → o.slot.efmt ∈ [.f32, .f16, .bf16, .s8, .n8, .s32, .n32] →
      out false false = (0, 0) ∧ out false true = (0, 0)) ∧
    (∀ x, dropped → kept = true → fvMul (fDecode fmt32 acc) (fDecode fmt32 o.slot.dmult.toNat) = (x, 0) → o.slot.efmt = .f32 →
      o.slot.rmode = .rne → (∀ sig, x ≠ .nan sig) → out false false = fRound fmt32 .rne o.slot.flush x)) ∧
  (∀ s core id o T res drp intIn, MatDue s core id o T → o.kind = .drain res drp intIn → T.core = core → T.views = [] →
    (getCore s core).spPoison = [] → tabWf 0 (getCore s core).scratch = true →
    let es := elemSize o.slot.efmt
    let ended := fun (s' : State) => s'.mem = s.mem ∧ s'.reqs = s.reqs ∧ (getMat s' core).acc = (getMat s core).acc ∧
      (getMat s' core).marks = (getMat s core).marks ∧ (getMat s' core).tiles = (getMat s core).tiles
    (o.written = 0 → (∀ i j, i < o.m → j < o.n → banksFree s core (drainBanks T o i j) = true) →
      (∀ i j i' j', i < o.m → j < o.n → i' < o.m → j' < o.n → inShape o.shape i j = true → inShape o.shape i' j' = true →
        (i, j) ≠ (i', j') → ∀ b b', b < es → b' < es → drainByte T o i j b ≠ drainByte T o i' j' b') →
      ∃ s', exec (.matrixComplete core id) s = .next s' ∧ ended s' ∧
        (getMat s' core).queue = (getMat s core).queue.filter (fun q => q.id != id) ∧
        (∀ i j b, i < o.m → j < o.n → inShape o.shape i j = true → b < es →
          (tabGet 0 (getCore s' core).scratch (drainByte T o i j b)).toNat =
            (drainElem o drp res intIn T.lrec.seed.toNat (tabGet 0 (getMat s core).acc (128 * (o.row + i) + j)).toNat
              (readElems s T o.shape2 o i j) i j).1 / 256 ^ b % 256) ∧
        (∀ a, (∀ i j b, i < o.m → j < o.n → inShape o.shape i j = true → b < es → a ≠ drainByte T o i j b) →
          tabGet 0 (getCore s' core).scratch a = tabGet 0 (getCore s core).scratch a)) ∧
    (o.written < o.m * o.n → banksFree s core (drainBanks T o (o.written / o.n) (o.written % o.n)) = false →
      ∃ s', exec (.matrixComplete core id) s = .next s' ∧ ended s' ∧ (getCore s' core).scratch = (getCore s core).scratch ∧
        findOp s' core id = some o))

/-- R199, R201, R210, R213 to R216, R220, R221: a queued instruction starts once nothing earlier that it touches is
left, an MMA with its feed intervals, the last of which is done 128 cycles before its completion; a piece of the
window that changes while it waits is read as one of the values that it has held; at its completion it leaves the
queue: ACCZ and CHB clear their elements, CHE leaves the at-rest values and zeros and raises their flags, an MMA adds
its products to the wide elements modulo 2^128 and marks those that a product marks, with an s8 MMA's products spelled
out, WBLD and WBLD.t fill their tile; the ramp limiter's L rises by 4 to 32 after a full window, to 16 under the
current clamp, and returns to 4 after 64 bubbles; the interval that ends an idle time begins a window. R210, R213,
R224: what enters the grid of a chain: NaNs, infinities and NaRs mark, zeros add nothing, and any other product is the
nearest grid point, ties to even, or a mark from 2^(W+110) on; CHE rounds an f32 element once; a DRAIN converts each
at-rest element, dropped, scaled and summed as asked, and writes those inside its shape, each where its shape says,
and no other byte; it writes none while the banks of the next are not free.
Which of the values of a piece that changes is read is the choice of log 10, the cycle in which a bank is reached that of
log 45, and the beginning of a window of the ramp the inference of log 48. -/
def Obligations.MatrixSteps : Prop :=
  Sys2Proof.Claims.MatrixRuns ∧ Sys2Proof.Claims.MatrixValues

/-- R239, R243: a region whose operation waits freezes whole; one that does not moves on by a slot, and at its interval's
end begins the next; the grid runs one cycle per PTC cycle, and while it is halted or stopped only the count of its cycles moves; a
lane-wise operation writes DST and its tile's latch, and no other register, accumulator, input, tile, context, stream engine or byte of
memory. -/
def Sys2Proof.Claims.GridCycles : Prop :=
  (∀ s core, (getGrid s core).active = none ∨ s.ptc < (getGrid s core).lastCycle ∨ gridStalled s core = true → exec (.gridCycle core) s = .next s) ∧
  (∀ s core i, tabWf {} s.cores = true → (getGrid s core).active = some i → (getGrid s core).lastCycle ≤ s.ptc →
    gridStalled s core = false → ((getGrid s core).halted = true ∨ (getGrid s core).stopped = true) →
    ∃ s', exec (.gridCycle core) s = .next s' ∧ s'.mem = s.mem ∧ s'.teams = s.teams ∧ s'.reqs = s.reqs ∧ s'.loads = s.loads ∧
      (∀ c, c ≠ core → getCore s' c = getCore s c) ∧ (getCore s' core).scratch = (getCore s core).scratch ∧
      getGrid s' core = { (getGrid s core) with lastCycle := s.ptc + 1 }) ∧
  (∀ s core i d, OneRegion s core i d →
    let g := getGrid s core
    let c := getCtx g d
    let frozen := ∃ y ∈ dueOps i 0 c, opFreezes s.ptc g y.1 y.2 = true
    ∃ s', exec (.gridCycle core) s = .next s' ∧ (getGrid s' core).lastCycle = s.ptc + 1 ∧
      (let c' := getCtx (getGrid s' core) d
       (frozen → c'.slot = c.slot ∧ c'.iter = c.iter ∧ c'.valid = c.valid ∧ c'.remaining = c.remaining ∧ s'.mem = s.mem ∧
         ∀ t, (getTile (getGrid s' core) t).regs = (getTile g t).regs ∧ (getTile (getGrid s' core) t).accs = (getTile g t).accs ∧
           (getTile (getGrid s' core) t).latch = (getTile g t).latch ∧ (getTile (getGrid s' core) t).ins = (getTile g t).ins) ∧
       (¬frozen → c.slot + 1 < d.ii → c'.slot = c.slot + 1 ∧ c'.iter = c.iter ∧ c'.valid = c.valid ∧ c'.remaining = c.remaining) ∧
       (¬frozen → d.ii ≤ c.slot + 1 →
         let nb := if 0 < c.remaining then 1 else 0
         c'.slot = 0 ∧ c'.iter = c.iter + BitVec.ofNat 32 nb ∧ c'.remaining = c.remaining - nb))) ∧
  (∀ s core g0 i k d t (o : GOp), 1 ≤ o.op → o.op ≤ 10 → o.dst < 16 → tabWf {} s.cores = true → tabWf {} (getGrid s core).tiles = true →
    tabWf 0 (getTile (getGrid s core) t).regs = true →
    let lane := fun l => gLane i.slot o ((getCtx g0 d).iter - 1 - BitVec.ofNat 32 o.stage) ((srcVal s.ptc g0 i t o.a).getD l 0)
      ((srcVal s.ptc g0 i t o.b).getD l 0) ((tileReg (getTile g0 t) o.dst).getD l 0)
    let g := getGrid s core
    let g' := getGrid (fireOp s core g0 i k d t o) core
    tileReg (getTile g' t) o.dst = [lane 0, lane 1, lane 2, lane 3] ∧ (getTile g' t).latch = [lane 0, lane 1, lane 2, lane 3] ∧
    (∀ n, n < 16 → n ≠ o.dst → tileReg (getTile g' t) n = tileReg (getTile g t) n) ∧
    (∀ k, k ≠ t → getTile g' k = getTile g k) ∧ g'.ctxs = g.ctxs ∧ g'.engs = g.engs ∧ (getTile g' t).accs = (getTile g t).accs ∧
    (getTile g' t).ins = (getTile g t).ins ∧ (fireOp s core g0 i k d t o).mem = s.mem)

/-- R236, R247, R249, R252, R254, R263: a load group lands in its reply input or is discarded; an STRMB issues its next group; an
image that passes its checks is staged and one that does not is discarded with GRID_CONFIG; an idle grid takes the staged
image; an engine's head command opens or closes it, or ends once nothing of it is left. -/
def Sys2Proof.Claims.GridSteps : Prop :=
  (∀ s core eng x, tabWf {} s.cores = true → tabWf {} (getGrid s core).engs = true → tabWf {} (getGrid s core).tiles = true →
    (getEng (getGrid s core) eng).groups.find? (fun q => !q.store) = some x → x.missing = 0 →
    (x.sp = true → x.entered + 2 ≤ s.ptc) →
    let g := getGrid s core
    let live := genLive g x.gen = true ∧ g.stopped = false
    let q := fun (g : Grid) (t n : Nat) => tabGet [] (getTile g t).ins n
    (¬(live ∧ ∃ t n, x.rpl = some (t, n) ∧ 16 ≤ (q g t n).length) →
      ∃ s', exec (.streamReplyLand core eng) s = .next s' ∧ s'.mem = s.mem ∧
        (getEng (getGrid s' core) eng).groups = (getEng g eng).groups.filter (fun y => y.id != x.id) ∧
        (∀ t n, x.rpl = some (t, n) → live → tabWf [] (getTile g t).ins = true →
          q (getGrid s' core) t n = q g t n ++ [(s.ptc + 1, x.data)]) ∧
        (x.rpl = none ∨ ¬live → (getGrid s' core).tiles = g.tiles))) ∧
  (∀ s core eng c start stride o t, (getEng (getGrid s core) eng).cmds.head? = some c → c.kind = .drive start stride →
    let g := getGrid s core
    genLive g c.gen = true → 0 < c.left → gridStalled s core = false → (getEng g eng).opened = some o → o.store = false →
    o.rpl = some t → (outGroups s.ptc (getEng g eng)).length < 64 → (∀ y ∈ (getEng g eng).groups, y.entered ≠ s.ptc) →
    (getEng g eng).faulted = false → o.res.sp = false →
    let at_ := fun j => (start : Int) + ((c.done * (if o.w = 8 then 2 else 4) + j : Nat) : Int) * stride
    exec (.strmbGroupIssue core eng) s = .next (enterGroup s core eng o c.id false
      (if o.w = 8 then [at_ 0, at_ 1] else [at_ 0, at_ 1, at_ 2, at_ 3]) [0, 0, 0, 0] false).1) ∧
  (∀ s core x T, (getGrid s core).staging = some x → ((getGrid s core).holder.bind (getTeam s)) = some T → gridStalled s core = false →
    (∀ i, checkImage s T.vf T.pages.length x trapNum = .ok i → exec (.imageStaging core) s =
      .next (updGrid (touchImage s T x) core (fun g => { g with staging := none, staged := some i }))) ∧
    (∀ e, checkImage s T.vf T.pages.length x trapNum = .error e → exec (.imageStaging core) s =
      .next (raiseBridle (discardStaged (touchImage s T x) core) core .gridConfig e))) ∧
  (∀ s core i, tabWf {} s.cores = true → tabWf {} (getGrid s core).engs = true → (getGrid s core).staged = some i →
    gridStalled s core = false → (getGrid s core).cmds = [] →
    ((getGrid s core).active = none ∨ (getGrid s core).stopped = true ∨ gridDone s.ptc (getGrid s core) = true) →
    ∃ s', exec (.configActivation core) s = .next s' ∧ s'.mem = s.mem ∧
      (let g := getGrid s' core
       g.active = some i ∧ g.staged = none ∧ g.halted = false ∧ g.stopped = false ∧ g.ctxs = [] ∧ g.tiles = [] ∧ g.budget = none ∧
       g.past = (getGrid s core).past ++ ((getGrid s core).active.map GridImage.gen).toList ∧
       ∀ e o, (getEng g e).opened = some o → o.gen = i.gen)) ∧
  (∀ s core eng c, tabWf {} s.cores = true → tabWf {} (getGrid s core).engs = true →
    (getEng (getGrid s core) eng).cmds.head? = some c → genState (getGrid s core) c.gen ≠ .staged →
    genLive (getGrid s core) c.gen = true → gridStalled s core = false →
    let g := getGrid s core
    let popped := (getEng g eng).cmds.filter (fun k => k.id != c.id)
    (∀ store w res req rpl, c.kind = .open store w res req rpl → openFails g eng req rpl = false →
      ∃ s', exec (.streamCommandComplete core eng) s = .next s' ∧ s'.mem = s.mem ∧
        let q : StreamOpen := { store := store, w := w, res := res, req := req, rpl := rpl, gen := c.gen }
        getEng (getGrid s' core) eng = { getEng g eng with faulted := false, cmds := popped, opened := some q }) ∧
    (c.kind = .close → ∃ s', exec (.streamCommandComplete core eng) s = .next s' ∧ s'.mem = s.mem ∧
      getEng (getGrid s' core) eng = { getEng g eng with faulted := false, cmds := popped, opened := none }) ∧
    ((c.kind = .permits ∨ ∃ a b, c.kind = .drive a b) → c.left = 0 → (∀ y ∈ outGroups s.ptc (getEng g eng), y.cmd ≠ c.id) → c.gwct = 0 →
      exec (.streamCommandComplete core eng) s = .next (popCmd s core eng c) ∧
      getEng (getGrid (popCmd s core eng c) core) eng = { getEng g eng with cmds := popped }))

/-- R239, R243: a region whose operation waits freezes whole; one that does not moves on by a slot, and at its
interval's end begins the next; the grid runs one cycle per PTC cycle, and while it is halted or stopped only the
count of its cycles moves; a lane-wise operation writes DST and its tile's latch, and no other register, accumulator,
input, tile, context, stream engine or byte of memory. R236, R247, R249, R252, R254, R263: a load group lands in its
reply input or is discarded; an STRMB issues its next group; an image that passes its checks is staged and one that
does not is discarded with GRID_CONFIG; an idle grid takes the staged image; an engine's head command opens or closes
it, or ends once nothing of it is left.
What a stream does at a hidden half is the choice of log 45. -/
def Obligations.TheGridRuns : Prop :=
  Sys2Proof.Claims.GridCycles ∧ Sys2Proof.Claims.GridSteps

/-! ## Waits that end, the watchdog and the time zones (chapter 10) -/

namespace Sys2Proof.Claims

/-- A unit's block stands at the word `(o, c, pl)`, which waits with `w` (R271). -/
def WaitsAt (s : State) (t u : Nat) (i : Iss) (w : Wait) (o : Op) (c : Ctl) (pl : Payload) : Prop :=
  issOf s t u = some i ∧ i.f.fault = none ∧ i.f.wait = some w ∧ wordOf i = some (o, c, pl)

/-- The wait is over. -/
def resumed (s : State) (i : Iss) : State := updFlight s i.t i.u (fun f => { f with wait := none, waitKind := .none })

end Sys2Proof.Claims

/-- R264 to R271, R274, R281: a wait ends when its condition holds, with its acquire part where it has one, and the word then
completes; while the condition does not hold nothing happens. A WAITX ends by a read that meets its condition, sleeps 4,096
cycles more after one that does not, and traps at its deadline; each read sets its unit's access bit, and one of a page in transition
tries again (R163). -/
def Sys2Proof.Claims.WaitsEnd : Prop :=
  (∀ s t u i w o c pl, WaitsAt s t u i w o c pl →
    let now := diePtc s (dieOf i.T.core)
    let first := fun m => firstWait now (reqDone s i.T.core) i.w m
    let ends := fun (p : Bool) (acq : Bool) => exec (.waitEnd t u) s = .next (if p then
      completeNone (if acq then updFlight (resumed s i) t u (fun f => { f with acq := f.idx }) else resumed s i) i o c pl else s)
    (∀ b, w = .barrier b →
      ends (!((tabGet {} i.w.arrivals b).flag && (tabGet {} i.w.arrivals b).gen == (getBar i.T b).g)) true) ∧
    (∀ r g e ph, w = .ring r g e ph → ends (tabGet false (if e then i.T.eph else i.T.fph) (8 * r + g) == ph) true) ∧
    (∀ n, w = .sleep n → ends (decide (n ≤ now)) false) ∧
    (∀ cond n, w = .grid cond n → ends (gwaitHolds s.ptc (getGrid s i.T.core) cond n) false) ∧
    (∀ m, w = .tokens m true →
      exec (.waitEnd t u) s = .next (if ∀ b ∈ maskBits m, tokBusy now (getTok i.w b) = false then
        completeNone (updUnit (resumed s i) t u (fun x => clearFailed x m)) i o c pl else s)) ∧
    (∀ m, w = .tokens m false →
      (first m = none → ends true false) ∧
      (∀ b, first m = some (b, .wait) → ends false false) ∧
      (∀ b, first m = some (b, .late) → exec (.waitEnd t u) s = .next (tokRaise s t u i.f.idx b true)) ∧
      (∀ b, first m = some (b, .failed) → exec (.waitEnd t u) s = .next (tokRaise s t u i.f.idx b false))) ∧
    (∀ n k p, w = .realign n k → pl = .s p → o = .realign →
      let r := (max n k + 7) / 8 * 8
      exec (.waitEnd t u) s = .next (if r ≤ s.ptc then updFlight
        (complete (resumed s i) i .realign c (.s p) (toFiring (fun _ _ _ _ => BitVec.ofNat 128 ((r - n) % 2 ^ 64)) i .realign c (.s p)) 0 0)
        t u (fun f => { f with turn := s.ptc }) else s))) ∧
  (∀ s t u i o c pl a pa wide homed cond v dl next touched,
    WaitsAt s t u i (.word a pa wide homed cond v dl next touched) o c pl → (next = 0 ∨ touched = true ∨ next ≤ s.ptc) →
    let n := if wide then 8 else 4
    let src := homeAddr s i.T.vf a pa
    let m := memNum s.mem src n
    let holds := (cond = 0 → m = v) ∧ (cond = 1 → m ≠ v) ∧ (cond = 2 → v ≤ m) ∧ (3 ≤ cond → m &&& v ≠ 0)
    let open_ := ∀ d, dl = some d → next = 0 ∨ diePtc s (dieOf i.T.core) < d
    let s1 := touch s i.T.vf i.T.slot src
    (inTransition s pa = true → exec (.waitxReread t u) s = .next s) ∧
    (inTransition s pa = false → open_ → rangePoisoned s src n = true → exec (.waitxReread t u) s =
      .next (raise (resumed s1 i) t u i.f.idx 0 ⟨.dataPoison, .globalMem, BitVec.ofNat 64 a, i.f.addr⟩)) ∧
    (inTransition s pa = false → open_ → rangePoisoned s src n = false → paKind s pa ≠ .device →
      (holds → exec (.waitxReread t u) s = .next (complete (updFlight (resumed s1 i) t u (fun f => { f with acq := f.idx })) i o c pl
        (toFiring (fun _ _ _ _ => BitVec.ofNat 128 m) i o c pl) 0 0)) ∧
      (¬holds → exec (.waitxReread t u) s =
        .next (waiting s1 i (.word a pa wide homed cond v dl (s.ptc + 4096) false) .external))) ∧
    (∀ d, dl = some d → next ≠ 0 → d ≤ diePtc s (dieOf i.T.core) → exec (.externalTimeout t u) s =
      .next (raise (resumed s i) t u i.f.idx 0 ⟨.externalTimeout, .globalMem, BitVec.ofNat 64 a, i.f.addr⟩)))

/-- R268, R272, R273, R275: a stage flip changes its one phase bit, in order and after its release part; at its interval the
watchdog, which counts only while every live unit waits on an internal condition and issues nothing, aborts every waiting block with
WATCHDOG and the kind of its wait and leaves barriers and rings as they were; a
reroute writes the latencies of one pair of dies and sets their RR bits. -/
def Sys2Proof.Claims.FlipsWatchdogAndReroute : Prop :=
  (∀ s t u T w x rest, At s t u T w → w.flips = x :: rest → w.atomics = 0 → releaseDone s t u T w x.scope = true →
    tabWf false T.fph = true → tabWf false T.eph = true →
    ∃ s' T' w', exec (.stageFlip t u) s = .next s' ∧ s'.mem = s.mem ∧ s'.reqs = s.reqs ∧ getTeam s' t = some T' ∧
      tabFind T'.units u = some w' ∧ w' = { w with flips := rest } ∧
      (∀ k, tabGet false T'.fph k = (tabGet false T.fph k != (!x.eph && k == 8 * x.ring + x.stage))) ∧
      (∀ k, tabGet false T'.eph k = (tabGet false T.eph k != (x.eph && k == 8 * x.ring + x.stage))) ∧ T'.bars = T.bars) ∧
  (∀ s t T, getTeam s t = some T → 2 ^ T.wdog ≤ T.wd → teamStuck s t T = true → tabSorted T.units = true →
    (∀ x ∈ T.units, x.2.tm = false ∧ tabWf {} x.2.splits = true) →
    ∃ s' T', exec (.watchdog t) s = .next s' ∧ s'.mem = s.mem ∧ getTeam s' t = some T' ∧ T'.wd = 0 ∧ T'.bars = T.bars ∧
      T'.fph = T.fph ∧ T'.eph = T.eph ∧
      ∀ u w f n, tabFind T.units u = some w → w.done = false → w.flight = some f → oldestFrag w = some n →
        ∃ w' e, tabFind T'.units u = some w' ∧ w'.flight = none ∧ (getSplit w' n).traps = (getSplit w n).traps ++ [e] ∧
          e.code = .watchdog ∧ e.source = .engine ∧ e.info = (match f.waitKind with
            | .barrier => (1 : BitVec 64) | .ring => 2 | .token => 3 | .gwait => 4 | .queue => 5 | _ => 0) ∧
          w'.v = w.v ∧ w'.k = w.k ∧ w'.q = w.q) ∧
  (∀ s t T, getTeam s t = some T → (T.wd < 2 ^ T.wdog ∨ teamStuck s t T = false) → exec (.watchdog t) s = .next s) ∧
  (∀ s t T, teamStuck s t T = true → T.retired = false ∧ T.term = none ∧ (∀ x ∈ T.units, x.2.issuedAt ≠ s.ptc + 1) ∧
    (∀ x ∈ T.units, x.2.done = false → ∃ f, x.2.flight = some f ∧ f.waitKind ≠ .none ∧ f.waitKind ≠ .external) ∧
    (∀ r ∈ (getCore s T.core).copyQ, r.team ≠ t) ∧ ∀ o ∈ (getMat s T.core).queue, o.team ≠ t) ∧
  (∀ s t T, T.retired = false → T.term = none → (∃ x ∈ T.units, x.2.done = false) →
    (∀ x ∈ T.units, x.2.done = false → ∃ f, x.2.flight = some f ∧ f.waitKind ≠ .none ∧ f.waitKind ≠ .external) →
    (∀ x ∈ T.units, x.2.issuedAt ≠ s.ptc + 1) → (∀ r ∈ (getCore s T.core).copyQ, r.team ≠ t) →
    (∀ o ∈ (getMat s T.core).queue, o.team ≠ t) → (getGrid s T.core).holder ≠ some t → teamStuck s t T = true) ∧
  (∀ s a b x y, a ≠ b → a < 11 → b < 11 → 0 < x → x < 256 → 0 < y → y < 256 → tabWf 0 s.lat = true → tabWf false s.rr = true →
    ∃ s', exec (.linkReroute a b x y) s = .next s' ∧ s'.mem = s.mem ∧ s'.teams = s.teams ∧ s'.ofs = s.ofs ∧
      (∀ k, tabGet 0 s'.lat k = if k = 16 * a + b then BitVec.ofNat 8 x else if k = 16 * b + a then BitVec.ofNat 8 y else tabGet 0 s.lat k) ∧
      (∀ k, tabGet false s'.rr k = (decide (k = 16 * a + b ∨ k = 16 * b + a) || tabGet false s.rr k)))

/-- R264 to R271, R274, R281: a wait ends when its condition holds, with its acquire part where it has one, and the
word then completes; while the condition does not hold nothing happens. A WAITX ends by a read that meets its
condition, sleeps 4,096 cycles more after one that does not, and traps at its deadline; each read sets its unit's
access bit, and one of a page in transition tries again (R163). R268, R272, R273, R275: a stage flip changes its one
phase bit, in order and after its release part; at its interval the watchdog, which counts only while every live unit
waits on an internal condition and issues nothing, aborts every waiting block with WATCHDOG and the kind of its wait
and leaves barriers and rings as they were; a reroute writes the latencies of one pair of dies and sets their RR bits.
What a view on ALT falls back to is the choice of log 47. -/
def Obligations.WaitsFlipsAndTheWatchdog : Prop :=
  Sys2Proof.Claims.WaitsEnd ∧ Sys2Proof.Claims.FlipsWatchdogAndReroute

/-! ## Launches (chapter 11) -/

/-- R283, R284, R294, R295, R310: what an accepted record has passed, and how a record of a ring is taken: it is accepted with the
tenant's next sequence number or refused with its reason, and the ready store never holds more than 64, and once it is full every region that is woken waits for room; a spawned record is judged
by its pieces as they were read. -/
def Sys2Proof.Claims.RecordsAndTheReadyStore : Prop :=
  (∀ s vf ring x r, checkRec s vf ring x = .ok r →
    r.entry % 16 = 0 ∧ r.bentry % 16 = 0 ∧ 1 ≤ r.teams ∧ r.teams ≤ 16777215 ∧ 1 ≤ r.warps ∧ r.warps ≤ 16 ∧
    r.ncopy + r.nmat ≤ r.warps ∧ r.gpages ≤ 4 ∧ (r.gpages ≠ 0 → r.bentry ≠ 0) ∧ 16 ≤ r.regs ∧ r.regs ≤ 512 ∧ r.regs % 16 = 0 ∧
    r.spad ≤ 128 ∧ 1 ≤ r.lastn ∧ r.lastn ≤ 128 ∧ r.thresh ≤ 100 ∧ 1 ≤ r.rcount ∧ r.rcount ≤ 65536 ∧ r.rtab % 64 = 0 ∧
    r.region % 128 = 0 ∧ r.done % 8 = 0 ∧ r.warps * r.regs * 512 ≤ 524288 ∧ regionUsable s vf r.region = true ∧
    inRevoked s vf r.entry = false ∧ r.vranges.length = r.views.length ∧ ∀ v ∈ r.vranges, v.1 + 2 * v.2 ≤ 4096 * r.spad) ∧
  (∀ s vf ring x,
    (recFieldsOk x = false → checkRec s vf ring x = .error 2) ∧
    (recFieldsOk x = true → recSlotsOk x = false → checkRec s vf ring x = .error 1) ∧
    (recFieldsOk x = true → recSlotsOk x = true → 524288 < (recOf x).warps * (recOf x).regs * 512 → checkRec s vf ring x = .error 3)) ∧
  (∀ s vf b h x, tabWf {} s.tenants = true → homePieces s vf (ringSlot b h) 16 = .ok x →
    let V := getTenant s vf
    let V' := getTenant (takeRecord s vf b h) vf
    (∀ r, checkRec s vf b.addr x = .ok r → ∃ l, V'.ready = V.ready ++ [l] ∧ l.seq = V.nextSeq.toNat ∧ l.lrec = r ∧
      l.teams = [] ∧ l.status = 0 ∧ l.after = tabGet 0 s.ioLast 16 ∧ V'.nextSeq = V.nextSeq + 1) ∧
    (∀ k, checkRec s vf b.addr x = .error k → V'.ready = V.ready ∧ V'.nextSeq = V.nextSeq)) ∧
  (∀ s vf b n h, tabWf {} s.tenants = true → (getTenant s vf).ready.length ≤ 64 →
    (getTenant (takeRecords vf b n h s) vf).ready.length ≤ 64) ∧
  (∀ s vf r, tabWf {} s.tenants = true → 63 ≤ (getTenant s vf).ready.length →
    ∀ y ∈ (getTenant (acceptRec s vf r) vf).scans, y.hold = true) ∧
  (∀ s vf region va seen z, homePieces s vf va 16 = .ok z →
    let r := spawnRecord s vf region va seen
    let x := mixPieces (seen.take 16) z
    (under s vf region (bytesOf x 48 8) = false → r.2 = 6) ∧
    (under s vf region (bytesOf x 48 8) = true → storeFull s vf = true → r.2 = 5) ∧
    (under s vf region (bytesOf x 48 8) = true → storeFull s vf = false →
      (∀ k, checkRec s vf 0 x = .error k → r.2 = k) ∧
      (∀ y, checkRec s vf 0 x = .ok y → r.2 = (getTenant s vf).nextSeq.toNat * 2 ^ 32)))

/-- R293, R294, R338, R340: a wake makes its region's scan, or one more, which waits from the start where the ready store is full; an empty directory entry gives a record of KIND 9; the
PF's wake does the same for tenant 0 in Halter mode and nothing else; a scan takes the records that wait, and once a scan has met a full
store the records of the region of highest priority and lowest number come first, one at a time; a conditional node's
predicate decides whether they are taken or skipped, once what it comes after is drained. -/
def Sys2Proof.Claims.WakesAndScans : Prop :=
  (∀ s vf n, tabWf {} s.tenants = true → vfReached s vf = true → (getTenant s vf).resetting = false →
    let k := n % 4096
    let V := getTenant s vf
    let woken := if V.scans.any (fun y => y.rnum == k) = true
      then V.scans.map (fun y => if y.rnum = k then { y with again := true } else y)
      else V.scans ++ [{ rnum := k }]
    let scans := if 64 ≤ V.ready.length then woken.map (fun y => { y with hold := true }) else woken
    (regionAddr s vf k = 0 → exec (.wake vf n) s = .next (faultRecord s vf { kind := 9, rnum := k })) ∧
    (regionAddr s vf k ≠ 0 → ∃ s', exec (.wake vf n) s = .next s' ∧ s'.mem = s.mem ∧ s'.teams = s.teams ∧
      getTenant s' vf = { V with scans := scans } ∧
      ∀ v, v ≠ vf → getTenant s' v = getTenant s v)) ∧
  (∀ s n, (s.boot.mode = .halter → pfReached s = true → exec (.pfWake n) s = .next (wakeRegion s 0 (n % 4096))) ∧
    (s.boot.mode ≠ .halter → exec (.pfWake n) s = .next s)) ∧
  (∀ s vf n x, (getTenant s vf).scans.find? (fun y => y.rnum == n) = some x →
    let goes := fun (tail : Nat) =>
      (∀ m, scanTurn s vf n = some m → exec (.regionScan vf n) s = .next (scanTake s vf n tail m)) ∧
      (scanTurn s vf n = none → exec (.regionScan vf n) s =
        .next (updScan s vf n (fun y => { y with upTo := some tail, hold := true })))
    (∀ tail, x.upTo = some tail → goes tail) ∧
    (x.upTo = none →
      (rcbAt s vf (regionAddr s vf n) = none → exec (.regionScan vf n) s = .next (endScan s vf n)) ∧
      (∀ b, rcbAt s vf (regionAddr s vf n) = some b →
        (b.lhead = b.ltail ∨ ringUsable b = false → exec (.regionScan vf n) s = .next (endScan s vf n)) ∧
        (ringUsable b = true → b.lhead ≠ b.ltail →
          (b.ctl.testBit 0 = true → exec (.regionScan vf n) s = .next s) ∧
          (b.ctl.testBit 0 = false → goes b.ltail))))) ∧
  (∀ s vf n, (storeFull s vf = true → scanTurn s vf n = none) ∧ (storeFull s vf = false →
    ((∀ y ∈ (getTenant s vf).scans, y.hold = false) → scanTurn s vf n = some 65536) ∧
    ∀ k, nextHeld s vf = some k → scanTurn s vf n = (if k = n then some 1 else none))) ∧
  (∀ s vf k, nextHeld s vf = some k → ∃ x ∈ (getTenant s vf).scans, x.rnum = k ∧ scanWaits s vf x = true ∧
    ∀ y ∈ (getTenant s vf).scans, scanWaits s vf y = true →
      regionPrio s vf y.rnum < regionPrio s vf k ∨ (regionPrio s vf y.rnum = regionPrio s vf k ∧ k ≤ y.rnum)) ∧
  (∀ s vf n x b, (getTenant s vf).scans.find? (fun y => y.rnum == n) = some x → x.upTo = none →
    rcbAt s vf (regionAddr s vf n) = some b → b.ctl.testBit 0 = true → b.lhead ≠ b.ltail → ringUsable b = true →
    ringCount b.lhead b.ltail ≤ b.lrsize →
    (drained s vf b.after = false → exec (.conditionalEvaluation vf n) s = .next s) ∧
    (drained s vf b.after = true → ∀ v, homeRead s vf b.pred 8 = .ok v →
      exec (.conditionalEvaluation vf n) s = .next (if v ≠ 0 then scanGo s vf n b.ltail
        else endScan (skipRecords vf b (ringCount b.lhead b.ltail) b.lhead s) vf n)))

/-- R283, R284, R294, R295, R310: what an accepted record has passed, and how a record of a ring is taken: it is
accepted with the tenant's next sequence number or refused with its reason, and the ready store never holds more than
64, and once it is full every region that is woken waits for room; a spawned record is judged by its pieces as they
were read. R293, R294, R338, R340: a wake makes its region's scan, or one more, which waits from the start where the
ready store is full; an empty directory entry gives a record of KIND 9; the PF's wake does the same for tenant 0 in
Halter mode and nothing else; a scan takes the records that wait, and once a scan has met a full store the records of
the region of highest priority and lowest number come first, one at a time; a conditional node's predicate decides
whether they are taken or skipped, once what it comes after is drained.
The first sequence number and the done words of refused records are the inferences of logs 16 and 17. -/
def Obligations.RecordsWakesAndScans : Prop :=
  Sys2Proof.Claims.RecordsAndTheReadyStore ∧ Sys2Proof.Claims.WakesAndScans

/-- R285, R296, R297, R299: the next team of the first launch of the highest level goes, where its gate is open and its budget
allows it and every die sees the host's writes before its acceptance, to the lowest-numbered core that has the warp slots, registers, window, grid pages and engines for it, and starts
with clear registers and one root fragment per warp.
An entry address that wraps at 57 bits is the inference of log 36; the registers of a new team are those of R89 and, where
it is silent, of log 35. -/
def Obligations.TeamsArePlaced : Prop :=
  (∀ s part P vf l n chain c b pg, getPart s part = some P → P.current = some vf → P.step = .slice →
    (getTenant s vf).resetting = false → (∀ x ∈ (getTenant s vf).saved, restoreFit s x = none) →
    (levelHeads s vf).head? = some l → nextTeamNum l = some n → rcbChain s vf l.lrec.region = some chain →
    budgetOk chain = true → gateOpen s (getTenant s vf) (effSlot chain) l.lrec.thresh (effT1b chain) = true →
    (∀ d, d < 8 → l.after = 0 ∨ l.after < diePtc s d) →
    firstFit s P vf l.lrec = some (c, b, pg) → tabWf {} s.cores = true →
    ∃ s', exec (.teamPlacement part) s = .next s' ∧ s'.mem = s.mem ∧ s'.nextTeam = s.nextTeam + 1 ∧
      getTeam s' s.nextTeam = some (newTeam vf l n c b pg chain s.ptc (diePtc s (dieOf c))) ∧
      (∀ t, t ≠ s.nextTeam → getTeam s' t = getTeam s t) ∧ ∀ k, (getCore s' k).scratch = (getCore s k).scratch) ∧
  (∀ s P vf r c b pg, firstFit s P vf r = some (c, b, pg) →
    c ∈ placeCores s P vf ∧ fitOn s r c = some (b, pg) ∧ ∀ k ∈ placeCores s P vf, k < c → fitOn s r k = none) ∧
  (∀ s (r : LaunchRec) c b pg, fitOn s r c = some (b, pg) →
    let ts := residents s c
    b % 4096 = 0 ∧ b + 4096 * r.spad ≤ 524288 ∧
    (∀ x ∈ ts, x.2.spBase % 4096 = 0 → x.2.spBytes % 4096 = 0 →
      r.spad = 0 ∨ x.2.spBytes = 0 ∨ b + 4096 * r.spad ≤ x.2.spBase ∨ x.2.spBase + x.2.spBytes ≤ b) ∧
    (ts.map (fun x => x.2.lrec.warps)).sum + r.warps ≤ 16 ∧
    (∀ q, q < 4 → (ts.map (fun x => (x.2.lrec.warps + 3 - q) / 4)).sum + (r.warps + 3 - q) / 4 ≤ 4) ∧
    (ts.map (fun x => x.2.lrec.warps * x.2.lrec.regs * 512)).sum + r.warps * r.regs * 512 ≤ 524288 ∧
    (r.bentry ≠ 0 → ∀ x ∈ ts, x.2.lrec.bentry = 0) ∧ (r.nmat ≠ 0 → ∀ x ∈ ts, x.2.lrec.nmat = 0) ∧
    pg.length = r.gpages ∧ ∀ p ∈ pg, p < 4 ∧ ∀ x ∈ ts, p ∉ x.2.pages) ∧
  (∀ vf l n c b pg chain now nowDie,
    let r := l.lrec
    let T := newTeam vf l n c b pg chain now nowDie
    T.num = n ∧ T.core = c ∧ T.spBase = b ∧ T.spBytes = 4096 * r.spad ∧ T.pages = pg ∧ T.bars = [] ∧ T.fph = [] ∧ T.eph = [] ∧
    (∀ w, w < r.warps → ∃ x, tabFind T.units w = some x ∧
      x.role = (if w < r.ncopy then .copy else if w < r.ncopy + r.nmat then .matrix else .vector) ∧
      x.v = [] ∧ x.k = [] ∧ x.q = [] ∧ x.fflags = 0 ∧ x.toks = [] ∧ x.flight = none ∧ (getSplit x 0).live = true ∧
      (getSplit x 0).block = r.entry % 2 ^ 57 ∧
      (getSplit x 0).mask = (if w + 1 = r.warps then BitVec.ofNat 128 (2 ^ r.lastn - 1) else BitVec.allOnes 128)) ∧
    (r.warps ≤ 16 → r.bentry ≠ 0 → ∃ x, tabFind T.units 16 = some x ∧ x.role = .grid ∧ (getSplit x 0).mask = 1 ∧
      (getSplit x 0).block = r.bentry % 2 ^ 57))

/-- R300, R301, R308: a team whose warps, Bridle and requests have all ended retires and frees its engines, a grid with a configuration that is done or stopped as it stands; a launch whose teams
have retired and whose writes have passed writes its done word and frees its entry of the ready store.
That a retired team stays in the table until its launch retires is the inference of log 20; the charge before it is that of
log 26. -/
def Obligations.TeamsAndLaunchesRetire : Prop :=
  (∀ s t T, getTeam s t = some T → T.retired = false → (∀ x ∈ T.units, x.2.done = true) → requestsEnded s t T = true →
    s.ptc - T.since < 1051050 → (getGrid s T.core).holder ≠ some t → tabWf {} s.cores = true → tabWf {} s.tenants = true →
    ∃ s' T', exec (.teamRetire t) s = .next s' ∧ getTeam s' t = some T' ∧ T'.retired = true ∧ T'.num = T.num ∧
      (getCore s' T.core).mat.holder ≠ some t ∧
      ∀ l ∈ (getTenant s' T.vf).ready, l.seq = T.seq → tabFind l.teams T.num = some .retired) ∧
  (∀ s t T, getTeam s t = some T → ((∃ x ∈ T.units, x.2.done = false) ∨ 1051050 ≤ s.ptc - T.since) →
    (getGrid s T.core).holder ≠ some t → exec (.teamRetire t) s = .next s) ∧
  (∀ s t T, getTeam s t = some T → T.retired = false → (∀ x ∈ T.units, x.2.done = true) → requestsEnded s t T = true →
    s.ptc - T.since < 1051050 → (getGrid s T.core).holder = some t → tabWf {} s.cores = true →
    ∃ s', exec (.teamRetire t) s = .next s' ∧ getGrid s' T.core = { getGrid s T.core with holder := none }) ∧
  (∀ s vf seq l, Memory.wf s.mem = true → tabWf {} s.tenants = true → (getTenant s vf).ready.find? (fun y => y.seq == seq) = some l →
    teamsRetired l = true → writesPassed s vf l = true →
    ∃ s', exec (.launchRetire vf seq) s = .next s' ∧
      (getTenant s' vf).ready = (getTenant s vf).ready.filter (fun y => y.seq != seq) ∧
      (∀ x ∈ s'.teams, ¬(x.2.vf = vf ∧ x.2.seq = seq ∧ x.2.retired = true)) ∧
      (l.lrec.done = 0 → s'.mem = s.mem) ∧
      (∀ e, l.lrec.done ≠ 0 → l.lrec.done % 8 = 0 → walk s vf l.lrec.done = .ok e → e.wr = true →
        accessDrops s vf l.lrec.done (leafPa e l.lrec.done) 8 = false →
        WroteAt s s' (homeOf s vf l.lrec.done (leafPa e l.lrec.done)) (numBytes 8 (2 ^ 32 * l.seq + 256 * l.reason + l.status))))

/-! ## Tenancy (chapter 11) -/

namespace Sys2Proof.Claims

/-- A layout is staged in place of any that is pending: nothing changes but the pre-emption, for a reason, of the teams whose core
it moves (R303). -/
def StagedAs (s s' : State) (l : Layout) (reason : Nat) : Prop :=
  s'.staged = some l ∧ s'.place = s.place ∧ s'.parts = s.parts ∧ s'.tenants = s.tenants ∧ s'.mem = s.mem ∧ s'.cores = s.cores ∧
  s'.claims = s.claims ∧ s'.dies = s.dies ∧ s'.reqs = s.reqs ∧ s'.loads = s.loads ∧
  (tabSorted s.teams = true → ∀ t T, getTeam s t = some T →
    (coreMoved s l T = true → T.preempt = none → T.retired = false → T.term = none →
      ∃ T', getTeam s' t = some T' ∧ T'.preempt = some (reason, s.ptc)) ∧
    (coreMoved s l T = false ∨ T.preempt ≠ none ∨ T.retired = true ∨ T.term ≠ none → getTeam s' t = some T))

end Sys2Proof.Claims

/-- R291, R302, R304, R306 to R308: at the end of a slice the recorded set ages, and the next tenant in ascending order with work
gets its turn once the teams of the first are pre-empted, the Burnisher has cleared its cores and claims and its resident pages are
demoted; with no other work
a further slice follows, and after the last tenant the turn comes to the lowest; core time is charged to USED of the team's region and
of each of its ancestors, 1 ms of it at most.
When the next slice may begin, and where promotions go, are the inferences of log 25; that the Burnisher acts in one step,
and the rounding of a charge, are the choice of log 26. -/
def Obligations.SlicesAndTheBurnisher : Prop :=
  (∀ s part P a, tabWf {} s.tenants = true → getPart s part = some P → P.current = some a → P.step = .slice →
    P.since + 1050000 * max 100 (min 10000 (getTenant s a).cfg.sliceMs) ≤ s.ptc →
    (nextTenant s part a = none → ∃ s' P', exec (.sliceEnd part) s = .next s' ∧ s'.mem = s.mem ∧ s'.teams = s.teams ∧
      getPart s' part = some P' ∧ P'.current = some a ∧ P'.step = .slice ∧ P'.since = s.ptc) ∧
    (∀ b, nextTenant s part a = some b → ∃ s' P', exec (.sliceEnd part) s = .next s' ∧ s'.mem = s.mem ∧
      getPart s' part = some P' ∧ P'.current = some a ∧ P'.step = .preempt ∧ P'.next = some b ∧
      (getTenant s' a).older = (getTenant s a).bits ∧ (getTenant s' a).bits = [] ∧
      ∀ t T, getTeam s t = some T → T.vf = a → T.preempt = none → T.retired = false → T.term = none →
        ∃ T', getTeam s' t = some T' ∧ T'.preempt = some (1, s.ptc))) ∧
  (∀ s part a b, nextTenant s part a = some b → b ≠ a ∧ b ∈ boundTenants s part ∧ hasWork s b = true ∧
    (tabSorted s.tenants = true → ∀ c ∈ boundTenants s part, hasWork s c = true →
      (a < c → a < b ∧ b ≤ c) ∧ (c ≠ a → b < a → c < a ∧ b ≤ c))) ∧
  (∀ s part a, nextTenant s part a = none → ∀ c ∈ boundTenants s part, hasWork s c = true → c = a) ∧
  (∀ s part P a, getPart s part = some P → P.current = some a → P.step = .slice →
    P.since + 1050000 * max 100 (min 10000 (getTenant s a).cfg.sliceMs) ≤ s.ptc + 1050000 * (getTenant s a).cfg.leadMs →
    ∃ s', exec (.promotionStart part) s = .next s' ∧ s'.mem = s.mem ∧ s'.teams = s.teams ∧
      getPart s' part = some { P with promoting := nextTenant s part a }) ∧
  (∀ s part P, getPart s part = some P →
    (∀ a b, P.step = .demote → P.current = some a → P.next = some b → residentPages s a ≠ [] →
      exec (.sliceBegin part) s = .next s) ∧
    (∀ a b, P.step = .demote → P.current = some a → P.next = some b → (getTenant s a).resetting = false → residentPages s a = [] →
      ∃ s', exec (.sliceBegin part) s = .next s' ∧ s'.mem = s.mem ∧ s'.teams = s.teams ∧
        getPart s' part = some { P with current := some b, since := s.ptc, step := .slice, next := none, promoting := none }) ∧
    (∀ b, P.step = .slice → P.current = none → (boundTenants s part).find? (hasWork s) = some b →
      ∃ s', exec (.sliceBegin part) s = .next s' ∧ s'.mem = s.mem ∧ s'.teams = s.teams ∧
        getPart s' part = some { P with current := some b, since := s.ptc, step := .slice, next := none, promoting := none })) ∧
  (∀ s part P a, getPart s part = some P → P.current = some a → tabWf {} s.cores = true →
    (P.step = .preempt → tenantQuiet s P a = false → exec (.burnisherRun part) s = .next s) ∧
    (P.step = .preempt → tenantQuiet s P a = true → ∃ s' P', exec (.burnisherRun part) s = .next s' ∧
      getPart s' part = some P' ∧ P'.step = .demote ∧ P'.current = some a ∧ P'.next = P.next ∧
      (∀ c ∈ partCores s P, getCore s' c = {}) ∧ (∀ c, c ∉ partCores s P → getCore s' c = getCore s c) ∧
      (∀ k ∈ s'.claims, k.vf ≠ a) ∧ ∀ d ∈ s'.dies, ∀ e ∈ d.2.tlb, e.vf ≠ a)) ∧
  (∀ s t T, getTeam s t = some T → T.retired = false →
    let us := min 1000 ((s.ptc - T.since) / 1050)
    (us = 0 → exec (.budgetCharge t) s = .next s) ∧
    (0 < us → ∀ chain, rcbChain s T.vf T.lrec.region = some chain → exec (.budgetCharge t) s = .next
      (chain.foldl (fun y b => homeStore y T.vf (b.addr + 48) 8 ((b.used + us) % 2 ^ 64))
        (updTenant (updTeam s t (fun T => { T with since := T.since + 1050 * us })) T.vf (fun V =>
          { V with roots := tabSet 0 V.roots T.rtop (tabGet 0 V.roots T.rtop + 1050 * us) })))) ∧
    (0 < us → Memory.wf s.mem = true → ∃ s' T', exec (.budgetCharge t) s = .next s' ∧ getTeam s' t = some T' ∧
      T'.since = T.since + 1050 * us ∧
      ∀ b e, rcbChain s T.vf T.lrec.region = some [b] → walk s T.vf (b.addr + 48) = .ok e →
        accessDrops s T.vf (b.addr + 48) (leafPa e (b.addr + 48)) 8 = false →
          WroteAt s s' (homeOf s T.vf (b.addr + 48) (leafPa e (b.addr + 48))) (numBytes 8 ((b.used + us) % 2 ^ 64))))

/-- R21 to R24, R303, R305: a layout is staged with nothing changed but the pre-emption of what moves; at the tick, once that is
quiet and the claims have returned, every table swaps and the moved cores are clear; a layout that may no longer be staged is dropped;
a spare takes the logical number of each retired core in the layout that is pending, or else in the one in force, or the core's group leaves
its partition; a page moves whole, with its leaf, to a place that nothing but data is in, and not to one that an image or a page table
uses.
What a tick clears and which pages move are the inferences of logs 25 and 27; a retirement beside a pending layout or
without a spare, and a layout that is no longer allowed, are the choices of logs 29 and 45. -/
def Obligations.LayoutsAndPageMoves : Prop :=
  (∀ s l, (layoutOk s l = true → ∃ s', exec (.layoutStage l) s = .next s' ∧ StagedAs s s' l 2) ∧
    (layoutOk s l = false → exec (.layoutStage l) s = .next s)) ∧
  (∀ s l, layoutOk s l = true →
    l.place.length = 288 ∧ l.parts.length ≤ 16 ∧ (l.parts.flatMap PartCfg.groups).Nodup ∧
    ∀ n, n < 288 → let e := l.place.getD n 0
      (e.getLsbD 31 = false → e = 0) ∧
      (e.getLsbD 31 = true → (s.boot.mode = .full → (e.extractLsb' 24 3).toNat = n / 36) ∧ (e.extractLsb' 0 6).toNat < 40 ∧ e.extractLsb' 6 10 = 0 ∧ e.extractLsb' 27 4 = 0 ∧
        ([e.extractLsb' 16 2, e.extractLsb' 18 2, e.extractLsb' 20 2, e.extractLsb' 22 2]).Nodup)) ∧
  (∀ s l, s.staged = some l → (layoutOk s l = false → exec .layoutTick s = .next { s with staged := none }) ∧
    (layoutOk s l = true → layoutQuiet s l = false → exec .layoutTick s = .next s) ∧
    (layoutQuiet s l = true → layoutOk s l = true → (∃ c ∈ s.claims, claimsMove s l c.vf = true) →
      exec .layoutTick s = .next { s with claims := s.claims.filter (fun c => !claimsMove s l c.vf) }) ∧
    (∀ c ∈ movedCores s l, c ∈ changedCores s l) ∧
    (layoutQuiet s l = true → layoutOk s l = true → tabWf {} s.cores = true → tabWf {} s.tenants = true →
      (∀ c ∈ s.claims, claimsMove s l c.vf = false) →
      ∃ s', exec .layoutTick s = .next s' ∧ s'.staged = none ∧
        ((∀ p ∈ s.parts, ∀ a, p.2.current = some a → (getTenant s a).roots = []) → s'.mem = s.mem ∧ s'.teams = s.teams) ∧
        (∀ n, n < 288 → tabGet 0 s'.place n = l.place.getD n 0) ∧
        (∀ c ∈ l.parts, ∃ P, getPart s' c.id = some P ∧ P.groups = c.groups ∧ P.tier1 = c.tier1) ∧
        (∀ c ∈ l.tenants, (getTenant s' c.vf).cfg = c ∧ (getTenant s' c.vf).bound = true) ∧
        (∀ c ∈ changedCores s l, getCore s' c = {}) ∧ ∀ c, c ∉ changedCores s l → getCore s' c = getCore s c)) ∧
  (∀ s core phys,
    let l0 := s.staged.getD (currentLayout s)
    let e := if placeRetired s (tabGet 0 s.place core) = true then l0.place.getD core 0 else tabGet 0 s.place core
    let out := { s with retiredCores := s.retiredCores ++ [placePhys e] }
    let gone := fun n => placeRetired out (l0.place.getD n 0)
    (288 ≤ core ∨ e.getLsbD 31 = false ∨ placeRetired s e = true → exec (.coreRetirement core phys) s = .next s) ∧
    (core < 288 → e.getLsbD 31 = true → placeRetired s e = false →
      ∃ s' l, exec (.coreRetirement core phys) s = .next s' ∧ s'.retiredCores = out.retiredCores ∧ StagedAs out s' l 3 ∧
        ∀ n, n < 288 → (gone n = false → l.place.getD n 0 = l0.place.getD n 0) ∧
          placeRetired out (l.place.getD n 0) = false ∧
          (gone n = true → l.place.getD n 0 ≠ 0 → (l.place.getD n 0).toNat / 64 = (l0.place.getD n 0).toNat / 64) ∧
          (gone n = true → l.place.getD n 0 = 0 → ∀ p ∈ l.parts, n / 4 ∉ p.groups) ∧
          (n = core → gone n = true → phys ∈ spares out l0 ((l0.place.getD n 0).extractLsb' 24 3).toNat →
            (l.place.getD n 0).toNat % 64 = phys) ∧
          (n = core → gone n = true → spares out l0 ((l0.place.getD n 0).extractLsb' 24 3).toNat ≠ [] → l.place.getD n 0 ≠ 0))) ∧
  (∀ s vf va dest e pte, Memory.wf s.mem = true → walk s vf va = .ok e → leafSlot s va 4 (getTenant s vf).cfg.root = some pte →
    let src := e.ppage
    dest ≠ src → dest < 2 ^ 41 → saddleTier s src = true → saddleTier s dest = true →
    (∀ c ∈ s.claims, c.page ≠ src ∧ c.page ≠ dest) → pageSpare s dest = true →
    (paKind s (dest * 2 ^ 16) ≠ .tier1 ∨ paKind s (src * 2 ^ 16) = .tier1 ∨ mayPromote s vf src dest = true) →
    pte / 2 ^ 16 ≠ dest → (pte + 7) / 2 ^ 16 ≠ dest → WholeGranules s pte 8 →
    ∃ s', exec (.saddlebagPageMove vf va dest) s = .next s' ∧
      (∀ i, i < 2 ^ 16 → memByte s'.mem (dest * 2 ^ 16 + i) = memByte s.mem (src * 2 ^ 16 + i)) ∧
      (∀ a, a / 2 ^ 16 ≠ dest → a < pte ∨ pte + 8 ≤ a → memByte s'.mem a = memByte s.mem a) ∧
      memNum s'.mem pte 8 / 2 ^ 16 % 2 ^ 41 = dest ∧ memNum s'.mem pte 8 % 2 ^ 16 = memNum s.mem pte 8 % 2 ^ 16 ∧
      (tabWf {} s.tenants = true → (getTenant s' vf).objs.map (fun o => o.pages.map CodePage.ppage) =
        (getTenant s vf).objs.map (fun o => (o.pages.filter (fun p => p.ppage != dest)).map (fun p =>
          if p.ppage = src then dest else p.ppage))) ∧
      (∀ c ∈ s'.cores, ∀ y ∈ c.2.tlb, ¬(y.vf = vf ∧ y.vpage = va % 2 ^ 57 / 2 ^ 16)) ∧
      (∀ d ∈ s'.dies, ∀ y ∈ d.2.tlb, ¬(y.vf = vf ∧ y.vpage = va % 2 ^ 57 / 2 ^ 16))) ∧
  (∀ s vf va dest, pageSpare s dest = false → exec (.saddlebagPageMove vf va dest) s = .next s) ∧
  (∀ s p, pageSpare s p = true ↔ ((∀ V ∈ s.tenants, usesPage s p 4 V.2.cfg.root = false) ∧
    ∀ x ∈ imageSpans s, spansMeet (p * 2 ^ 16) (2 ^ 16) x.1 x.2 = false))

/-! ## Pre-emption, save, restore and resets (chapter 12) -/

namespace Sys2Proof.Claims

/-- A team that a pre-emption has been asked of (R322). -/
def Asked (s : State) (t : Nat) (T : Team) : Prop :=
  getTeam s t = some T ∧ T.preempt.isSome = true ∧ T.retired = false ∧ T.term = none

/-- The save of a team whose requests have ended writes its image at the place where it began (R324 steps 5 and 6). -/
def Saves (i : Instr) (s : State) (t addr : Nat) (T : Team) : Prop :=
  let img := imageBytes s t T (if T.waiver then 2 else 1)
  rangePoisoned s addr img.length = false →
    ∃ s' x, exec i s = .next s' ∧ getTeam s' t = none ∧
      (∀ k, k < img.length → memByte s'.mem (addr + k) = if k = 4 then 1 else img.getD k 0) ∧
      (∀ a, a < addr ∨ addr + img.length ≤ a → memByte s'.mem a = memByte s.mem a) ∧
      (getTenant s' T.vf).saved = (getTenant s T.vf).saved ++ [x] ∧ x.addr = addr ∧ x.size = img.length ∧ x.id = t ∧ x.team = { T with image := none } ∧
      (∀ l ∈ (getTenant s' T.vf).ready, l.seq = T.seq → tabFind l.teams T.num = some .saved) ∧
      (getCore s' T.core).mat.holder ≠ some t ∧ (getCore s' T.core).grid.holder ≠ some t

end Sys2Proof.Claims

/-- R311, R322 to R325, R328, R329: a pre-emption that is due makes PREEMPT_NOTICE pending on every unit, and the units stop from the
first moment on at which no barrier is partly arrived; a team of an idempotent launch at idempotent blocks aborts the blocks in flight, and
is discarded once its units have stopped and its requests ended, without an image; else its blocks that wait in an instruction or for a
queue stop, once it stops or past the deferral limit, and when its units have stopped its image begins with STATE 0 at a place that can be
reserved; when its requests have ended its image is written, with its registers at their places, and it leaves its core.
The encoding of the image is the choice of log 11; when a team counts as idempotent at its boundaries, and which waiting
blocks a save aborts, are the inferences of log 21. -/
def Obligations.PreemptionAndSave : Prop :=
  (∀ s t T r, getTeam s t = some T → T.retired = false → T.term = none → T.preempt = none →
    (preemptDue s T r = false → exec (.preemptRequest t r) s = .next s) ∧
    (preemptDue s T r = true → tabSorted T.units = true → (∀ x ∈ T.units, tabWf {} x.2.splits = true) →
      ∃ s' T', exec (.preemptRequest t r) s = .next s' ∧ s'.mem = s.mem ∧ getTeam s' t = some T' ∧ T'.preempt = some (r, s.ptc) ∧
        T'.saving = (T.saving || !partlyArrived T) ∧
        ∀ u w i, tabFind T.units u = some w → w.done = false → oldestFrag w = some i → ∃ w', tabFind T'.units u = some w' ∧
          (getSplit w' i).traps =
            (getSplit w i).traps ++ [⟨.preemptNotice, .engine, BitVec.ofNat 64 r, (getSplit w i).block⟩] ∧
          w'.v = w.v ∧ w'.k = w.k ∧ w'.flight = w.flight)) ∧
  (∀ s t T r, Asked s t T →
    (discardable s T = false → exec (.preemptRequest t r) s = .next s) ∧
    (discardable s T = true → allStopped T = true → 1051050 ≤ s.ptc - T.since → exec (.preemptRequest t r) s = .next s) ∧
    (discardable s T = true → allStopped T = true → s.ptc - T.since < 1051050 → requestsEnded (dropEnginesOf s t T.core) t T = false →
      exec (.preemptRequest t r) s = .next (dropEnginesOf s t T.core)) ∧
    (discardable s T = true → allStopped T = false → tabSorted T.units = true →
      ∃ s' T', exec (.preemptRequest t r) s = .next s' ∧ s'.mem = s.mem ∧ s'.reqs = s.reqs ∧ getTeam s' t = some T' ∧
        T'.saving = true ∧ T'.image = T.image ∧
        ∀ u w, tabFind T.units u = some w → ∃ w', tabFind T'.units u = some w' ∧ w'.v = w.v ∧ w'.k = w.k ∧ w'.q = w.q ∧
          w'.flight = if w.tm then w.flight else none)) ∧
  (∀ s t T r, Asked s t T → allStopped T = true → discardable s T = true → requestsEnded (dropEnginesOf s t T.core) t T = true →
    s.ptc - T.since < 1051050 → tabWf {} s.tenants = true → tabWf {} s.cores = true →
    ∃ s' T', exec (.preemptRequest t r) s = .next s' ∧ getTeam s' t = some T' ∧ T'.retired = true ∧
      (getCore s' T.core).mat.holder ≠ some t ∧
      ∀ l ∈ (getTenant s' T.vf).ready, l.seq = T.seq → tabFind l.teams T.num = some .unplaced) ∧
  (∀ s t addr T, Asked s t T → T.image = none ∨ saveReady s t T = false →
    let stops := fun (i : Instr) (forced : Bool) => ∃ s' T', exec i s = .next s' ∧ getTeam s' t = some T' ∧
      T'.saving = true ∧ T'.waiver = (T.waiver || forced) ∧
      (∀ T1, getTeam (stopTeam s t forced) t = some T1 →
        let img := imageBytes (stopTeam s t forced) t T1 (if T1.waiver then 2 else 1)
        let begins := T.image = none ∧ saveStopped (stopTeam s t forced) T1 = true ∧ imagePlace s T.vf addr img.length = true
        (¬begins → s'.mem = s.mem ∧ T'.image = T.image) ∧
        (begins → T'.image = some (addr, img.length) ∧
          (Memory.wf s.mem = true → WholeGranules s addr 64 → Wrote s s' addr (img.take 64)))) ∧
      (tabSorted T.units = true →
        ∀ u w f, tabFind T.units u = some w → w.flight = some f →
          ((f.wait ≠ none ∨ f.waitKind = .queue) → waitOver s t u f = false → w.tm = false ∨ T'.waiver = true →
            ∃ w', tabFind T'.units u = some w' ∧ w'.flight = none ∧ w'.v = w.v ∧ w'.k = w.k ∧ w'.q = w.q) ∧
          (f.wait = none → f.waitKind ≠ .queue → ∃ w', tabFind T'.units u = some w' ∧ w'.flight = some f))
    (T.saving = false → exec (.contextSave t addr) s = .next s) ∧
    (T.saving = true → stops (.contextSave t addr) false) ∧
    (∀ r since, T.preempt = some (r, since) →
      let limit := 1050 * (if T.lrec.defer = 0 then 100 else T.lrec.defer)
      (s.ptc < since + limit → exec (.forcedSave t addr) s = .next s) ∧
      (since + limit ≤ s.ptc → stops (.forcedSave t addr) true))) ∧
  (∀ s t at_ addr n T, Asked s t T → T.image = some (addr, n) → saveReady s t T = true → (∀ r ∈ (getCore s T.core).copyQ, r.team ≠ t) → s.ptc - T.since < 1050 →
    Memory.wf s.mem = true → tabWf {} s.tenants = true → tabWf {} s.cores = true → tabSorted s.teams = true →
    Saves (.contextSave t at_) s t addr T ∧
    ∀ r since, T.preempt = some (r, since) → since + 1050 * (if T.lrec.defer = 0 then 100 else T.lrec.defer) ≤ s.ptc →
      Saves (.forcedSave t at_) s t addr T) ∧
  (∀ now w regs, (warpBytes now w regs).length = 7184 + 528 * regs ∧
    (∀ n, n < 64 → ((warpBytes now w regs).drop (384 + 8 * n)).take 8 = numBytes 8 (getK w n).toNat) ∧
    ∀ n l, n < regs → l < 128 → ((warpBytes now w regs).drop (7184 + 16 * regs + 4 * (128 * n + l))).take 4 =
      numBytes 4 (getV w n l).toNat) ∧
  (∀ s t T kind, let b := imageBytes s t T kind
    b.take 6 = numBytes 4 0x5A435831 ++ [0, BitVec.ofNat 8 kind] ∧
    b.getD 6 0 = BitVec.ofNat 8 (imageSections s t T).length ∧ (b.drop 8).take 8 = numBytes 4 T.seq ++ numBytes 4 T.num)

/-- R327, R329 to R331, R333, R341, R342: a saved team is restored with the registers, split table, trap frame, breakpoints, arrivals,
barriers, rings, views, tokens, window and accumulators that its image holds, its promises counted on from the restore, CT 0, L = 4, and its
pending traps to be delivered first; an image that cannot be used ends its launch with status 3. A function-level reset ends every team and
request of the function and abandons its images, those begun too, and takes a locked interface to ERROR; disabling all VFs resets each of them,
or, where an interface is locked, only takes the locked ones to ERROR.
What the image holds is the choice of log 11; what a reset leaves, its records and the writes of VF Enable are the
inferences of logs 22 to 24 and 28. -/
def Obligations.RestoreAndResets : Prop :=
  (∀ s vf n x c b pg, (getTenant s vf).saved[n]? = some x → x.team.vf = vf → restoreFit s x = some (c, b, pg) → tabWf {} s.tenants = true →
    (imageBad s x = none → (∀ y ∈ s.creds, y.copy.team ≠ x.id) → x.publishes = [] → x.owed = [] → tabWf {} s.cores = true →
      ∃ s' T', exec (.contextRestore vf n) s = .next s' ∧ s'.mem = s.mem ∧ getTeam s' x.id = some T' ∧
        T'.core = c ∧ T'.spBase = b ∧ T'.pages = pg ∧ T'.num = x.team.num ∧ T'.preempt = none ∧ T'.saving = false ∧
        T'.trapsFirst = true ∧
        (∀ m, x.mat = some m → let f := sectionAt s x.addr 5 0
          (∀ k, k < 65536 → tabGet 0 (getCore s' c).mat.acc k = BitVec.ofNat 32 (f (4 * k) 4)) ∧
          (∀ k, k < 16384 → tabGet false (getCore s' c).mat.marks k = (f (262144 + k / 8) 1).testBit (k % 8)) ∧
          (getCore s' c).mat.rampL = 4 ∧ (getCore s' c).mat.holder = some x.id) ∧
        (∀ k v, x.team.views[k]? = some v → ∃ v', T'.views[k]? = some v' ∧ v'.base = v.base ∧ v'.size = v.size ∧
          (let y := sectionAt s x.addr 3 0 (320 + 16 * k) 16
           v'.st.bit = y.testBit 0 ∧ v'.st.dirty = y.testBit 1 ∧ v'.st.deferred = y.testBit 2)) ∧
        (getTenant s' vf).saved = (getTenant s vf).saved.eraseIdx n ∧
        (let f := sectionAt s x.addr 3 0
         (∀ k, k < 16 → let y := f (16 * k) 16
           getBar T' k = { g := BitVec.ofNat 32 y, cv := y.testBit 32, c := y / 2 ^ 33 % 2 ^ 5, a := y / 2 ^ 38 % 2 ^ 5
                           p := BitVec.ofNat 40 (y / 2 ^ 43) }) ∧
         ∀ k, k < 64 → tabGet false T'.fph k = (f (256 + k) 1).testBit 0 ∧ tabGet false T'.eph k = (f (256 + k) 1).testBit 1) ∧
        (∀ i, i < x.team.spBytes → tabGet 0 (getCore s' c).scratch (b + i) = BitVec.ofNat 8 (sectionAt s x.addr 4 0 i 1)) ∧
        (∀ u w, tabFind x.team.units u = some w → ∃ w', tabFind T'.units u = some w' ∧
          (let f := if u = 16 then sectionAt s x.addr 2 0 else sectionAt s x.addr 1 u
           let regs := if u = 16 then 128 else x.team.lrec.regs
           (∀ n l, n < regs → l < 128 → getV w' n l = BitVec.ofNat 32 (f (7184 + 16 * regs + 4 * (128 * n + l)) 4)) ∧
           (∀ n, n < 64 → getK w' n = BitVec.ofNat 64 (f (384 + 8 * n) 8)) ∧
           (∀ n l, n < 8 → l < 128 → getQ w' n l = (f (896 + (128 * n + l) / 8) 1).testBit ((128 * n + l) % 8)) ∧
           w'.ct = 0 ∧ w'.opBuf = [] ∧ w'.tm = (f 0 1).testBit 0 ∧ w'.fflags = BitVec.ofNat 8 (f 8 4) ∧
           w'.bkpten = BitVec.ofNat 64 (f 16 8) ∧
           (w'.frame.code = trapOfNum (f 64 1) ∧ w'.frame.source = sourceOfNum (f 65 1) ∧ w'.frame.depth = f 66 1 ∧
             w'.frame.entry = f 67 1 ∧ w'.frame.info = BitVec.ofNat 64 (f 72 8) ∧ w'.frame.blk = f 80 8 ∧
             w'.frame.mask = BitVec.ofNat 128 (f 88 16)) ∧
           (∀ k, k < 16 → (tabGet {} w'.arrivals k).gen = BitVec.ofNat 32 (f (256 + 8 * k) 8) ∧
             (tabGet {} w'.arrivals k).flag = (f (256 + 8 * k) 8).testBit 32) ∧
           (∀ k, k < 32 → let o := 1040 + 192 * k
             let e := getSplit w' k
             e.mask = BitVec.ofNat 128 (f o 16) ∧ e.block = f (o + 16) 8 ∧ e.stamp = f (o + 24) 8 ∧ e.group = groupOf (f (o + 32) 1) ∧
             e.ageing = f (o + 33) 1 ∧
             (f (o + 35) 1 ≤ 16 → e.stack.length = f (o + 35) 1 ∧
               ∀ j, j < f (o + 35) 1 → e.stack.reverse[j]? = some (f (o + 64 + 8 * j) 8)) ∧
             e.record = (if f (o + 36) 1 = 1 then some ⟨f (o + 40) 8, f (o + 37) 1, groupOf (f (o + 38) 1)⟩ else none) ∧
             (∀ code, trapOfNum (f (o + 39) 1) = some code → ∃ tr, e.traps.head? = some tr ∧ tr.code = code ∧
               tr.info = BitVec.ofNat 64 (f (o + 48) 8) ∧ tr.source = sourceOfNum (f (o + 56) 1))) ∧
           ∀ k, k < 8 → let y := f (128 + 16 * k) 16
             y.testBit 75 = false → (getTok w' k).state = tokOfCode (y / 2 ^ 64 % 8) ∧
               ((getTok w' k).state = .pending → (getTok w' k).promise = diePtc s (dieOf c) + y % 2 ^ 64)))) ∧
    ((rangePoisoned s x.addr x.size = true → imageBad s x = some 0x0A) ∧
      (rangePoisoned s x.addr x.size = false → memNum s.mem (x.addr + 4) 1 ≠ 1 → imageBad s x = some 0) ∧
      (rangePoisoned s x.addr x.size = false → memNum s.mem (x.addr + 4) 1 = 1 → x.grid = none → imageBad s x = none)) ∧
    (∀ why, imageBad s x = some why → ∃ s', exec (.contextRestore vf n) s = .next s' ∧ x ∉ (getTenant s' vf).saved ∧
      (∀ l ∈ (getTenant s vf).ready, l.seq = x.team.seq → l.status = 0 →
        ∃ l' ∈ (getTenant s' vf).ready, l'.seq = l.seq ∧ l'.status = 3 ∧ l'.reason = why))) ∧
  (∀ s vf, tabWf {} s.tenants = true →
    let V := getTenant s vf
    ∃ s', exec (.functionLevelReset vf) s = .next s' ∧ (∀ x ∈ s'.teams, x.2.vf ≠ vf) ∧ (∀ r ∈ s'.reqs, r.vf ≠ vf) ∧
      (∀ l ∈ s'.loads, l.vf ≠ vf) ∧ (∀ k ∈ s'.claims, k.vf ≠ vf) ∧ (getTenant s' vf).ready = [] ∧ (getTenant s' vf).saved = [] ∧
      (getTenant s' vf).gviews = [] ∧ (getTenant s' vf).cfg = V.cfg ∧
      (getTenant s' vf).tdisp = (if V.tdisp = .configLocked ∨ V.tdisp = .run then .error else V.tdisp) ∧
      (∀ t T, getTeam s t = some T → T.vf ≠ vf → tabSorted s.teams = true → ∃ T', getTeam s' t = some T' ∧ T'.num = T.num) ∧
      (Memory.wf s.mem = true → tabSorted s.teams = true → (∀ r ∈ s.reqs, r.vf ≠ vf) →
        (∀ t T, getTeam s t = some T → T.vf = vf → T.retired = true ∨ s.ptc - T.since < 1050) →
        let begun := fun (b : Nat) => (∃ x ∈ V.saved, x.addr = b) ∨
          ∃ t T n, getTeam s t = some T ∧ T.vf = vf ∧ T.image = some (b, n)
        (∀ a, (∀ b, begun b → a ≠ b + 4) → memByte s'.mem a = memByte s.mem a) ∧
        ∀ b, begun b → granulePoisoned s ((b + 4) / 32) = false → memByte s'.mem (b + 4) = 2)) ∧
  (∀ s, tabWf {} s.tenants = true →
    let all := (s.tenants.map Prod.fst).filter (fun v => v != 0)
    ∃ s', exec .vfDisableAll s = .next s' ∧
      ((∀ v ∈ all, tdLocked (getTenant s v) = false) → ∀ v ∈ all, (getTenant s' v).enabled = false ∧ (getTenant s' v).ready = [] ∧
        ∀ x ∈ s'.teams, x.2.vf ≠ v) ∧
      ((∃ v ∈ all, tdLocked (getTenant s v) = true) → ∀ v ∈ all, (getTenant s' v).enabled = (getTenant s v).enabled ∧
        (tdLocked (getTenant s v) = true → (getTenant s' v).tdisp = .error ∧ ∀ x ∈ s'.teams, x.2.vf ≠ v)))

/-! ## The host's side (chapter 13) -/

namespace Sys2Proof.Claims

/-- The mailbox takes a command: BUSY and LAST are set and MBCMD is copied (R340). -/
def rung (s : State) (code : Nat) : State := { s with mbox := { s.mbox with busy := true, last := code, run := s.mbox.cmd, after := 0 } }

/-- The command block in MBCMD. -/
def command (s : State) : Nat := tabNum s.mbox.cmd 0 64

/-- The command leaves the state `s1`, with a status and the rest of its reply to come. -/
def Replies (w : Instr) (s s1 : State) (status rest : Nat) : Prop :=
  ∃ out, exec w s = .next { s1 with mbox := { s1.mbox with out := out } } ∧ tabNum out 0 64 = status + 2 ^ 32 * rest

end Sys2Proof.Claims

/-- R8, R9, R336, R337, R339, R342: the host's writes to a register page change the field written and nothing else, and take a
locked interface to ERROR where they reach FRBASE or FRCTL; OVF, LOST and DONE clear where a 1 is written and hardware does not
set them in this cycle; VF Enable enables the first VFs, and a write to the SR-IOV capability while an interface is locked takes it to
ERROR; a read gives the registers' values, and zero at every other offset; a fault record lands in its ring slot behind those that wait for
their release, or is dropped; FRHEAD counts a record, with its MSI-X, once every die's ptc() has passed the record's GWCT (R157).
The function numbers 256 and 257 and the width of a write to MBCMD are the choice of log 13, the lock of VF Enable the
inference of log 28. -/
def Obligations.HostRegisters : Prop :=
  (∀ s vf off val, tabWf {} s.tenants = true →
    let V := getTenant s vf
    (vfReached s vf = false → vf ≠ 0 → vf ≤ 64 → exec (.registerWrite vf off val) s = .next s) ∧
    (vfReached s vf = true → (tdLocked V = true ∧ (off = 0x008 ∨ off = 0x010)) →
      exec (.registerWrite vf off val) s = .next (enterError s vf)) ∧
    (vfReached s vf = true → ¬(tdLocked V = true ∧ (off = 0x008 ∨ off = 0x010)) →
      ∃ s', exec (.registerWrite vf off val) s = .next s' ∧ s' = { s with tenants := s'.tenants } ∧
        (∀ v, v ≠ vf → getTenant s' v = getTenant s v) ∧
        (let base := if off = 0x008 then BitVec.ofNat 64 (val / 4096 * 4096) else V.frbase
         let ctl := if off = 0x010 then BitVec.ofNat 32 (val % 32) else V.frctl
         let tail := if off = 0x01C then BitVec.ofNat 32 val else V.frtail
         getTenant s' vf = { V with frbase := base, frctl := ctl, frtail := tail }))) ∧
  (∀ s off val, pfReached s = true → 0x100 ≤ off → off < 0x140 → tabWf 0 s.mbox.cmd = true →
    let n := if off % 8 = 0 then 8 else if off % 4 = 0 then 4 else if off % 2 = 0 then 2 else 1
    ∃ s', exec (.registerWrite 0 off val) s = .next s' ∧ s' = { s with mbox := { s.mbox with cmd := s'.mbox.cmd } } ∧ ∀ i,
      tabGet 0 s'.mbox.cmd i = if off - 0x100 ≤ i ∧ i < off - 0x100 + n then BitVec.ofNat 8 (val / 256 ^ (i - (off - 0x100)))
        else tabGet 0 s.mbox.cmd i) ∧
  (∀ s off val, (pfReached s = false ∨ off < 0x100 ∨ (0x140 ≤ off ∧ off < 0x200) → exec (.registerWrite 0 off val) s = .next s) ∧
    (pfReached s = true → 0x200 ≤ off → tabWf {} s.tenants = true → ∃ s', exec (.registerWrite 0 off val) s = .next s' ∧
      s' = { s with tenants := s'.tenants } ∧ (∀ v, v ≠ 0 → getTenant s' v = getTenant s v) ∧ getTenant s' 0 = { getTenant s 0 with
        frbase := if off = 0x208 then BitVec.ofNat 64 (val / 4096 * 4096) else (getTenant s 0).frbase
        frctl := if off = 0x210 then BitVec.ofNat 32 (val % 32) else (getTenant s 0).frctl
        frtail := if off = 0x21C then BitVec.ofNat 32 val else (getTenant s 0).frtail })) ∧
  (∀ s item val, tabWf {} s.tenants = true →
    (s.boot.mode ≠ .full → exec (.registerWrite 256 item val) s = .next s) ∧
    (s.boot.mode = .full → (∀ V ∈ s.tenants, tdLocked V.2 = false) →
      (val ≤ 64 → item = 0 → ∃ s', exec (.registerWrite 256 item val) s = .next s' ∧ s' = { s with tenants := s'.tenants } ∧
        ∀ v, getTenant s' v = { getTenant s v with enabled := (getTenant s v).enabled || decide (1 ≤ v ∧ v ≤ val) }) ∧
      (item = 1 → exec (.registerWrite 256 item val) s = .next { s with vfMse := val % 2 == 1 }) ∧
      (item = 2 → exec (.registerWrite 256 item val) s = .next { s with vfBar := val / 4096 * 4096 })) ∧
    (s.boot.mode = .full → (∃ V ∈ s.tenants, tdLocked V.2 = true) → ∃ s', exec (.registerWrite 256 item val) s = .next s' ∧
      s'.vfMse = s.vfMse ∧ s'.vfBar = s.vfBar ∧ ∀ v, (getTenant s' v).enabled = (getTenant s v).enabled ∧
        (getTenant s' v).tdisp = if tdLocked (getTenant s v) then .error else (getTenant s v).tdisp)) ∧
  (∀ s off val, exec (.registerWrite 257 off val) s =
    .next { s with cxlWindow := if val ≤ 2 ^ 36 ∧ off + val ≤ s.boot.piles * 2 ^ 36 then (off, val) else s.cxlWindow }) ∧
  (∀ s vf off n, vf ≠ 0 → (vfReached s vf = false → hostRegister s vf off n = none) ∧ (vfReached s vf = true →
    let V := getTenant s vf
    hostRegister s vf 0x008 8 = some V.frbase.toNat ∧ hostRegister s vf 0x010 4 = some V.frctl.toNat ∧
    hostRegister s vf 0x018 4 = some V.frhead.toNat ∧ hostRegister s vf 0x01C 4 = some V.frtail.toNat ∧
    hostRegister s vf 0x020 4 = some (if V.ovf then 1 else 0) ∧
    (off + n ≤ 0x008 ∨ (0x014 ≤ off ∧ off + n ≤ 0x018) ∨ 0x024 ≤ off → hostRegister s vf off n = some 0))) ∧
  (∀ s off n i, (pfReached s = false → hostRegister s 0 off n = none) ∧ (pfReached s = true →
    let V := getTenant s 0
    hostRegister s 0 0x000 4 = some (bootst s.boot).toNat ∧ hostRegister s 0 0x010 4 = some (mbst s.mbox).toNat ∧
    (i < 64 → hostRegister s 0 (0x100 + i) 1 = some (tabGet 0 s.mbox.cmd i).toNat ∧
      hostRegister s 0 (0x140 + i) 1 = some (tabGet 0 s.mbox.rpl i).toNat) ∧
    hostRegister s 0 0x208 8 = some V.frbase.toNat ∧ hostRegister s 0 0x210 4 = some V.frctl.toNat ∧
    hostRegister s 0 0x218 4 = some V.frhead.toNat ∧ hostRegister s 0 0x21C 4 = some V.frtail.toNat ∧
    hostRegister s 0 0x220 4 = some (if V.ovf then 1 else 0) ∧
    ((0x004 ≤ off ∧ off + n ≤ 0x010) ∨ (0x014 ≤ off ∧ off + n ≤ 0x100) ∨ (0x180 ≤ off ∧ off + n ≤ 0x208) ∨
      (0x214 ≤ off ∧ off + n ≤ 0x218) ∨ 0x224 ≤ off → hostRegister s 0 off n = some 0))) ∧
  (∀ s c, c < 288 → hostPlace s c = tabGet 0 s.place c) ∧
  (∀ s fn val, tabWf {} s.tenants = true → (if fn = 0 then pfReached s else vfReached s fn) = true →
    ∃ s', exec (.frstatClear fn val) s = .next s' ∧ s' = { s with tenants := s'.tenants } ∧
      getTenant s' fn = { getTenant s fn with
        ovf := (getTenant s fn).ovf && (val % 2 == 0 || (getTenant s fn).ovfAt == s.ptc + 1) } ∧ ∀ v, v ≠ fn → getTenant s' v = getTenant s v) ∧
  (∀ s val, pfReached s = true → exec (.mbstClear val) s = .next { s with mbox := { s.mbox with
    lost := s.mbox.lost && (!val.testBit 2 || s.mbox.lostAt == s.ptc + 1)
    done := s.mbox.done && (!val.testBit 1 || s.mbox.doneAt == s.ptc + 1) } }) ∧
  (∀ s fn r, tabWf {} s.tenants = true → Memory.wf s.mem = true →
    let V := getTenant s fn
    let size := 2 ^ (V.frctl.extractLsb' 0 4).toNat
    let head := V.frhead + BitVec.ofNat 32 V.frdue.length
    let s' := faultRecord s fn r
    (V.frctl.getLsbD 4 = false → s' = s) ∧
    (V.frctl.getLsbD 4 = true → (head - V.frtail).toNat = size → s'.mem = s.mem ∧ (getTenant s' fn).ovf = true ∧
      (getTenant s' fn).frhead = V.frhead ∧ (getTenant s' fn).frdue = V.frdue) ∧
    (V.frctl.getLsbD 4 = true → (head - V.frtail).toNat ≠ size →
      let a := V.frbase.toNat + 64 * (head.toNat % size)
      (getTenant s' fn).frhead = V.frhead ∧ (getTenant s' fn).frdue = V.frdue ++ [gwctOf s 99 a 64] ∧ s'.msix = s.msix ∧
      (getTenant s' fn).ovf = V.ovf ∧
      (paKind s a ≠ .hole → WholeGranules s (cellOf a) 64 → Wrote s s' (cellOf a) (numBytes 64 (recordNum (hubPtc s) r))))) ∧
  (∀ s fn, tabWf {} s.tenants = true →
    let V := getTenant s fn
    let ended := fun (g : Nat) => ∀ d, d < 11 → g < diePtc s d
    ∃ (n : Nat) (l : List (Nat × Nat)), raiseHeads s = { s with tenants := (raiseHeads s).tenants, msix := l ++ s.msix } ∧
      getTenant (raiseHeads s) fn = { V with frhead := V.frhead + BitVec.ofNat 32 n, frdue := V.frdue.drop n } ∧ n ≤ V.frdue.length ∧
      (∀ k, k < n → ended (V.frdue.getD k 0)) ∧ (n < V.frdue.length → ¬ended (V.frdue.getD n 0)) ∧ l.count (fn, 0) = n)

/-- R340, R350, R364, R365: a doorbell while a command runs is dropped and sets LOST; else its command runs on a copy of MBCMD and
its reply ends it; a code not listed ends with 0xFF; the key commands and FW_UPDATE store what they name; a refused object
changes nothing, and the reply to a load or a key read comes once its writes are visible on every die; each kind of relocation computes
its value in the field of its word, or overflows, and HI20 with LO12 adds the whole difference (R361).
The readings of the loader and its release, and its choice of pages, are those of logs 12 and 32. -/
def Obligations.MailboxCommands : Prop :=
  (∀ s w code, pfReached s = true → ((w, code) ∈ [(Instr.loadObject, 1), (.readIdkey, 2), (.installKey, 3), (.removeKey, 4), (.fwUpdate, 5)] ∨
      (∃ k, w = .mailboxUnknownCommand k ∧ (k % 256 = 0 ∨ 6 ≤ k % 256))) →
    s.mbox.busy = true → exec w s = .next { s with mbox := { s.mbox with lost := true, lostAt := s.ptc + 1 } }) ∧
  (∀ s, s.mbox.busy = true →
    let visible := ∀ d, d < 11 → s.mbox.after = 0 ∨ s.mbox.after < diePtc s d
    (visible → ∃ s', exec .mailboxReply s = .next s' ∧ s'.mem = s.mem ∧ s'.tenants = s.tenants ∧ s'.mbox.rpl = s.mbox.out ∧
      s'.mbox.busy = false ∧ s'.mbox.done = true ∧ s'.mbox.last = s.mbox.last ∧ s'.msix = (0, 1) :: s.msix) ∧
    (¬visible → exec .mailboxReply s = .next s)) ∧
  (∀ s, s.ptc + 8 ≤ leasesEnd s ∧ ∀ d ∈ s.dies, ∀ c ∈ d.2.copies, c.expiry + 8 ≤ leasesEnd s) ∧
  (∀ s code, pfReached s = true → s.mbox.busy = false → (code % 256 = 0 ∨ 6 ≤ code % 256) →
    ∃ s', exec (.mailboxUnknownCommand code) s = .next s' ∧ s'.mem = s.mem ∧ s'.tenants = s.tenants ∧ tabNum s'.mbox.rpl 0 4 = 0xFF ∧
      s'.mbox.busy = false ∧ s'.mbox.done = true ∧ s'.mbox.last = code % 256 ∧ s'.msix = (0, 1) :: s.msix) ∧
  (∀ s, pfReached s = true → s.mbox.busy = false →
    let x := command s
    let a := cellOf (bytesOf x 0 8)
    let vf := bytesOf x 8 1
    let slot := bytesOf x 9 1
    (zeroBytes x 8 63 = true → a % 16 = 0 → mgmtReadable s a 2048 = true →
      let s1 := homeWrite (rung s 2) a ((List.range 2048).map (fun i => if i < 1793 then Config.idKey.getD i 0 else 0))
      Replies .readIdkey s { s1 with mbox := { s1.mbox with after := gwctOf s 99 a 2048 } } 0 1793) ∧
    (¬(tenantExists s vf = true ∧ slot < 8 ∧ zeroBytes x 10 63 = true) → Replies .installKey s (rung s 3) 1 0) ∧
    (tenantExists s vf = true → slot < 8 → zeroBytes x 10 63 = true →
      (mgmtReadable s a 1793 = false → Replies .installKey s (rung s 3) 8 0) ∧
      (mgmtReadable s a 1793 = true → Replies .installKey s
        (updTenant (rung s 3) vf (fun V => { V with keys := tabPut V.keys slot (memBytes s.mem a 1793) })) 0 0) ∧
      (zeroBytes x 0 7 = true → Replies .removeKey s
        (updTenant (rung s 4) vf (fun V => { V with keys := V.keys.filter (fun k => k.1 != slot) })) 0 0)) ∧
    (let n := bytesOf x 8 4
     0 < n → zeroBytes x 12 63 = true → mgmtReadable s a n = true →
       (Config.firmwareVerify (memBytes s.mem a n) = false → Replies .fwUpdate s (rung s 5) 3 0) ∧
       (Config.firmwareVerify (memBytes s.mem a n) = true →
         Replies .fwUpdate s { rung s 5 with fwNext := some (memBytes s.mem a n) } 0 0)) ∧
    ((getTenant s (bytesOf x 12 1)).nextObj < 2 ^ 32 →
     let r := loadObject (rung s 1) x
     let len := bytesOf x 8 4
     let vf := bytesOf x 12 1
     let rd : FileRd := fun o n => memNum s.mem (a + o) n
     let h := objHdr rd
     let l : LoadAt := ⟨if bytesOf x 16 8 = 0 then h.pref else bytesOf x 16 8, bytesOf x 36 4, bytesOf x 32 4, ncores s vf⟩
     let after := if r.2.1 = 0 then leasesEnd (rung s 1) else 0
     Replies .loadObject s { r.1 with mbox := { r.1.mbox with after := after } } r.2.1 (r.2.2.1 + 2 ^ 32 * r.2.2.2) ∧ (r.2.1 ≠ 0 → r.1 = rung s 1) ∧
     (∀ ps s' n, tenantExists s vf = true → zeroBytes x 13 15 = true → zeroBytes x 40 63 = true → 0 < len →
       mgmtReadable s a len = true → objectOk rd h len = true → h.level = 1 → signatureOk (getTenant s vf) rd h = true →
       hashesOk rd h = true → l.base % 2 ^ 16 = 0 → rangeFree s vf l.base h.img = true → 0 < l.rcount → l.rcount ≤ 65536 →
       l.rbase + h.nres ≤ l.rcount → relAll rd h l (List.range h.nrel) [] = .ok ps →
       commitLoad (rung s 1) vf rd h l (bytesOf x 24 8) ps = some (s', n) → r = (s', 0, 0xFFFFFFFF, n)))) ∧
  (∀ (rd : FileRd) h l (r : ObjRel) (w : Nat),
    let s := symAddr rd h l r.sym + r.addend
    let b := symAddr rd h l r.bsym
    let kind := (objSym rd h r.sym).kind
    let plain := r.sym = 0 ∨ kind = 2
    let within := fun (v lo hi : Int) (n : Nat) => if lo ≤ v ∧ v < hi then some (v % 2 ^ n).toNat else none
    (∀ n, (n = 32 ∨ n = 64) → r.kind = 1 → w / 2 ^ 112 = 0x2200 → tyWidth (tyOfCode (w / 2 ^ 88 % 16)) = n → plain → r.bsym = 0 →
      relValue rd h l r w = some (0, n, within s 0 (2 ^ n) 64)) ∧
    (r.kind = 2 → w / 2 ^ 112 = 0x2300 → plain →
      relValue rd h l r w = some (0, 20, within ((s - b + 0x800) / 4096) (-(2 ^ 19)) (2 ^ 19) 20)) ∧
    (r.kind = 3 → wordFmt w = some .m → plain →
      relValue rd h l r w = some (0, 12, some ((s - b - (s - b + 0x800) / 4096 * 4096) % 2 ^ 12).toNat)) ∧
    (r.kind = 4 → r.sym ≠ 0 → kind = 3 → r.bsym = 0 →
      (wordFmt w = some .m → relValue rd h l r w = some (32, 16, within s 0 l.rcount 64)) ∧
      (wordFmt w = some .c ∨ wordFmt w = some .e → relValue rd h l r w = some (48, 16, within s 0 l.rcount 64))) ∧
    (r.kind = 5 → r.sym ≠ 0 → kind = 1 →
      let v := fun (p : Int) => if (s - p) % 16 = 0 then within ((s - p) / 16) (-(2 ^ 23)) (2 ^ 23) 24 else none
      (∀ o, r.field ≠ 0 → r.bsym = 0 → headerField w r.field = some o →
        relValue rd h l r w = some (o, 24, v (l.base + (objSec rd h r.sec).loff + r.offset))) ∧
      (∀ y, r.field = 0 → w / 2 ^ 112 = 0x0400 → r.bsym ≠ 0 → y = objSym rd h r.bsym → y.kind = 1 → y.sec = r.sec → y.value ≤ r.offset →
        r.offset < y.value + 16 * blockWords (secNum rd (objSec rd h r.sec) y.value 16) → relValue rd h l r w = some (0, 24, v b))) ∧
    (r.kind = 6 → wordFmt w = some .a → w.testBit 56 = true → r.sym = 0 → r.bsym = 0 →
      relValue rd h l r w = some (24, 32, within (l.cores + r.addend) 0 (2 ^ 32) 64))) ∧
  (∀ d : Int, let hi := (d + 0x800) / 4096
    let lo := (d - hi * 4096) % 2 ^ 12
    hi * 4096 + (if 2 ^ 11 ≤ lo then lo - 2 ^ 12 else lo) = d)

namespace Sys2Proof.Claims

/-- A TDISP request is answered, with the interface left in a state, and neither memory nor a team changed. -/
def TdAnswers (s : State) (vf : Nat) (i : Instr) (a : TdAnswer) (t : TdState) : Prop :=
  ∃ s', exec i s = .next s' ∧ s'.tdAnswers = (vf, a) :: s.tdAnswers ∧ (getTenant s' vf).tdisp = t ∧ s'.mem = s.mem ∧ s'.teams = s.teams

/-- A start ends the stage that runs with a failure for a reason: the device holds reset for 10 ms, after the fourth start for good. -/
def StageFailed (y : StartTests) (s : State) (reason : Nat) : Prop :=
  ∃ s', exec (.deviceStart y) s = .next s' ∧ s'.boot.stage = s.boot.stage ∧ s'.boot.reason = reason ∧ s'.boot.tests = none ∧ s'.mem = s.mem ∧
    (s.boot.starts = 3 → s'.boot.mode = .held ∧ s'.boot.holdUntil = none) ∧
    (s.boot.starts ≠ 3 → s'.boot.mode = .booting ∧ s'.boot.starts = s.boot.starts + 1 ∧ s'.boot.holdUntil = some (s.ptc + 10500000))

/-- The stage that runs passes, and the next one begins. -/
def StagePassed (y : StartTests) (s : State) (more : State → Prop) : Prop :=
  ∃ s', exec (.deviceStart y) s = .next s' ∧ s'.boot.stage = s.boot.stage + 1 ∧ s'.boot.tests = s.boot.tests ∧ s'.boot.mode = .booting ∧
    s'.boot.starts = s.boot.starts ∧ s'.boot.reason = s.boot.reason ∧ s'.mem = s.mem ∧ more s'

end Sys2Proof.Claims

/-- R336, R341 to R344, R346 to R350, R353: the TDISP requests move an interface as the table gives and are else answered with an
error, in the order of their arrival, behind a STOP_INTERFACE whose reset is not complete; a write to a locked item and an IDE failure take it to ERROR; a port keeps the lanes that train; the window gives the
bytes of memory; each stage of a start passes, or fails with its reason, into service or into Halter mode; the clamps and the trip.
The states in which a report is given, the clamps and starts, and accesses outside the window are the inferences of logs 30,
31 and 33; requests without a VF, IDE streams and a trip beside a failed test are the choices of log 46. -/
def Obligations.InterfacesPortsAndStarts : Prop :=
  (∀ s vf b i, i ∈ [Instr.getDeviceInterfaceState vf, .lockInterface vf b, .getDeviceInterfaceReport vf, .startInterface vf, .stopInterface vf] →
    (pfReached s = false → exec i s = .next s) ∧
    (pfReached s = true → s.tdStop = none → s.boot.mode ≠ .full ∨ vf = 0 ∨ 64 < vf →
      exec i s = .next { s with tdAnswers := (vf, .error) :: s.tdAnswers })) ∧
  (∀ s w (r : TdReq), pfReached s = true → s.tdStop ≠ none →
    ((w, r) ∈ (List.range 300).flatMap (fun vf => [(Instr.getDeviceInterfaceState vf, TdReq.state vf), (.lockInterface vf true, .lock vf true),
      (.lockInterface vf false, .lock vf false), (.getDeviceInterfaceReport vf, .report vf), (.startInterface vf, .start vf),
      (.stopInterface vf, .stop vf)])) →
    exec w s = .next { s with tdWaiting := s.tdWaiting ++ [r] }) ∧
  (∀ s, (s.tdStop = none → tdFinish s = s) ∧ ∀ vf, s.tdStop = some vf → tabWf {} s.tenants = true →
    ((getTenant s vf).resetting = true → tdFinish s = s) ∧
    ((getTenant s vf).resetting = false → ∃ s1, tdFinish s = s.tdWaiting.foldl tdArrive s1 ∧ s1.tdStop = none ∧ s1.tdWaiting = [] ∧
      s1.tdAnswers = (vf, .done) :: s.tdAnswers ∧ (getTenant s1 vf).tdisp = .configUnlocked ∧ (∀ x ∈ s1.ide, x.vf ≠ vf) ∧
      s1.mem = s.mem ∧ s1.teams = s.teams)) ∧
  (∀ s vf, tabWf {} s.tenants = true → pfReached s = true → s.tdStop = none → s.boot.mode = .full → 1 ≤ vf → vf ≤ 64 →
    let V := getTenant s vf
    let answers := TdAnswers s vf
    let room := (∃ x ∈ s.ide, x.vf = vf) ∨ (s.ide.filter (fun x => x.port == vfPort V vf)).length < 16
    answers (.getDeviceInterfaceState vf) (.state V.tdisp) V.tdisp ∧
    (V.tdisp = .configUnlocked → room → answers (.lockInterface vf true) .done .configLocked ∧
      ∀ s', exec (.lockInterface vf true) s = .next s' → (∃ x ∈ s'.ide, x.vf = vf) ∧
        (getTenant s' vf).report.1.take 2 = [s.vfBar + 4096 * (vf - 1), 4096]) ∧
    (¬room → answers (.lockInterface vf true) .error V.tdisp) ∧
    (V.tdisp ≠ .configUnlocked → answers (.lockInterface vf true) .error V.tdisp) ∧
    answers (.lockInterface vf false) .error V.tdisp ∧
    (V.tdisp = .configLocked → answers (.startInterface vf) .done .run) ∧
    (V.tdisp ≠ .configLocked → answers (.startInterface vf) .error V.tdisp) ∧
    (V.tdisp = .configLocked ∨ V.tdisp = .run → answers (.getDeviceInterfaceReport vf) (.report V.report.1 V.report.2
      (Config.falconSign (Config.shake256x64 (V.report.1.flatMap (numBytes 8) ++ numBytes 32 V.report.2.toNat)))) V.tdisp) ∧
    (V.tdisp = .configUnlocked ∨ V.tdisp = .error → answers (.getDeviceInterfaceReport vf) .error V.tdisp) ∧
    (V.tdisp = .configUnlocked → answers (.stopInterface vf) .error .configUnlocked) ∧
    (let inSlice := ∃ P, getPart s V.cfg.part = some P ∧ P.current = some vf
     V.tdisp ≠ .configUnlocked → ∃ s', exec (.stopInterface vf) s = .next s' ∧ (∀ x ∈ s'.teams, x.2.vf ≠ vf) ∧
      (¬inSlice → (getTenant s' vf).tdisp = .configUnlocked ∧ s'.tdStop = none ∧
        s'.tdAnswers = (vf, .done) :: s.tdAnswers ∧ ∀ x ∈ s'.ide, x.vf ≠ vf) ∧
      (inSlice → s'.tdStop = some vf ∧ s'.tdAnswers = s.tdAnswers ∧ (getTenant s' vf).resetting = true ∧
        (getTenant s' vf).tdisp = V.tdisp))) ∧
  (∀ s vf item, tabWf {} s.tenants = true → ∀ i, i ∈ [Instr.lockedItemWrite vf item, .ideIntegrityFailure vf] →
    let V := getTenant s vf
    (V.tdisp = .configLocked ∨ V.tdisp = .run → ∃ s', exec i s = .next s' ∧ (getTenant s' vf).tdisp = .error ∧ ∀ x ∈ s'.teams, x.2.vf ≠ vf) ∧
    (V.tdisp = .configUnlocked ∨ V.tdisp = .error → exec i s = .next s)) ∧
  (∀ s port lanes,
    (port < 12 → lanes ∈ [0, 2, 4] → lanes < tabGet 0 s.ports port → ∃ s', exec (.portRetrain port lanes) s = .next s' ∧
      s'.mem = s.mem ∧ s'.teams = s.teams ∧ s'.ports = tabSet 0 s.ports port lanes) ∧
    (port < 2 → lanes ∈ [0, 4, 8] → lanes < tabGet 0 s.hostLanes port → ∃ s', exec (.hostPortDown port lanes) s = .next s' ∧
      s'.mem = s.mem ∧ s'.teams = s.teams ∧ s'.hostLanes = tabSet 0 s.hostLanes port lanes)) ∧
  (∀ s addr (b : List Byte), b ≠ [] →
    let a := s.cxlWindow.1 + addr
    (cxlUp s = true ↔ pfReached s = true ∧ ∃ p, p < 2 ∧ tabGet 0 s.hostLanes p ≠ 0 ∧ tabGet false s.hostCxl p = true) ∧
    (cxlUp s = false → ∀ w, exec (.hostCxlMemAccess addr w b) s = .next s) ∧
    (rangeMoves s a b.length = true → ∀ w, exec (.hostCxlMemAccess addr w b) s = .next s) ∧
    (cxlUp s = true → rangeMoves s a b.length = false → s.cxlWindow.2 < addr + b.length → ∀ w, exec (.hostCxlMemAccess addr w b) s = .fault .physicalHole) ∧
    (cxlUp s = true → rangeMoves s a b.length = false → addr + b.length ≤ s.cxlWindow.2 →
      (Memory.wf s.mem = true → WholeGranules s a b.length → ∃ s', exec (.hostCxlMemAccess addr true b) s = .next s' ∧ Wrote s s' a b) ∧
      (rangePoisoned s a b.length = false → ∃ s', exec (.hostCxlMemAccess addr false b) s = .next s' ∧ s'.mem = s.mem ∧
        s'.cxlData = (List.range b.length).map (fun i => memByte s.mem (a + i))))) ∧
  (∀ x, (∀ d, reachesHub x d = true ↔ linkUp x d 8 = true ∨ ∃ m, m < 11 ∧ m ≠ 8 ∧ linkUp x d m = true ∧ linkUp x m 8 = true) ∧
    (∀ c p, c < 8 → p < 2 → linkUp x c 8 = x.hlinks.getD c false ∧ linkUp x (9 + p) 8 = x.hlinks.getD (8 + p) false ∧
      linkUp x c (9 + p) = (decide (p = c / 4) && x.iolinks.getD c false)) ∧
    (∀ p, halterPort x = some p ↔ p < 2 ∧ linkUp x (9 + p) 8 = true ∧ portLanes x p ≠ 0 ∧
      (p = 1 → linkUp x 9 8 = true → portLanes x 0 = 0)) ∧
    (∀ p c, halterDie x p = some c ↔ c < 8 ∧ linkUp x c 8 = true ∧ linkUp x c (9 + p) = true ∧
      ∀ k, k < c → ¬(linkUp x k 8 = true ∧ linkUp x k (9 + p) = true))) ∧
  (∀ s y, s.boot.mode = .booting → s.boot.holdUntil = none →
    (s.boot.tests = none → ∃ s', exec (.deviceStart y) s = .next s' ∧ s'.boot.stage = 1 ∧ s'.boot.tests = some y ∧ s'.boot.mode = .booting ∧
      s'.boot.starts = s.boot.starts ∧ s'.lat = s.fuseLat ∧ s'.ofs = s.fuseOfs ∧ s'.rr = [] ∧ s'.place = [] ∧ s'.staged = none ∧ s'.mem = s.mem) ∧
    ∀ x, s.boot.tests = some x →
      let k := s.boot.stage
      let failed := StageFailed y s
      let passed := StagePassed y s
      let allReach := (∀ d, d < 8 → reachesHub x d = true) ∧ reachesHub x 9 = true ∧ reachesHub x 10 = true
      let served := fun (m : BootMode) (s' : State) => exec (.deviceStart y) s = .next s' ∧ s'.boot.mode = m ∧ s'.boot.stage = 7 ∧ s'.boot.tests = none ∧
        s'.boot.starts = s.boot.starts ∧ s'.boot.reason = s.boot.reason ∧ s'.boot.t2 = s.boot.t2 ∧ s'.mem = s.mem
      (x.trip = some k → failed 6) ∧
      (x.trip ≠ some k →
        (k = 1 → (x.firmware = false → failed 1) ∧
          (x.firmware = true → passed (fun s' => s'.fwActive = s.fwNext.getD s.fwActive ∧ s'.fwNext = none))) ∧
        (k = 2 → (x.hub = false → failed 5) ∧ (x.hub = true → passed (fun _ => True))) ∧
        (k = 3 → s.boot.starts ≠ 3 → (¬allReach → failed 2) ∧ (allReach → passed (fun _ => True))) ∧
        (k = 3 → s.boot.starts = 3 →
          (linkUp x 9 8 = false → linkUp x 10 8 = false → failed 2) ∧
          (halterPort x = none → linkUp x 9 8 = true ∨ linkUp x 10 8 = true → passed (fun _ => True)) ∧
          (∀ p, halterPort x = some p → (halterDie x p = none → failed 2) ∧ (halterDie x p ≠ none → passed (fun _ => True)))) ∧
        (k = 4 → s.boot.starts ≠ 3 → ((∃ i, i < 8 ∧ x.piles.getD i false = false) → failed 3) ∧
          ((∀ i, i < 8 → x.piles.getD i false = true) → passed (fun _ => True))) ∧
        (k = 4 → s.boot.starts = 3 → passed (fun _ => True)) ∧
        (k = 5 → s.boot.starts ≠ 3 → passed (fun s' => s'.boot.t2 = x.tier2 ∧ s'.boot.cxl = x.cxl.map (fun g => min g 1024))) ∧
        (k = 5 → s.boot.starts = 3 → passed (fun s' => s'.boot.t2 = 0 ∧ s'.boot.cxl = [])) ∧
        (k = 6 → s.boot.starts ≠ 3 → (portLanes x 0 = 0 → portLanes x 1 = 0 → failed 4) ∧
          (portLanes x 0 ≠ 0 ∨ portLanes x 1 ≠ 0 → ∃ s', served .full s' ∧ s'.boot.piles = 8 ∧
            tabGet 0 s'.hostLanes 0 = portLanes x 0 ∧ tabGet 0 s'.hostLanes 1 = portLanes x 1)) ∧
        (k = 6 → s.boot.starts = 3 → (halterPort x = none → failed 4) ∧
          (∀ p c, halterPort x = some p → halterDie x p = some c → ∃ s', served .halter s' ∧ s'.boot.cdie = c ∧
            s'.boot.piles = ((List.range 8).filter (fun i => x.piles.getD i false)).length ∧ s'.hostLanes = [(p, 4)] ∧ s'.ports = [])))) ∧
  (∀ s y, s.boot.mode ≠ .booting ∨ s.boot.holdUntil ≠ none → exec (.deviceStart y) s = .next s) ∧
  (∀ (b : Boot), b.reason < 256 → b.starts < 16 → b.stage < 16 →
    let r := bootst b
    r.extractLsb' 24 8 = 1 ∧ (r.extractLsb' 16 8).toNat = b.reason ∧ (r.extractLsb' 12 4).toNat = b.starts ∧
    (r.extractLsb' 8 4).toNat = b.stage ∧ r.extractLsb' 4 4 = 0 ∧ r.extractLsb' 0 2 = b.t2 ∧
    r.extractLsb' 2 2 = (match b.mode with | .booting => 0 | .full => 1 | .halter => 2 | .held => 3)) ∧
  (∀ s, (∀ t, s.boot.holdUntil = some t → (s.ptc < t → exec .startRetry s = .next s) ∧
      (t ≤ s.ptc → ∃ s', exec .startRetry s = .next s' ∧ s'.boot = { s.boot with holdUntil := none } ∧ s'.mem = s.mem)) ∧
    (tabWf {} s.cores = true → ∃ s', exec .currentClamp s = .next s' ∧ s'.currentCap = true ∧ s'.mem = s.mem ∧ s'.teams = s.teams ∧
      ∀ c, (getCore s' c).mat.rampL = min (getCore s c).mat.rampL 16 ∧ (getCore s' c).scratch = (getCore s c).scratch) ∧
    exec .currentClampRelease s = .next { s with currentCap := false } ∧
    (∀ d, d < 8 → tabWf {} s.dies = true → ∃ s', exec (.thermalThrottle d) s = .next s' ∧ s'.mem = s.mem ∧ s'.teams = s.teams ∧
      getDie s' d = { getDie s d with throttled := true }) ∧
    ∃ s', exec .thermalTrip s = .next s' ∧ s'.teams = [] ∧ s'.mem = [] ∧ s'.cores = [] ∧ s'.tenants = [] ∧ s'.boot.powered = false ∧
      s'.boot.mode = .booting ∧ s'.boot.starts = 0 ∧ s'.lat = s.fuseLat ∧ s'.ofs = s.fuseOfs ∧ s'.retiredCores = s.retiredCores ∧
      s'.fwActive = s.fwActive ∧ s'.fwNext = s.fwNext)

/-! ## Words, turns, steps and invariants -/

namespace Sys2Proof.Claims

/-- The decoder goes past the opcode: the major and minor are assigned to `o`, and the type and form pass (R56). -/
def PastMinor (w : IWord) (o : Op) : Prop :=
  opOf (w.extractLsb' 120 8).toNat (w.extractLsb' 112 8).toNat = some o ∧ (opInfo o).tys.contains (ctlOf w).ty = true ∧
    (badWidth (opInfo o).fmt (w.extractLsb' 0 64) = true ∨
      minorOk o (ctlOf w).ty (payloadOf (opInfo o).fmt (w.extractLsb' 0 64)) = true)

end Sys2Proof.Claims

/-- R35, R46, R49, R51, R54: the fields of the payload formats N, I, H and S lie at the bits given, and a nonzero zero field, a
target slot 0b11, a PM of 0b11, a nonzero invalid target and a scope code from 9 on refuse the word with RESERVED_BITS (0x04). -/
def Obligations.WordFormats : Prop :=
  (∀ w o, PastMinor w o →
    let b := w.extractLsb' 0 64
    let f := (opInfo o).fmt
    let refused := decode w = .error .reservedBits
    (w.extractLsb' 103 2 = 3 ∨ w.extractLsb' 94 2 = 3 ∨ w.extractLsb' 92 2 = 3 → refused) ∧
    (w.getLsbD 111 = false → w.extractLsb' 103 8 ≠ 0 → refused) ∧ (w.getLsbD 102 = false → w.extractLsb' 94 8 ≠ 0 → refused) ∧
    (w.extractLsb' 92 2 ≠ 0 → (opInfo o).pData = true → refused) ∧
    (f = .n → b ≠ 0 → refused) ∧ (f = .h → b.extractLsb' 20 43 ≠ 0 → refused) ∧ (f = .s → b.extractLsb' 40 12 ≠ 0 → refused) ∧
    (f = .s ∨ f = .m → 9 ≤ (b.extractLsb' 60 4).toNat → refused)) ∧
  (∀ b : BitVec 64, payloadOf .i b = .i ⟨b⟩ ∧ payloadOf .h b = .h ⟨b.getLsbD 63, b.extractLsb' 0 20⟩ ∧
    payloadOf .s b = .s ⟨scopeOf (b.extractLsb' 60 4).toNat, b.extractLsb' 56 4, b.extractLsb' 52 4, b.extractLsb' 0 40⟩) ∧
  (List.range 9).map scopeOf = [.thread, .warp, .team, .core, .die, .package, .host, .peer, .system] ∧
  trapNum .reservedBits = 4

/-- R119: a product word is NaR where PN is set, else zero where PZ is set, else the term of its sign, its 16-bit code and its
base; LGMUL writes sign and code 0 for a zero and a NaR. -/
def Obligations.ProductWordsRead : Prop :=
  (∀ x : Nat, x < 2 ^ 32 →
    (x.testBit 29 = true → lgUnword x = .nar) ∧
    (x.testBit 29 = false → x.testBit 30 = true → lgUnword x = .zero) ∧
    (x.testBit 29 = false → x.testBit 30 = false →
      lgTerm (lgUnword x) = some (lgterm (x.testBit 31) (BitVec.ofNat 16 x).toInt (if x.testBit 28 then 8 else 4)))) ∧
  (∀ q p, p = .zero ∨ p = .nar → (lgWord q p).testBit 31 = false ∧ lgWord q p % 2 ^ 16 = 0)

/-- R28, R29, R40, R46 to R54, R56: words written out in the specification's examples decode to the instructions they stand for. -/
def Obligations.DecodesSpecWords : Prop :=
  let z : Ctl := ⟨none, none, .none, .s32, 0, 0, 0, 0, 0, false⟩
  let tg := fun (n : BitVec 6) (s : Slot) => some (⟨n, s⟩ : Target)
  decode 0x12008200000000000100000003000000#128 = .ok (.mul { z with tgt0 := tg 1 .l } ⟨false, .rne, 0, true, 3, 0⟩) ∧
  decode 0x20028200010000000100000028000000#128 = .ok (.cmpLt { z with tgt0 := tg 1 .l, ty := .n32 } ⟨false, .rne, 0, true, 40, 0⟩) ∧
  decode 0x23008200030000008000000000012345#128 = .ok (.addhi { z with tgt0 := tg 1 .l, ty := .n64 } ⟨true, 0x12345⟩) ∧
  decode 0x2200000003000000000000007FF20800#128 = .ok (.movi { z with ty := .n64 } ⟨0x7FF20800⟩) ∧
  decode 0x05000000000000000028000000000000#128 = .ok (.calli z ⟨0x28, 0⟩) ∧
  decode 0x07000000000000100000000000000000#128 = .ok (.exit { z with wait := 2 }) ∧
  decode 0x50008200010000005100000000000010#128 = .ok (.ld { z with tgt0 := tg 1 .l, ty := .n32 } ⟨.package, .normal, .w4, 0, 16⟩) ∧
  decode 0x57000000130000002300000000000000#128 = .ok (.atomvOr { z with pm := .ifTrue, ty := .n64 } ⟨.team, .normal, .w64, 0, 0⟩) ∧
  decode 0x600000000000480000051C2000000000#128 = .ok (.cpytLd { z with sbset := 9 } ⟨5, 0, 0x1C, 0x20, 0⟩) ∧
  decode 0x6A000000000050000002300000000000#128 = .ok (.mma { z with sbset := 10 } ⟨2, 1, 0x10, 0, 0⟩) ∧
  decode 0x6F000000000048000005000000000000#128 = .ok (.drain { z with sbset := 9 } ⟨5, 0, 0, 0, 0⟩) ∧
  decode 0x7E000000000000000000000000000021#128 = .ok (.lctx z ⟨0, 0, 0, 0, 0x21⟩) ∧
  decode 0x7F000000000060000003010200008003#128 = .ok (.strmo { z with sbset := 12 } ⟨3, 0, 1, 2, 0x8003⟩) ∧
  decode 0x8B000000000000002200000000040003#128 = .ok (.barx z ⟨.team, 2, 0, 0x40003⟩) ∧
  decode 0x9000000000000000000000000000002A#128 = .ok (.trap z ⟨.thread, 0, 0, 0x2A⟩) ∧
  decode 0x92000000030000000000000000000012#128 = .ok (.srd { z with ty := .n64 } ⟨.thread, 0, 0, 0x12⟩)

/-- R28, R46 to R56: decoding the word of a well-formed instruction gives the instruction back, whatever its operands. -/
def Obligations.EncodeThenDecode : Prop := ∀ i w, i.wf = true → encode i = some w → decode w = .ok i

/-- R28, R35, R46 to R56: a word that decodes is the word of its instruction, which is well-formed: no bit of it is dropped. -/
def Obligations.DecodeThenEncode : Prop := ∀ w i, decode w = .ok i → i.wf = true ∧ encode i = some w

/-- R68, R80, R81 (the agenda and the tick are the model's, log 1): a step runs the instruction that the word at a unit's turn decodes
to, on that unit, or the machine's own step that the agenda names, or reads one piece; with nothing chosen one cycle of the PTC passes,
in which the warps that R81 lets wait no longer issue first. -/
def Obligations.StepRuns : Prop :=
  (∀ s t u rest w i, s.agenda = .issue t u :: rest → nextWord s t u = some w → decode w = .ok i →
    step s = exec i { s with agenda := rest, issuer := (t, u) }) ∧
  (∀ s t u rest T x f, s.agenda = .issue t u :: rest → At s t u T x → x.flight = some f → nextWord s t u = f.words[f.idx]?) ∧
  (∀ s i rest, s.agenda = .event i :: rest → i.view = none → step s = exec i { s with agenda := rest }) ∧
  (∀ s t u a rest, s.agenda = .readPiece t u a :: rest → step s = .next (readPiece { s with agenda := rest } t u a)) ∧
  (∀ s, s.agenda = [] → overdue s = [] → ∃ s', step s = .next s' ∧ s'.ptc = s.ptc + 1 ∧ (s.tdStop = none → s'.boot = s.boot ∧ s'.place = s.place ∧
    ((∀ c ∈ s.cores, c.2.grid.active = none) → s'.mem = s.mem))) ∧
  (∀ s x w i s1, s.agenda = [] → overdue s = [x] → nextWord s x.1 x.2 = some w → decode w = .ok i → exec i { s with issuer := x } = .next s1 →
    step s = .next (tick s1)) ∧
  (∀ s s1, s.agenda = [] → step s = .next s1 → ∃ s2, issueAll (overdue s) s = .next s2 ∧ s1.ptc = s2.ptc + 1) ∧
  (∀ s t u, tabSorted s.teams = true → (∀ y ∈ s.teams, tabSorted y.2.units = true) → (t, u) ∈ overdue s → ∃ T x f, At s t u T x ∧ x.flight = some f ∧ u < 16 ∧ 60 ≤ x.ageing ∧
    unitReady s ⟨t, u, T, x, f⟩ = true ∧ noSlot s ⟨t, u, T, x, f⟩ = false)

/-- R21, R273, R337, R340, R349 (and the model's choice of logs 6 and 7): after reset the boot register reads ARCH 1 and zeros
elsewhere, the register pages, the mailbox and the place table read zero, no team or core holds anything, and memory is in its
canonical form.
That no team or core holds anything, and the default core, rest on log 35. -/
def Obligations.ResetState : Prop :=
  let s := State.reset
  bootst s.boot = 0x01000000 ∧ s.teams = [] ∧ s.cores = [] ∧ s.reqs = [] ∧ Memory.wf s.mem = true ∧ (∀ a, memByte s.mem a = 0) ∧
  (∀ n, tabGet 0 s.place n = 0) ∧ (∀ c, getCore s c = {}) ∧
  (∀ v, let V := getTenant s v
    V.frbase = 0 ∧ V.frctl = 0 ∧ V.frhead = 0 ∧ V.frtail = 0 ∧ V.ovf = false ∧ V.tdisp = .configUnlocked ∧ V.enabled = false ∧ V.keys = []) ∧
  mbst s.mbox = 0 ∧ (∀ i, tabGet 0 s.mbox.cmd i = 0 ∧ tabGet 0 s.mbox.rpl i = 0) ∧
  (∀ a b, a < 11 → b < 11 → tabGet false s.rr (16 * a + b) = false ∧ tabGet 0 s.ofs a = 0 ∧
    tabGet 0 s.lat (16 * a + b) = if a = b then 0 else 1)

/-- The canonical form of memory (addresses rising, no byte listed that reads as an unlisted one) is kept by every step. -/
def Obligations.MemoryStaysCanonical : Prop := ∀ s s', Memory.wf s.mem = true → step s = .next s' → Memory.wf s'.mem = true

/-- R31, R32, R36, R68, R69, R95, R129, R133, R163, R182: a word's turn is there when its block has entered and goes on, its planned slot
has come, its operands and the tokens of its WAIT have arrived, its SBSET token is free, and so is the path of its quarter that it needs
where a lane fires, and no table entry that it reads lies in a page in transition; until
then the word does nothing but what the gate says, and a null operand or predicate in a lane leaves that lane out.
When the token of SBSET is complete is the inference of log 37, the cycles of a quarter that of log 14. -/
def Obligations.TurnOfAWord : Prop :=
  (∀ s i o c pl, gate s i o c pl = none ↔
    (i.f.entered = true ∧ i.f.fault = none ∧ i.f.wait = none ∧ i.f.idx < i.f.hdr.icnt ∧ i.f.turn ≤ s.ptc ∧ noSlot s i = false ∧
     (∀ sl, usesSlot o c pl sl = true → ∃ k, tabFind i.f.toks (4 * i.f.idx + slotIdx sl) = some k ∧ k.ready ≤ s.ptc) ∧
     (∀ b, b < 8 → c.wait.getLsbD b = true → tokWait (diePtc s (dieOf i.T.core)) (reqDone s i.T.core) (getTok i.w b) = .go) ∧
     (c.sbset.getLsbD 3 = true → tokBusy (diePtc s (dieOf i.T.core)) (getTok i.w (c.sbset.extractLsb' 0 3).toNat) = false) ∧
     (∀ p n, i.u ≠ 16 → (leader (allOpnds i o c pl)).isSome = true → pathOf o c pl = some (p, n) →
       tabGet 0 (getCore s i.T.core).paths (4 * p + i.u % 4) ≤ s.ptc) ∧
     ((∃ k ∈ entriesRead o pl, k < i.T.lrec.rcount ∧ coreMoves s i.T.core i.T.vf (i.T.lrec.rtab + 64 * k) 64 = true) →
       (o ≠ .calli ∧ leader (allOpnds i o c pl) = none)))) ∧
  (∀ w o c pl s i s', w.view = some (o, c, pl) → issCtx s = some i → gate s i o c pl = some s' → exec w s = .next s') ∧
  (∀ o c pl l r p, laneOpnds o c pl l r p ≠ none →
    (c.pm = .ifTrue → ∃ v, p = some v ∧ v ≠ 0) ∧ (c.pm = .ifFalse → p = some 0) ∧
    (usesSlot o c pl .l = true → l ≠ none) ∧ (usesSlot o c pl .r = true → r ≠ none)) ∧
  (∀ o c pl sl v, usesSlot o c pl sl = true → slotWidth o c.ty pl sl ≠ 0 →
    slotVal o c pl sl (some v) = some ((v.setWidth (min 128 (slotWidth o c.ty pl sl))).setWidth 128))

/-- R30, R36, R70: a result goes to its targets and its header writes, its flags join the block's, and the next turn is a slot
and its stall later; no register, no other unit, team or core and no byte of memory changes before the commit; of a tenant only the access bits of
what the word read change (R304).
The slots between two turns are those of log 14. -/
def Obligations.ResultDelivery : Prop :=
  ∀ s i o c pl lanes lat fl, issCtx s = some i →
    let s' := finish s i o c pl lanes lat fl
    let k : Tok := ⟨lanes, s.ptc + lat⟩
    let sent := fun (n : Nat) => ∃ g, (c.tgt0 = some g ∨ c.tgt1 = some g) ∧ n = 4 * g.cons.toNat + slotIdx g.slot
    (∃ T' w' f', At s' i.t i.u T' w' ∧ w'.flight = some f' ∧ f'.idx = i.f.idx + 1 ∧
      f'.turn = s.ptc + slotCycles i.u * (1 + c.stall.toNat) ∧ f'.raised = i.f.raised ||| fl ∧ f'.stores = i.f.stores ∧
      (∀ n, sent n → tabFind f'.toks n = some k) ∧ (∀ n, ¬sent n → tabFind f'.toks n = tabFind i.f.toks n) ∧
      tabFind f'.results i.f.idx = some k ∧ (∀ n, n ≠ i.f.idx → tabFind f'.results n = tabFind i.f.results n) ∧
      w'.v = i.w.v ∧ w'.k = i.w.k ∧ w'.q = i.w.q ∧ w'.fflags = i.w.fflags ∧ w'.splits = i.w.splits ∧ w'.tm = i.w.tm ∧
      w'.frame = i.w.frame ∧ w'.bkpten = i.w.bkpten ∧ w'.arrivals = i.w.arrivals ∧ T'.bars = i.T.bars ∧
      (c.sbset.getLsbD 3 = false → w'.toks = i.w.toks) ∧ ∀ u, u ≠ i.u → tabFind T'.units u = tabFind i.T.units u) ∧
    (∀ t, t ≠ i.t → getTeam s' t = getTeam s t) ∧ s'.mem = s.mem ∧ s'.reqs = s.reqs ∧ s'.loads = s.loads ∧
    (entriesRead o pl = [] → s'.tenants = s.tenants) ∧
    (tabWf {} s.tenants = true → ∀ v, { getTenant s' v with bits := (getTenant s v).bits } = getTenant s v) ∧
    (tabWf {} s.cores = true → ∀ k, (getCore s' k).scratch = (getCore s k).scratch ∧ (getCore s' k).mat = (getCore s k).mat ∧
      (getCore s' k).grid = (getCore s k).grid)
end

