-- ==== Sys2Proof/Laws/Encoding.lean ====
section
/-! SUPPORT. The fields of an encoded word, read back one by one. -/

namespace Sys2Proof

open Machine

theorem extract_append_high {w v : Nat} (x : BitVec w) (y : BitVec v) (k m : Nat) :
    (x ++ y).extractLsb' (v + k) m = x.extractLsb' k m := by
  ext i hi
  grind

theorem extract_append_low {w v : Nat} (x : BitVec w) (y : BitVec v) (k m : Nat) (h : k + m ≤ v) :
    (x ++ y).extractLsb' k m = y.extractLsb' k m := by
  ext i hi
  grind

theorem extract_all {w : Nat} (x : BitVec w) : x.extractLsb' 0 w = x := by
  apply BitVec.eq_of_getLsbD_eq
  intro i hi
  simp [hi]

theorem ofNat_toNat_lt {w n : Nat} (h : n < 2 ^ w) : (BitVec.ofNat w n).toNat = n := by
  simp [Nat.mod_eq_of_lt h]

/-! ## The opcode -/

theorem opOf_opInfo (o : Op) : opOf (opInfo o).maj (opInfo o).min = some o := by
  cases o <;> decide +kernel

theorem opInfo_codes (o : Op) : (opInfo o).maj < 256 ∧ (opInfo o).min < 256 := by
  cases o <;> decide

theorem encodeWord_major (o : Op) (c : Ctl) (p : Payload) :
    (encodeWord o c p).extractLsb' 120 8 = BitVec.ofNat 8 (opInfo o).maj := by
  have h := extract_append_high (BitVec.ofNat 8 (opInfo o).maj)
    (BitVec.ofNat 8 (opInfo o).min ++ ctlBits c ++ payloadBits p) 0 8
  rw [extract_all] at h
  rw [← h]
  apply BitVec.eq_of_getLsbD_eq
  intro i hi
  simp only [encodeWord, BitVec.getLsbD_extractLsb', BitVec.getLsbD_append]
  rw [if_neg (by omega), if_neg (by omega), if_neg (by omega), if_neg (by omega)]
  congr 2

theorem encodeWord_minor (o : Op) (c : Ctl) (p : Payload) :
    (encodeWord o c p).extractLsb' 112 8 = BitVec.ofNat 8 (opInfo o).min := by
  apply BitVec.eq_of_getLsbD_eq
  intro i hi
  simp only [encodeWord, BitVec.getLsbD_extractLsb', BitVec.getLsbD_append]
  rw [if_neg (by omega), if_neg (by omega), if_pos (by omega)]
  simp only [hi, decide_true, Bool.true_and]
  congr 1
  omega

/-- The common fields of an encoded word. -/
theorem encodeWord_ctl (o : Op) (c : Ctl) (p : Payload) :
    (encodeWord o c p).extractLsb' 64 48 = ctlBits c := by
  have h := extract_append_high (BitVec.ofNat 8 (opInfo o).maj ++ BitVec.ofNat 8 (opInfo o).min ++ ctlBits c) (payloadBits p) 0 48
  have h2 := extract_append_low (BitVec.ofNat 8 (opInfo o).maj ++ BitVec.ofNat 8 (opInfo o).min) (ctlBits c) 0 48 (by omega)
  exact h.trans (h2.trans (extract_all _))

/-- The payload of an encoded word. -/
theorem encodeWord_payload (o : Op) (c : Ctl) (p : Payload) :
    (encodeWord o c p).extractLsb' 0 64 = payloadBits p := by
  have h := extract_append_low (BitVec.ofNat 8 (opInfo o).maj ++ BitVec.ofNat 8 (opInfo o).min ++ ctlBits c) (payloadBits p) 0 64 (by omega)
  exact h.trans (extract_all _)

/-! ## Fields of a field -/

theorem extract_extract {w : Nat} (x : BitVec w) (a n k m : Nat) (h : k + m ≤ n) :
    (x.extractLsb' a n).extractLsb' k m = x.extractLsb' (a + k) m := by
  ext i hi
  grind

theorem targetOf_targetBits (t : Option Target) : targetOf (targetBits t) = t := by
  cases t with
  | none => decide
  | some t =>
    obtain ⟨n, s⟩ := t
    have h8 : (targetBits (some ⟨n, s⟩)).getLsbD 8 = true := by
      show ((1#1 ++ n) ++ slotCode s).getLsbD 8 = true
      rw [BitVec.getLsbD_append, if_neg (by omega), BitVec.getLsbD_append, if_neg (by omega)]
      rfl
    have hc : (targetBits (some ⟨n, s⟩)).extractLsb' 2 6 = n := by
      have h := extract_append_high (1#1 ++ n) (slotCode s) 0 6
      have h2 := extract_append_low 1#1 n 0 6 (by omega)
      exact h.trans (h2.trans (extract_all _))
    have hs : (targetBits (some ⟨n, s⟩)).extractLsb' 0 2 = slotCode s := by
      have h := extract_append_low (1#1 ++ n) (slotCode s) 0 2 (by omega)
      exact h.trans (extract_all _)
    unfold targetOf
    rw [h8, hc, hs]
    cases s <;> rfl

theorem targetOk_targetBits (t : Option Target) : targetOk (targetBits t) = true := by
  cases t with
  | none => decide
  | some t =>
    obtain ⟨n, s⟩ := t
    have h8 : (targetBits (some ⟨n, s⟩)).getLsbD 8 = true := by
      show ((1#1 ++ n) ++ slotCode s).getLsbD 8 = true
      rw [BitVec.getLsbD_append, if_neg (by omega), BitVec.getLsbD_append, if_neg (by omega)]
      rfl
    have hs : (targetBits (some ⟨n, s⟩)).extractLsb' 0 2 = slotCode s := by
      have h := extract_append_low (1#1 ++ n) (slotCode s) 0 2 (by omega)
      exact h.trans (extract_all _)
    unfold targetOk
    rw [h8, hs]
    cases s <;> rfl

theorem pmOf_pmCode (m : PredMode) : pmOf (pmCode m).toNat = m := by cases m <;> rfl
theorem rmOf_rmCode (m : RMode) : rmOf (rmCode m).toNat = m := by cases m <;> rfl
theorem scopeOf_scopeBits (m : Scope) : scopeOf (scopeBits m).toNat = m := by cases m <;> rfl
theorem cacheOf_cacheCode (m : CacheHint) : cacheOf (cacheCode m).toNat = m := by cases m <;> rfl
theorem widthOf_widthCode (m : Width) : widthOf (widthCode m).toNat = m := by cases m <;> rfl
theorem tyOfCode_tyCode (t : Ty) : tyOfCode (tyCode t) = t := by cases t <;> rfl

/-! ## The common fields (R28) -/

theorem ctlBits_yld (c : Ctl) : (ctlBits c).extractLsb' 0 1 = BitVec.ofBool c.yld := by
  apply BitVec.eq_of_getLsbD_eq
  intro i hi
  simp only [ctlBits, BitVec.getLsbD_extractLsb', BitVec.getLsbD_append]
  simp (disch := omega) only [if_pos, hi, decide_true, Bool.true_and]
  congr 1
  omega

theorem ctlBits_keep (c : Ctl) : (ctlBits c).extractLsb' 1 2 = c.keep := by
  apply BitVec.eq_of_getLsbD_eq
  intro i hi
  simp only [ctlBits, BitVec.getLsbD_extractLsb', BitVec.getLsbD_append]
  simp (disch := omega) only [if_neg, if_pos, hi, decide_true, Bool.true_and]
  congr 1
  omega

theorem ctlBits_wait (c : Ctl) : (ctlBits c).extractLsb' 3 8 = c.wait := by
  apply BitVec.eq_of_getLsbD_eq
  intro i hi
  simp only [ctlBits, BitVec.getLsbD_extractLsb', BitVec.getLsbD_append]
  simp (disch := omega) only [if_neg, if_pos, hi, decide_true, Bool.true_and]
  congr 1
  omega

theorem ctlBits_sbset (c : Ctl) : (ctlBits c).extractLsb' 11 4 = c.sbset := by
  apply BitVec.eq_of_getLsbD_eq
  intro i hi
  simp only [ctlBits, BitVec.getLsbD_extractLsb', BitVec.getLsbD_append]
  simp (disch := omega) only [if_neg, if_pos, hi, decide_true, Bool.true_and]
  congr 1
  omega

theorem ctlBits_stall (c : Ctl) : (ctlBits c).extractLsb' 15 4 = c.stall := by
  apply BitVec.eq_of_getLsbD_eq
  intro i hi
  simp only [ctlBits, BitVec.getLsbD_extractLsb', BitVec.getLsbD_append]
  simp (disch := omega) only [if_neg, if_pos, hi, decide_true, Bool.true_and]
  congr 1
  omega

theorem ctlBits_lsid (c : Ctl) : (ctlBits c).extractLsb' 19 5 = c.lsid := by
  apply BitVec.eq_of_getLsbD_eq
  intro i hi
  simp only [ctlBits, BitVec.getLsbD_extractLsb', BitVec.getLsbD_append]
  simp (disch := omega) only [if_neg, if_pos, hi, decide_true, Bool.true_and]
  congr 1
  omega

theorem ctlBits_ty (c : Ctl) : (ctlBits c).extractLsb' 24 4 = BitVec.ofNat 4 (tyCode c.ty) := by
  apply BitVec.eq_of_getLsbD_eq
  intro i hi
  simp only [ctlBits, BitVec.getLsbD_extractLsb', BitVec.getLsbD_append]
  simp (disch := omega) only [if_neg, if_pos, hi, decide_true, Bool.true_and]
  congr 1
  omega

theorem ctlBits_pm (c : Ctl) : (ctlBits c).extractLsb' 28 2 = pmCode c.pm := by
  apply BitVec.eq_of_getLsbD_eq
  intro i hi
  simp only [ctlBits, BitVec.getLsbD_extractLsb', BitVec.getLsbD_append]
  simp (disch := omega) only [if_neg, if_pos, hi, decide_true, Bool.true_and]
  congr 1
  omega

theorem ctlBits_tgt1 (c : Ctl) : (ctlBits c).extractLsb' 30 9 = targetBits c.tgt1 := by
  apply BitVec.eq_of_getLsbD_eq
  intro i hi
  simp only [ctlBits, BitVec.getLsbD_extractLsb', BitVec.getLsbD_append]
  simp (disch := omega) only [if_neg, if_pos, hi, decide_true, Bool.true_and]
  congr 1
  omega

theorem ctlBits_tgt0 (c : Ctl) : (ctlBits c).extractLsb' 39 9 = targetBits c.tgt0 := by
  apply BitVec.eq_of_getLsbD_eq
  intro i hi
  simp only [ctlBits, BitVec.getLsbD_extractLsb', BitVec.getLsbD_append]
  simp (disch := omega) only [if_neg, hi, decide_true, Bool.true_and]
  congr 1
  omega

/-! ## The payload fields (R46 to R54) -/

theorem payloadBits_a_zero (p : FmtA) : (payloadBits (.a p)).extractLsb' 0 8 = 0#8 := by
  apply BitVec.eq_of_getLsbD_eq
  intro i hi
  simp only [payloadBits, BitVec.getLsbD_extractLsb', BitVec.getLsbD_append]
  simp (disch := omega) only [if_pos, hi, decide_true, Bool.true_and]
  congr 1
  omega

theorem payloadBits_a_aux (p : FmtA) : (payloadBits (.a p)).extractLsb' 8 16 = p.aux := by
  apply BitVec.eq_of_getLsbD_eq
  intro i hi
  simp only [payloadBits, BitVec.getLsbD_extractLsb', BitVec.getLsbD_append]
  simp (disch := omega) only [if_neg, if_pos, hi, decide_true, Bool.true_and]
  congr 1
  omega

theorem payloadBits_a_imm32 (p : FmtA) : (payloadBits (.a p)).extractLsb' 24 32 = p.imm32 := by
  apply BitVec.eq_of_getLsbD_eq
  intro i hi
  simp only [payloadBits, BitVec.getLsbD_extractLsb', BitVec.getLsbD_append]
  simp (disch := omega) only [if_neg, if_pos, hi, decide_true, Bool.true_and]
  congr 1
  omega

theorem payloadBits_a_imm (p : FmtA) : (payloadBits (.a p)).extractLsb' 56 1 = BitVec.ofBool p.imm := by
  apply BitVec.eq_of_getLsbD_eq
  intro i hi
  simp only [payloadBits, BitVec.getLsbD_extractLsb', BitVec.getLsbD_append]
  simp (disch := omega) only [if_neg, if_pos, hi, decide_true, Bool.true_and]
  congr 1
  omega

theorem payloadBits_a_fs (p : FmtA) : (payloadBits (.a p)).extractLsb' 57 3 = p.fs := by
  apply BitVec.eq_of_getLsbD_eq
  intro i hi
  simp only [payloadBits, BitVec.getLsbD_extractLsb', BitVec.getLsbD_append]
  simp (disch := omega) only [if_neg, if_pos, hi, decide_true, Bool.true_and]
  congr 1
  omega

theorem payloadBits_a_rm (p : FmtA) : (payloadBits (.a p)).extractLsb' 60 3 = rmCode p.rm := by
  apply BitVec.eq_of_getLsbD_eq
  intro i hi
  simp only [payloadBits, BitVec.getLsbD_extractLsb', BitVec.getLsbD_append]
  simp (disch := omega) only [if_neg, if_pos, hi, decide_true, Bool.true_and]
  congr 1
  omega

theorem payloadBits_a_u (p : FmtA) : (payloadBits (.a p)).extractLsb' 63 1 = BitVec.ofBool p.u := by
  apply BitVec.eq_of_getLsbD_eq
  intro i hi
  simp only [payloadBits, BitVec.getLsbD_extractLsb', BitVec.getLsbD_append]
  simp (disch := omega) only [if_neg, hi, decide_true, Bool.true_and]
  congr 1
  omega

theorem payloadBits_h_imm20 (p : FmtH) : (payloadBits (.h p)).extractLsb' 0 20 = p.imm20 := by
  apply BitVec.eq_of_getLsbD_eq
  intro i hi
  simp only [payloadBits, BitVec.getLsbD_extractLsb', BitVec.getLsbD_append]
  simp (disch := omega) only [if_pos, hi, decide_true, Bool.true_and]
  congr 1
  omega

theorem payloadBits_h_zero (p : FmtH) : (payloadBits (.h p)).extractLsb' 20 43 = 0#43 := by
  apply BitVec.eq_of_getLsbD_eq
  intro i hi
  simp only [payloadBits, BitVec.getLsbD_extractLsb', BitVec.getLsbD_append]
  simp (disch := omega) only [if_neg, if_pos, hi, decide_true, Bool.true_and]
  congr 1
  omega

theorem payloadBits_h_u (p : FmtH) : (payloadBits (.h p)).extractLsb' 63 1 = BitVec.ofBool p.u := by
  apply BitVec.eq_of_getLsbD_eq
  intro i hi
  simp only [payloadBits, BitVec.getLsbD_extractLsb', BitVec.getLsbD_append]
  simp (disch := omega) only [if_neg, hi, decide_true, Bool.true_and]
  congr 1
  omega

theorem payloadBits_m_ofs12 (p : FmtM) : (payloadBits (.m p)).extractLsb' 0 12 = p.ofs12 := by
  apply BitVec.eq_of_getLsbD_eq
  intro i hi
  simp only [payloadBits, BitVec.getLsbD_extractLsb', BitVec.getLsbD_append]
  simp (disch := omega) only [if_pos, hi, decide_true, Bool.true_and]
  congr 1
  omega

theorem payloadBits_m_zeroLow (p : FmtM) : (payloadBits (.m p)).extractLsb' 12 20 = 0#20 := by
  apply BitVec.eq_of_getLsbD_eq
  intro i hi
  simp only [payloadBits, BitVec.getLsbD_extractLsb', BitVec.getLsbD_append]
  simp (disch := omega) only [if_neg, if_pos, hi, decide_true, Bool.true_and]
  congr 1
  omega

theorem payloadBits_m_ridx (p : FmtM) : (payloadBits (.m p)).extractLsb' 32 16 = p.ridx := by
  apply BitVec.eq_of_getLsbD_eq
  intro i hi
  simp only [payloadBits, BitVec.getLsbD_extractLsb', BitVec.getLsbD_append]
  simp (disch := omega) only [if_neg, if_pos, hi, decide_true, Bool.true_and]
  congr 1
  omega

theorem payloadBits_m_zeroHigh (p : FmtM) : (payloadBits (.m p)).extractLsb' 48 7 = 0#7 := by
  apply BitVec.eq_of_getLsbD_eq
  intro i hi
  simp only [payloadBits, BitVec.getLsbD_extractLsb', BitVec.getLsbD_append]
  simp (disch := omega) only [if_neg, if_pos, hi, decide_true, Bool.true_and]
  congr 1
  omega

theorem payloadBits_m_width (p : FmtM) : (payloadBits (.m p)).extractLsb' 55 3 = widthCode p.width := by
  apply BitVec.eq_of_getLsbD_eq
  intro i hi
  simp only [payloadBits, BitVec.getLsbD_extractLsb', BitVec.getLsbD_append]
  simp (disch := omega) only [if_neg, if_pos, hi, decide_true, Bool.true_and]
  congr 1
  omega

theorem payloadBits_m_cache (p : FmtM) : (payloadBits (.m p)).extractLsb' 58 2 = cacheCode p.cache := by
  apply BitVec.eq_of_getLsbD_eq
  intro i hi
  simp only [payloadBits, BitVec.getLsbD_extractLsb', BitVec.getLsbD_append]
  simp (disch := omega) only [if_neg, if_pos, hi, decide_true, Bool.true_and]
  congr 1
  omega

theorem payloadBits_m_scope (p : FmtM) : (payloadBits (.m p)).extractLsb' 60 4 = scopeBits p.scope := by
  apply BitVec.eq_of_getLsbD_eq
  intro i hi
  simp only [payloadBits, BitVec.getLsbD_extractLsb', BitVec.getLsbD_append]
  simp (disch := omega) only [if_neg, hi, decide_true, Bool.true_and]
  congr 1
  omega

theorem payloadBits_c_ofs24 (p : FmtC) : (payloadBits (.c p)).extractLsb' 0 24 = p.ofs24 := by
  apply BitVec.eq_of_getLsbD_eq
  intro i hi
  simp only [payloadBits, BitVec.getLsbD_extractLsb', BitVec.getLsbD_append]
  simp (disch := omega) only [if_pos, hi, decide_true, Bool.true_and]
  congr 1
  omega

theorem payloadBits_c_zero (p : FmtC) : (payloadBits (.c p)).extractLsb' 24 24 = 0#24 := by
  apply BitVec.eq_of_getLsbD_eq
  intro i hi
  simp only [payloadBits, BitVec.getLsbD_extractLsb', BitVec.getLsbD_append]
  simp (disch := omega) only [if_neg, if_pos, hi, decide_true, Bool.true_and]
  congr 1
  omega

theorem payloadBits_c_ridx (p : FmtC) : (payloadBits (.c p)).extractLsb' 48 16 = p.ridx := by
  apply BitVec.eq_of_getLsbD_eq
  intro i hi
  simp only [payloadBits, BitVec.getLsbD_extractLsb', BitVec.getLsbD_append]
  simp (disch := omega) only [if_neg, hi, decide_true, Bool.true_and]
  congr 1
  omega

theorem payloadBits_e_imm32 (p : FmtE) : (payloadBits (.e p)).extractLsb' 0 32 = p.imm32 := by
  apply BitVec.eq_of_getLsbD_eq
  intro i hi
  simp only [payloadBits, BitVec.getLsbD_extractLsb', BitVec.getLsbD_append]
  simp (disch := omega) only [if_pos, hi, decide_true, Bool.true_and]
  congr 1
  omega

theorem payloadBits_e_aux8 (p : FmtE) : (payloadBits (.e p)).extractLsb' 32 8 = p.aux8 := by
  apply BitVec.eq_of_getLsbD_eq
  intro i hi
  simp only [payloadBits, BitVec.getLsbD_extractLsb', BitVec.getLsbD_append]
  simp (disch := omega) only [if_neg, if_pos, hi, decide_true, Bool.true_and]
  congr 1
  omega

theorem payloadBits_e_mode (p : FmtE) : (payloadBits (.e p)).extractLsb' 40 5 = p.mode := by
  apply BitVec.eq_of_getLsbD_eq
  intro i hi
  simp only [payloadBits, BitVec.getLsbD_extractLsb', BitVec.getLsbD_append]
  simp (disch := omega) only [if_neg, if_pos, hi, decide_true, Bool.true_and]
  congr 1
  omega

theorem payloadBits_e_fs (p : FmtE) : (payloadBits (.e p)).extractLsb' 45 3 = p.fs := by
  apply BitVec.eq_of_getLsbD_eq
  intro i hi
  simp only [payloadBits, BitVec.getLsbD_extractLsb', BitVec.getLsbD_append]
  simp (disch := omega) only [if_neg, if_pos, hi, decide_true, Bool.true_and]
  congr 1
  omega

theorem payloadBits_e_ridx (p : FmtE) : (payloadBits (.e p)).extractLsb' 48 16 = p.ridx := by
  apply BitVec.eq_of_getLsbD_eq
  intro i hi
  simp only [payloadBits, BitVec.getLsbD_extractLsb', BitVec.getLsbD_append]
  simp (disch := omega) only [if_neg, hi, decide_true, Bool.true_and]
  congr 1
  omega

theorem payloadBits_s_imm40 (p : FmtS) : (payloadBits (.s p)).extractLsb' 0 40 = p.imm40 := by
  apply BitVec.eq_of_getLsbD_eq
  intro i hi
  simp only [payloadBits, BitVec.getLsbD_extractLsb', BitVec.getLsbD_append]
  simp (disch := omega) only [if_pos, hi, decide_true, Bool.true_and]
  congr 1
  omega

theorem payloadBits_s_zero (p : FmtS) : (payloadBits (.s p)).extractLsb' 40 12 = 0#12 := by
  apply BitVec.eq_of_getLsbD_eq
  intro i hi
  simp only [payloadBits, BitVec.getLsbD_extractLsb', BitVec.getLsbD_append]
  simp (disch := omega) only [if_neg, if_pos, hi, decide_true, Bool.true_and]
  congr 1
  omega

theorem payloadBits_s_sub (p : FmtS) : (payloadBits (.s p)).extractLsb' 52 4 = p.sub := by
  apply BitVec.eq_of_getLsbD_eq
  intro i hi
  simp only [payloadBits, BitVec.getLsbD_extractLsb', BitVec.getLsbD_append]
  simp (disch := omega) only [if_neg, if_pos, hi, decide_true, Bool.true_and]
  congr 1
  omega

theorem payloadBits_s_id (p : FmtS) : (payloadBits (.s p)).extractLsb' 56 4 = p.id := by
  apply BitVec.eq_of_getLsbD_eq
  intro i hi
  simp only [payloadBits, BitVec.getLsbD_extractLsb', BitVec.getLsbD_append]
  simp (disch := omega) only [if_neg, if_pos, hi, decide_true, Bool.true_and]
  congr 1
  omega

theorem payloadBits_s_scope (p : FmtS) : (payloadBits (.s p)).extractLsb' 60 4 = scopeBits p.scope := by
  apply BitVec.eq_of_getLsbD_eq
  intro i hi
  simp only [payloadBits, BitVec.getLsbD_extractLsb', BitVec.getLsbD_append]
  simp (disch := omega) only [if_neg, hi, decide_true, Bool.true_and]
  congr 1
  omega

end Sys2Proof
end

