-- ==== Sys2Proof/Laws/Tabs.lean ====
section
/-! SUPPORT. Keyed tables and memory: what a key reads as after a write, and that every operation keeps the canonical
form. -/

namespace Sys2Proof.Machine

/-! ## The canonical form -/

theorem tabWf_cons {α : Type} [DecidableEq α] (d : α) (e : Nat × α) (t : Tab α) :
    tabWf d (e :: t) = true ↔ tabWf d t = true ∧ e.2 ≠ d ∧ ∀ x ∈ t, e.1 < x.1 := by
  simp [tabWf, and_comm]

/-- Every key of the table that a write makes is the written one or one of the old keys. -/
theorem tabSet_keys {α : Type} [DecidableEq α] (d : α) (t : Tab α) (k : Nat) (v : α) :
    ∀ x ∈ tabSet d t k v, x.1 = k ∨ x.1 ∈ t.map Prod.fst := by
  fun_induction tabSet d t k v <;> grind

theorem tabSet_wf {α : Type} [DecidableEq α] (d : α) (t : Tab α) (k : Nat) (v : α) (h : tabWf d t = true) :
    tabWf d (tabSet d t k v) = true := by
  have keys := tabSet_keys d
  fun_induction tabSet d t k v <;> grind [tabWf_cons, tabWf]

theorem filter_wf {α : Type} [DecidableEq α] (d : α) (p : Nat × α → Bool) (t : Tab α) (h : tabWf d t = true) :
    tabWf d (t.filter p) = true := by
  induction t <;> grind [tabWf_cons]

/-! ## Reading after writing -/

theorem tabGet_below {α : Type} (d : α) (t : Tab α) (k : Nat) (h : ∀ x ∈ t, k < x.1) : tabGet d t k = d := by
  induction t <;> grind [tabGet]

theorem tabGet_tabSet_same {α : Type} [DecidableEq α] (d : α) (t : Tab α) (k : Nat) (v : α) (h : tabWf d t = true) :
    tabGet d (tabSet d t k v) k = v := by
  have below := tabGet_below d
  fun_induction tabSet d t k v <;> grind [tabWf_cons, tabGet]

theorem tabGet_tabSet_other {α : Type} [DecidableEq α] (d : α) (t : Tab α) (k m : Nat) (v : α) (hk : m ≠ k) :
    tabGet d (tabSet d t k v) m = tabGet d t m := by
  fun_induction tabSet d t k v <;> grind [tabGet]

theorem tabSetNum_wf (m : Tab Byte) (a n v : Nat) (h : tabWf 0 m = true) : tabWf 0 (tabSetNum m a n v) = true := by
  induction n generalizing a v with
  | zero => exact h
  | succ n ih => exact tabSet_wf 0 _ _ _ (ih (a + 1) (v / 256))

/-! ## Memory -/

theorem memSetByte_wf (m : List (Nat × Byte)) (a : Nat) (b : Byte) (h : Memory.wf m = true) :
    Memory.wf (memSetByte m a b) = true := tabSet_wf memDefault m a b h

theorem memSetNum_wf (m : List (Nat × Byte)) (a n v : Nat) (h : Memory.wf m = true) :
    Memory.wf (memSetNum m a n v) = true := tabSetNum_wf m a n v h

theorem memSetBytes_wf (m : List (Nat × Byte)) (a : Nat) (bs : List Byte) (h : Memory.wf m = true) :
    Memory.wf (memSetBytes m a bs) = true := memSetNum_wf m a bs.length (bytesNum bs) h

theorem memByte_memSetByte_same (m : List (Nat × Byte)) (a : Nat) (b : Byte) (h : Memory.wf m = true) :
    memByte (memSetByte m a b) a = b := tabGet_tabSet_same memDefault m a b h

theorem memByte_memSetByte_other (m : List (Nat × Byte)) (a c : Nat) (b : Byte) (h : c ≠ a) :
    memByte (memSetByte m a b) c = memByte m c := tabGet_tabSet_other memDefault m a c b h

/-- Bytes written one by one keep the canonical form. -/
theorem foldl_memSetByte_wf {β : Type} (f : β → Nat) (g : β → Byte) (l : List β) (m : List (Nat × Byte))
    (h : Memory.wf m = true) : Memory.wf (l.foldl (fun m x => memSetByte m (f x) (g x)) m) = true := by
  induction l generalizing m with
  | nil => exact h
  | cons x l ih => exact ih _ (memSetByte_wf m (f x) (g x) h)

/-! ## Tables in which a key may be absent -/

theorem tabFind_tabPut_same {α : Type} (t : Tab α) (k : Nat) (v : α) : tabFind (tabPut t k v) k = some v := by
  induction t with
  | nil => simp [tabPut, tabFind]
  | cons e t ih =>
    obtain ⟨j, w⟩ := e
    unfold tabPut
    split
    · simp [tabFind]
    · split
      · simp [tabFind]
      · rename_i h1 h2
        simp only [tabFind]
        rw [if_neg h2]
        exact ih

theorem tabFind_tabPut_other {α : Type} (t : Tab α) (k m : Nat) (v : α) (h : m ≠ k) :
    tabFind (tabPut t k v) m = tabFind t m := by
  induction t with
  | nil => simp [tabPut, tabFind, h]
  | cons e t ih =>
    obtain ⟨j, w⟩ := e
    unfold tabPut
    split
    · simp [tabFind, h]
    · split
      · rename_i h2
        subst h2
        simp [tabFind, h]
      · simp only [tabFind, ih]

end Sys2Proof.Machine
end

