-- ==== Sys2Proof/Laws/State.lean ====
section
/-! SUPPORT. What each update of a part of the state leaves alone, one lemma per field, and what it makes of the part it
names. -/

namespace Sys2Proof.Machine

@[simp] theorem updCore_ptc (s : State) (c : Nat) (f : Core → Core) : (updCore s c f).ptc = s.ptc := rfl
@[simp] theorem updCore_agenda (s : State) (c : Nat) (f : Core → Core) : (updCore s c f).agenda = s.agenda := rfl
@[simp] theorem updCore_issuer (s : State) (c : Nat) (f : Core → Core) : (updCore s c f).issuer = s.issuer := rfl
@[simp] theorem updCore_seen (s : State) (c : Nat) (f : Core → Core) : (updCore s c f).seen = s.seen := rfl
@[simp] theorem updCore_free (s : State) (c : Nat) (f : Core → Core) : (updCore s c f).free = s.free := rfl
@[simp] theorem updCore_nextId (s : State) (c : Nat) (f : Core → Core) : (updCore s c f).nextId = s.nextId := rfl
@[simp] theorem updCore_nextTeam (s : State) (c : Nat) (f : Core → Core) : (updCore s c f).nextTeam = s.nextTeam := rfl
@[simp] theorem updCore_mem (s : State) (c : Nat) (f : Core → Core) : (updCore s c f).mem = s.mem := rfl
@[simp] theorem updCore_memPoison (s : State) (c : Nat) (f : Core → Core) : (updCore s c f).memPoison = s.memPoison := rfl
@[simp] theorem updCore_reqs (s : State) (c : Nat) (f : Core → Core) : (updCore s c f).reqs = s.reqs := rfl
@[simp] theorem updCore_loads (s : State) (c : Nat) (f : Core → Core) : (updCore s c f).loads = s.loads := rfl
@[simp] theorem updCore_ioLast (s : State) (c : Nat) (f : Core → Core) : (updCore s c f).ioLast = s.ioLast := rfl
@[simp] theorem updCore_hub (s : State) (c : Nat) (f : Core → Core) : (updCore s c f).hub = s.hub := rfl
@[simp] theorem updCore_dies (s : State) (c : Nat) (f : Core → Core) : (updCore s c f).dies = s.dies := rfl
@[simp] theorem updCore_teams (s : State) (c : Nat) (f : Core → Core) : (updCore s c f).teams = s.teams := rfl
@[simp] theorem updCore_tenants (s : State) (c : Nat) (f : Core → Core) : (updCore s c f).tenants = s.tenants := rfl
@[simp] theorem updCore_parts (s : State) (c : Nat) (f : Core → Core) : (updCore s c f).parts = s.parts := rfl
@[simp] theorem updCore_claims (s : State) (c : Nat) (f : Core → Core) : (updCore s c f).claims = s.claims := rfl
@[simp] theorem updCore_creds (s : State) (c : Nat) (f : Core → Core) : (updCore s c f).creds = s.creds := rfl
@[simp] theorem updCore_place (s : State) (c : Nat) (f : Core → Core) : (updCore s c f).place = s.place := rfl
@[simp] theorem updCore_retiredCores (s : State) (c : Nat) (f : Core → Core) : (updCore s c f).retiredCores = s.retiredCores := rfl
@[simp] theorem updCore_ofs (s : State) (c : Nat) (f : Core → Core) : (updCore s c f).ofs = s.ofs := rfl
@[simp] theorem updCore_lat (s : State) (c : Nat) (f : Core → Core) : (updCore s c f).lat = s.lat := rfl
@[simp] theorem updCore_rr (s : State) (c : Nat) (f : Core → Core) : (updCore s c f).rr = s.rr := rfl
@[simp] theorem updCore_fuseLat (s : State) (c : Nat) (f : Core → Core) : (updCore s c f).fuseLat = s.fuseLat := rfl
@[simp] theorem updCore_fuseOfs (s : State) (c : Nat) (f : Core → Core) : (updCore s c f).fuseOfs = s.fuseOfs := rfl
@[simp] theorem updCore_staged (s : State) (c : Nat) (f : Core → Core) : (updCore s c f).staged = s.staged := rfl
@[simp] theorem updCore_boot (s : State) (c : Nat) (f : Core → Core) : (updCore s c f).boot = s.boot := rfl
@[simp] theorem updCore_mbox (s : State) (c : Nat) (f : Core → Core) : (updCore s c f).mbox = s.mbox := rfl
@[simp] theorem updCore_fwActive (s : State) (c : Nat) (f : Core → Core) : (updCore s c f).fwActive = s.fwActive := rfl
@[simp] theorem updCore_fwNext (s : State) (c : Nat) (f : Core → Core) : (updCore s c f).fwNext = s.fwNext := rfl
@[simp] theorem updCore_ports (s : State) (c : Nat) (f : Core → Core) : (updCore s c f).ports = s.ports := rfl
@[simp] theorem updCore_hostLanes (s : State) (c : Nat) (f : Core → Core) : (updCore s c f).hostLanes = s.hostLanes := rfl
@[simp] theorem updCore_hostCxl (s : State) (c : Nat) (f : Core → Core) : (updCore s c f).hostCxl = s.hostCxl := rfl
@[simp] theorem updCore_vfBar (s : State) (c : Nat) (f : Core → Core) : (updCore s c f).vfBar = s.vfBar := rfl
@[simp] theorem updCore_vfMse (s : State) (c : Nat) (f : Core → Core) : (updCore s c f).vfMse = s.vfMse := rfl
@[simp] theorem updCore_ide (s : State) (c : Nat) (f : Core → Core) : (updCore s c f).ide = s.ide := rfl
@[simp] theorem updCore_currentCap (s : State) (c : Nat) (f : Core → Core) : (updCore s c f).currentCap = s.currentCap := rfl
@[simp] theorem updCore_msix (s : State) (c : Nat) (f : Core → Core) : (updCore s c f).msix = s.msix := rfl
@[simp] theorem updCore_tdAnswers (s : State) (c : Nat) (f : Core → Core) : (updCore s c f).tdAnswers = s.tdAnswers := rfl
@[simp] theorem updCore_tdStop (s : State) (c : Nat) (f : Core → Core) : (updCore s c f).tdStop = s.tdStop := rfl
@[simp] theorem updCore_tdWaiting (s : State) (c : Nat) (f : Core → Core) : (updCore s c f).tdWaiting = s.tdWaiting := rfl
@[simp] theorem updCore_cxlData (s : State) (c : Nat) (f : Core → Core) : (updCore s c f).cxlData = s.cxlData := rfl
@[simp] theorem updCore_cxlWindow (s : State) (c : Nat) (f : Core → Core) : (updCore s c f).cxlWindow = s.cxlWindow := rfl

@[simp] theorem updDie_ptc (s : State) (d : Nat) (f : Die → Die) : (updDie s d f).ptc = s.ptc := rfl
@[simp] theorem updDie_agenda (s : State) (d : Nat) (f : Die → Die) : (updDie s d f).agenda = s.agenda := rfl
@[simp] theorem updDie_issuer (s : State) (d : Nat) (f : Die → Die) : (updDie s d f).issuer = s.issuer := rfl
@[simp] theorem updDie_seen (s : State) (d : Nat) (f : Die → Die) : (updDie s d f).seen = s.seen := rfl
@[simp] theorem updDie_free (s : State) (d : Nat) (f : Die → Die) : (updDie s d f).free = s.free := rfl
@[simp] theorem updDie_nextId (s : State) (d : Nat) (f : Die → Die) : (updDie s d f).nextId = s.nextId := rfl
@[simp] theorem updDie_nextTeam (s : State) (d : Nat) (f : Die → Die) : (updDie s d f).nextTeam = s.nextTeam := rfl
@[simp] theorem updDie_mem (s : State) (d : Nat) (f : Die → Die) : (updDie s d f).mem = s.mem := rfl
@[simp] theorem updDie_memPoison (s : State) (d : Nat) (f : Die → Die) : (updDie s d f).memPoison = s.memPoison := rfl
@[simp] theorem updDie_reqs (s : State) (d : Nat) (f : Die → Die) : (updDie s d f).reqs = s.reqs := rfl
@[simp] theorem updDie_loads (s : State) (d : Nat) (f : Die → Die) : (updDie s d f).loads = s.loads := rfl
@[simp] theorem updDie_ioLast (s : State) (d : Nat) (f : Die → Die) : (updDie s d f).ioLast = s.ioLast := rfl
@[simp] theorem updDie_hub (s : State) (d : Nat) (f : Die → Die) : (updDie s d f).hub = s.hub := rfl
@[simp] theorem updDie_cores (s : State) (d : Nat) (f : Die → Die) : (updDie s d f).cores = s.cores := rfl
@[simp] theorem updDie_teams (s : State) (d : Nat) (f : Die → Die) : (updDie s d f).teams = s.teams := rfl
@[simp] theorem updDie_tenants (s : State) (d : Nat) (f : Die → Die) : (updDie s d f).tenants = s.tenants := rfl
@[simp] theorem updDie_parts (s : State) (d : Nat) (f : Die → Die) : (updDie s d f).parts = s.parts := rfl
@[simp] theorem updDie_claims (s : State) (d : Nat) (f : Die → Die) : (updDie s d f).claims = s.claims := rfl
@[simp] theorem updDie_creds (s : State) (d : Nat) (f : Die → Die) : (updDie s d f).creds = s.creds := rfl
@[simp] theorem updDie_place (s : State) (d : Nat) (f : Die → Die) : (updDie s d f).place = s.place := rfl
@[simp] theorem updDie_retiredCores (s : State) (d : Nat) (f : Die → Die) : (updDie s d f).retiredCores = s.retiredCores := rfl
@[simp] theorem updDie_ofs (s : State) (d : Nat) (f : Die → Die) : (updDie s d f).ofs = s.ofs := rfl
@[simp] theorem updDie_lat (s : State) (d : Nat) (f : Die → Die) : (updDie s d f).lat = s.lat := rfl
@[simp] theorem updDie_rr (s : State) (d : Nat) (f : Die → Die) : (updDie s d f).rr = s.rr := rfl
@[simp] theorem updDie_fuseLat (s : State) (d : Nat) (f : Die → Die) : (updDie s d f).fuseLat = s.fuseLat := rfl
@[simp] theorem updDie_fuseOfs (s : State) (d : Nat) (f : Die → Die) : (updDie s d f).fuseOfs = s.fuseOfs := rfl
@[simp] theorem updDie_staged (s : State) (d : Nat) (f : Die → Die) : (updDie s d f).staged = s.staged := rfl
@[simp] theorem updDie_boot (s : State) (d : Nat) (f : Die → Die) : (updDie s d f).boot = s.boot := rfl
@[simp] theorem updDie_mbox (s : State) (d : Nat) (f : Die → Die) : (updDie s d f).mbox = s.mbox := rfl
@[simp] theorem updDie_fwActive (s : State) (d : Nat) (f : Die → Die) : (updDie s d f).fwActive = s.fwActive := rfl
@[simp] theorem updDie_fwNext (s : State) (d : Nat) (f : Die → Die) : (updDie s d f).fwNext = s.fwNext := rfl
@[simp] theorem updDie_ports (s : State) (d : Nat) (f : Die → Die) : (updDie s d f).ports = s.ports := rfl
@[simp] theorem updDie_hostLanes (s : State) (d : Nat) (f : Die → Die) : (updDie s d f).hostLanes = s.hostLanes := rfl
@[simp] theorem updDie_hostCxl (s : State) (d : Nat) (f : Die → Die) : (updDie s d f).hostCxl = s.hostCxl := rfl
@[simp] theorem updDie_vfBar (s : State) (d : Nat) (f : Die → Die) : (updDie s d f).vfBar = s.vfBar := rfl
@[simp] theorem updDie_vfMse (s : State) (d : Nat) (f : Die → Die) : (updDie s d f).vfMse = s.vfMse := rfl
@[simp] theorem updDie_ide (s : State) (d : Nat) (f : Die → Die) : (updDie s d f).ide = s.ide := rfl
@[simp] theorem updDie_currentCap (s : State) (d : Nat) (f : Die → Die) : (updDie s d f).currentCap = s.currentCap := rfl
@[simp] theorem updDie_msix (s : State) (d : Nat) (f : Die → Die) : (updDie s d f).msix = s.msix := rfl
@[simp] theorem updDie_tdAnswers (s : State) (d : Nat) (f : Die → Die) : (updDie s d f).tdAnswers = s.tdAnswers := rfl
@[simp] theorem updDie_tdStop (s : State) (d : Nat) (f : Die → Die) : (updDie s d f).tdStop = s.tdStop := rfl
@[simp] theorem updDie_tdWaiting (s : State) (d : Nat) (f : Die → Die) : (updDie s d f).tdWaiting = s.tdWaiting := rfl
@[simp] theorem updDie_cxlData (s : State) (d : Nat) (f : Die → Die) : (updDie s d f).cxlData = s.cxlData := rfl
@[simp] theorem updDie_cxlWindow (s : State) (d : Nat) (f : Die → Die) : (updDie s d f).cxlWindow = s.cxlWindow := rfl

@[simp] theorem updTenant_ptc (s : State) (vf : Nat) (f : Tenant → Tenant) : (updTenant s vf f).ptc = s.ptc := rfl
@[simp] theorem updTenant_agenda (s : State) (vf : Nat) (f : Tenant → Tenant) : (updTenant s vf f).agenda = s.agenda := rfl
@[simp] theorem updTenant_issuer (s : State) (vf : Nat) (f : Tenant → Tenant) : (updTenant s vf f).issuer = s.issuer := rfl
@[simp] theorem updTenant_seen (s : State) (vf : Nat) (f : Tenant → Tenant) : (updTenant s vf f).seen = s.seen := rfl
@[simp] theorem updTenant_free (s : State) (vf : Nat) (f : Tenant → Tenant) : (updTenant s vf f).free = s.free := rfl
@[simp] theorem updTenant_nextId (s : State) (vf : Nat) (f : Tenant → Tenant) : (updTenant s vf f).nextId = s.nextId := rfl
@[simp] theorem updTenant_nextTeam (s : State) (vf : Nat) (f : Tenant → Tenant) : (updTenant s vf f).nextTeam = s.nextTeam := rfl
@[simp] theorem updTenant_mem (s : State) (vf : Nat) (f : Tenant → Tenant) : (updTenant s vf f).mem = s.mem := rfl
@[simp] theorem updTenant_memPoison (s : State) (vf : Nat) (f : Tenant → Tenant) : (updTenant s vf f).memPoison = s.memPoison := rfl
@[simp] theorem updTenant_reqs (s : State) (vf : Nat) (f : Tenant → Tenant) : (updTenant s vf f).reqs = s.reqs := rfl
@[simp] theorem updTenant_loads (s : State) (vf : Nat) (f : Tenant → Tenant) : (updTenant s vf f).loads = s.loads := rfl
@[simp] theorem updTenant_ioLast (s : State) (vf : Nat) (f : Tenant → Tenant) : (updTenant s vf f).ioLast = s.ioLast := rfl
@[simp] theorem updTenant_hub (s : State) (vf : Nat) (f : Tenant → Tenant) : (updTenant s vf f).hub = s.hub := rfl
@[simp] theorem updTenant_dies (s : State) (vf : Nat) (f : Tenant → Tenant) : (updTenant s vf f).dies = s.dies := rfl
@[simp] theorem updTenant_cores (s : State) (vf : Nat) (f : Tenant → Tenant) : (updTenant s vf f).cores = s.cores := rfl
@[simp] theorem updTenant_teams (s : State) (vf : Nat) (f : Tenant → Tenant) : (updTenant s vf f).teams = s.teams := rfl
@[simp] theorem updTenant_parts (s : State) (vf : Nat) (f : Tenant → Tenant) : (updTenant s vf f).parts = s.parts := rfl
@[simp] theorem updTenant_claims (s : State) (vf : Nat) (f : Tenant → Tenant) : (updTenant s vf f).claims = s.claims := rfl
@[simp] theorem updTenant_creds (s : State) (vf : Nat) (f : Tenant → Tenant) : (updTenant s vf f).creds = s.creds := rfl
@[simp] theorem updTenant_place (s : State) (vf : Nat) (f : Tenant → Tenant) : (updTenant s vf f).place = s.place := rfl
@[simp] theorem updTenant_retiredCores (s : State) (vf : Nat) (f : Tenant → Tenant) : (updTenant s vf f).retiredCores = s.retiredCores := rfl
@[simp] theorem updTenant_ofs (s : State) (vf : Nat) (f : Tenant → Tenant) : (updTenant s vf f).ofs = s.ofs := rfl
@[simp] theorem updTenant_lat (s : State) (vf : Nat) (f : Tenant → Tenant) : (updTenant s vf f).lat = s.lat := rfl
@[simp] theorem updTenant_rr (s : State) (vf : Nat) (f : Tenant → Tenant) : (updTenant s vf f).rr = s.rr := rfl
@[simp] theorem updTenant_fuseLat (s : State) (vf : Nat) (f : Tenant → Tenant) : (updTenant s vf f).fuseLat = s.fuseLat := rfl
@[simp] theorem updTenant_fuseOfs (s : State) (vf : Nat) (f : Tenant → Tenant) : (updTenant s vf f).fuseOfs = s.fuseOfs := rfl
@[simp] theorem updTenant_staged (s : State) (vf : Nat) (f : Tenant → Tenant) : (updTenant s vf f).staged = s.staged := rfl
@[simp] theorem updTenant_boot (s : State) (vf : Nat) (f : Tenant → Tenant) : (updTenant s vf f).boot = s.boot := rfl
@[simp] theorem updTenant_mbox (s : State) (vf : Nat) (f : Tenant → Tenant) : (updTenant s vf f).mbox = s.mbox := rfl
@[simp] theorem updTenant_fwActive (s : State) (vf : Nat) (f : Tenant → Tenant) : (updTenant s vf f).fwActive = s.fwActive := rfl
@[simp] theorem updTenant_fwNext (s : State) (vf : Nat) (f : Tenant → Tenant) : (updTenant s vf f).fwNext = s.fwNext := rfl
@[simp] theorem updTenant_ports (s : State) (vf : Nat) (f : Tenant → Tenant) : (updTenant s vf f).ports = s.ports := rfl
@[simp] theorem updTenant_hostLanes (s : State) (vf : Nat) (f : Tenant → Tenant) : (updTenant s vf f).hostLanes = s.hostLanes := rfl
@[simp] theorem updTenant_hostCxl (s : State) (vf : Nat) (f : Tenant → Tenant) : (updTenant s vf f).hostCxl = s.hostCxl := rfl
@[simp] theorem updTenant_vfBar (s : State) (vf : Nat) (f : Tenant → Tenant) : (updTenant s vf f).vfBar = s.vfBar := rfl
@[simp] theorem updTenant_vfMse (s : State) (vf : Nat) (f : Tenant → Tenant) : (updTenant s vf f).vfMse = s.vfMse := rfl
@[simp] theorem updTenant_ide (s : State) (vf : Nat) (f : Tenant → Tenant) : (updTenant s vf f).ide = s.ide := rfl
@[simp] theorem updTenant_currentCap (s : State) (vf : Nat) (f : Tenant → Tenant) : (updTenant s vf f).currentCap = s.currentCap := rfl
@[simp] theorem updTenant_msix (s : State) (vf : Nat) (f : Tenant → Tenant) : (updTenant s vf f).msix = s.msix := rfl
@[simp] theorem updTenant_tdAnswers (s : State) (vf : Nat) (f : Tenant → Tenant) : (updTenant s vf f).tdAnswers = s.tdAnswers := rfl
@[simp] theorem updTenant_tdStop (s : State) (vf : Nat) (f : Tenant → Tenant) : (updTenant s vf f).tdStop = s.tdStop := rfl
@[simp] theorem updTenant_tdWaiting (s : State) (vf : Nat) (f : Tenant → Tenant) : (updTenant s vf f).tdWaiting = s.tdWaiting := rfl
@[simp] theorem updTenant_cxlData (s : State) (vf : Nat) (f : Tenant → Tenant) : (updTenant s vf f).cxlData = s.cxlData := rfl
@[simp] theorem updTenant_cxlWindow (s : State) (vf : Nat) (f : Tenant → Tenant) : (updTenant s vf f).cxlWindow = s.cxlWindow := rfl

@[simp] theorem putTeam_ptc (s : State) (t : Nat) (T : Team) : (putTeam s t T).ptc = s.ptc := rfl
@[simp] theorem putTeam_agenda (s : State) (t : Nat) (T : Team) : (putTeam s t T).agenda = s.agenda := rfl
@[simp] theorem putTeam_issuer (s : State) (t : Nat) (T : Team) : (putTeam s t T).issuer = s.issuer := rfl
@[simp] theorem putTeam_seen (s : State) (t : Nat) (T : Team) : (putTeam s t T).seen = s.seen := rfl
@[simp] theorem putTeam_free (s : State) (t : Nat) (T : Team) : (putTeam s t T).free = s.free := rfl
@[simp] theorem putTeam_nextId (s : State) (t : Nat) (T : Team) : (putTeam s t T).nextId = s.nextId := rfl
@[simp] theorem putTeam_nextTeam (s : State) (t : Nat) (T : Team) : (putTeam s t T).nextTeam = s.nextTeam := rfl
@[simp] theorem putTeam_mem (s : State) (t : Nat) (T : Team) : (putTeam s t T).mem = s.mem := rfl
@[simp] theorem putTeam_memPoison (s : State) (t : Nat) (T : Team) : (putTeam s t T).memPoison = s.memPoison := rfl
@[simp] theorem putTeam_reqs (s : State) (t : Nat) (T : Team) : (putTeam s t T).reqs = s.reqs := rfl
@[simp] theorem putTeam_loads (s : State) (t : Nat) (T : Team) : (putTeam s t T).loads = s.loads := rfl
@[simp] theorem putTeam_ioLast (s : State) (t : Nat) (T : Team) : (putTeam s t T).ioLast = s.ioLast := rfl
@[simp] theorem putTeam_hub (s : State) (t : Nat) (T : Team) : (putTeam s t T).hub = s.hub := rfl
@[simp] theorem putTeam_dies (s : State) (t : Nat) (T : Team) : (putTeam s t T).dies = s.dies := rfl
@[simp] theorem putTeam_cores (s : State) (t : Nat) (T : Team) : (putTeam s t T).cores = s.cores := rfl
@[simp] theorem putTeam_tenants (s : State) (t : Nat) (T : Team) : (putTeam s t T).tenants = s.tenants := rfl
@[simp] theorem putTeam_parts (s : State) (t : Nat) (T : Team) : (putTeam s t T).parts = s.parts := rfl
@[simp] theorem putTeam_claims (s : State) (t : Nat) (T : Team) : (putTeam s t T).claims = s.claims := rfl
@[simp] theorem putTeam_creds (s : State) (t : Nat) (T : Team) : (putTeam s t T).creds = s.creds := rfl
@[simp] theorem putTeam_place (s : State) (t : Nat) (T : Team) : (putTeam s t T).place = s.place := rfl
@[simp] theorem putTeam_retiredCores (s : State) (t : Nat) (T : Team) : (putTeam s t T).retiredCores = s.retiredCores := rfl
@[simp] theorem putTeam_ofs (s : State) (t : Nat) (T : Team) : (putTeam s t T).ofs = s.ofs := rfl
@[simp] theorem putTeam_lat (s : State) (t : Nat) (T : Team) : (putTeam s t T).lat = s.lat := rfl
@[simp] theorem putTeam_rr (s : State) (t : Nat) (T : Team) : (putTeam s t T).rr = s.rr := rfl
@[simp] theorem putTeam_fuseLat (s : State) (t : Nat) (T : Team) : (putTeam s t T).fuseLat = s.fuseLat := rfl
@[simp] theorem putTeam_fuseOfs (s : State) (t : Nat) (T : Team) : (putTeam s t T).fuseOfs = s.fuseOfs := rfl
@[simp] theorem putTeam_staged (s : State) (t : Nat) (T : Team) : (putTeam s t T).staged = s.staged := rfl
@[simp] theorem putTeam_boot (s : State) (t : Nat) (T : Team) : (putTeam s t T).boot = s.boot := rfl
@[simp] theorem putTeam_mbox (s : State) (t : Nat) (T : Team) : (putTeam s t T).mbox = s.mbox := rfl
@[simp] theorem putTeam_fwActive (s : State) (t : Nat) (T : Team) : (putTeam s t T).fwActive = s.fwActive := rfl
@[simp] theorem putTeam_fwNext (s : State) (t : Nat) (T : Team) : (putTeam s t T).fwNext = s.fwNext := rfl
@[simp] theorem putTeam_ports (s : State) (t : Nat) (T : Team) : (putTeam s t T).ports = s.ports := rfl
@[simp] theorem putTeam_hostLanes (s : State) (t : Nat) (T : Team) : (putTeam s t T).hostLanes = s.hostLanes := rfl
@[simp] theorem putTeam_hostCxl (s : State) (t : Nat) (T : Team) : (putTeam s t T).hostCxl = s.hostCxl := rfl
@[simp] theorem putTeam_vfBar (s : State) (t : Nat) (T : Team) : (putTeam s t T).vfBar = s.vfBar := rfl
@[simp] theorem putTeam_vfMse (s : State) (t : Nat) (T : Team) : (putTeam s t T).vfMse = s.vfMse := rfl
@[simp] theorem putTeam_ide (s : State) (t : Nat) (T : Team) : (putTeam s t T).ide = s.ide := rfl
@[simp] theorem putTeam_currentCap (s : State) (t : Nat) (T : Team) : (putTeam s t T).currentCap = s.currentCap := rfl
@[simp] theorem putTeam_msix (s : State) (t : Nat) (T : Team) : (putTeam s t T).msix = s.msix := rfl
@[simp] theorem putTeam_tdAnswers (s : State) (t : Nat) (T : Team) : (putTeam s t T).tdAnswers = s.tdAnswers := rfl
@[simp] theorem putTeam_tdStop (s : State) (t : Nat) (T : Team) : (putTeam s t T).tdStop = s.tdStop := rfl
@[simp] theorem putTeam_tdWaiting (s : State) (t : Nat) (T : Team) : (putTeam s t T).tdWaiting = s.tdWaiting := rfl
@[simp] theorem putTeam_cxlData (s : State) (t : Nat) (T : Team) : (putTeam s t T).cxlData = s.cxlData := rfl
@[simp] theorem putTeam_cxlWindow (s : State) (t : Nat) (T : Team) : (putTeam s t T).cxlWindow = s.cxlWindow := rfl

@[simp] theorem bump_ptc (s : State) (core ctr n : Nat) : (bump s core ctr n).ptc = s.ptc := rfl
@[simp] theorem bump_agenda (s : State) (core ctr n : Nat) : (bump s core ctr n).agenda = s.agenda := rfl
@[simp] theorem bump_issuer (s : State) (core ctr n : Nat) : (bump s core ctr n).issuer = s.issuer := rfl
@[simp] theorem bump_seen (s : State) (core ctr n : Nat) : (bump s core ctr n).seen = s.seen := rfl
@[simp] theorem bump_free (s : State) (core ctr n : Nat) : (bump s core ctr n).free = s.free := rfl
@[simp] theorem bump_nextId (s : State) (core ctr n : Nat) : (bump s core ctr n).nextId = s.nextId := rfl
@[simp] theorem bump_nextTeam (s : State) (core ctr n : Nat) : (bump s core ctr n).nextTeam = s.nextTeam := rfl
@[simp] theorem bump_mem (s : State) (core ctr n : Nat) : (bump s core ctr n).mem = s.mem := rfl
@[simp] theorem bump_memPoison (s : State) (core ctr n : Nat) : (bump s core ctr n).memPoison = s.memPoison := rfl
@[simp] theorem bump_reqs (s : State) (core ctr n : Nat) : (bump s core ctr n).reqs = s.reqs := rfl
@[simp] theorem bump_loads (s : State) (core ctr n : Nat) : (bump s core ctr n).loads = s.loads := rfl
@[simp] theorem bump_ioLast (s : State) (core ctr n : Nat) : (bump s core ctr n).ioLast = s.ioLast := rfl
@[simp] theorem bump_hub (s : State) (core ctr n : Nat) : (bump s core ctr n).hub = s.hub := rfl
@[simp] theorem bump_dies (s : State) (core ctr n : Nat) : (bump s core ctr n).dies = s.dies := rfl
@[simp] theorem bump_teams (s : State) (core ctr n : Nat) : (bump s core ctr n).teams = s.teams := rfl
@[simp] theorem bump_tenants (s : State) (core ctr n : Nat) : (bump s core ctr n).tenants = s.tenants := rfl
@[simp] theorem bump_parts (s : State) (core ctr n : Nat) : (bump s core ctr n).parts = s.parts := rfl
@[simp] theorem bump_claims (s : State) (core ctr n : Nat) : (bump s core ctr n).claims = s.claims := rfl
@[simp] theorem bump_creds (s : State) (core ctr n : Nat) : (bump s core ctr n).creds = s.creds := rfl
@[simp] theorem bump_place (s : State) (core ctr n : Nat) : (bump s core ctr n).place = s.place := rfl
@[simp] theorem bump_retiredCores (s : State) (core ctr n : Nat) : (bump s core ctr n).retiredCores = s.retiredCores := rfl
@[simp] theorem bump_ofs (s : State) (core ctr n : Nat) : (bump s core ctr n).ofs = s.ofs := rfl
@[simp] theorem bump_lat (s : State) (core ctr n : Nat) : (bump s core ctr n).lat = s.lat := rfl
@[simp] theorem bump_rr (s : State) (core ctr n : Nat) : (bump s core ctr n).rr = s.rr := rfl
@[simp] theorem bump_fuseLat (s : State) (core ctr n : Nat) : (bump s core ctr n).fuseLat = s.fuseLat := rfl
@[simp] theorem bump_fuseOfs (s : State) (core ctr n : Nat) : (bump s core ctr n).fuseOfs = s.fuseOfs := rfl
@[simp] theorem bump_staged (s : State) (core ctr n : Nat) : (bump s core ctr n).staged = s.staged := rfl
@[simp] theorem bump_boot (s : State) (core ctr n : Nat) : (bump s core ctr n).boot = s.boot := rfl
@[simp] theorem bump_mbox (s : State) (core ctr n : Nat) : (bump s core ctr n).mbox = s.mbox := rfl
@[simp] theorem bump_fwActive (s : State) (core ctr n : Nat) : (bump s core ctr n).fwActive = s.fwActive := rfl
@[simp] theorem bump_fwNext (s : State) (core ctr n : Nat) : (bump s core ctr n).fwNext = s.fwNext := rfl
@[simp] theorem bump_ports (s : State) (core ctr n : Nat) : (bump s core ctr n).ports = s.ports := rfl
@[simp] theorem bump_hostLanes (s : State) (core ctr n : Nat) : (bump s core ctr n).hostLanes = s.hostLanes := rfl
@[simp] theorem bump_hostCxl (s : State) (core ctr n : Nat) : (bump s core ctr n).hostCxl = s.hostCxl := rfl
@[simp] theorem bump_vfBar (s : State) (core ctr n : Nat) : (bump s core ctr n).vfBar = s.vfBar := rfl
@[simp] theorem bump_vfMse (s : State) (core ctr n : Nat) : (bump s core ctr n).vfMse = s.vfMse := rfl
@[simp] theorem bump_ide (s : State) (core ctr n : Nat) : (bump s core ctr n).ide = s.ide := rfl
@[simp] theorem bump_currentCap (s : State) (core ctr n : Nat) : (bump s core ctr n).currentCap = s.currentCap := rfl
@[simp] theorem bump_msix (s : State) (core ctr n : Nat) : (bump s core ctr n).msix = s.msix := rfl
@[simp] theorem bump_tdAnswers (s : State) (core ctr n : Nat) : (bump s core ctr n).tdAnswers = s.tdAnswers := rfl
@[simp] theorem bump_tdStop (s : State) (core ctr n : Nat) : (bump s core ctr n).tdStop = s.tdStop := rfl
@[simp] theorem bump_tdWaiting (s : State) (core ctr n : Nat) : (bump s core ctr n).tdWaiting = s.tdWaiting := rfl
@[simp] theorem bump_cxlData (s : State) (core ctr n : Nat) : (bump s core ctr n).cxlData = s.cxlData := rfl
@[simp] theorem bump_cxlWindow (s : State) (core ctr n : Nat) : (bump s core ctr n).cxlWindow = s.cxlWindow := rfl

@[simp] theorem updTeam_ptc (s : State) (t : Nat) (f : Team → Team) : (updTeam s t f).ptc = s.ptc := by unfold updTeam; split <;> rfl
@[simp] theorem updTeam_agenda (s : State) (t : Nat) (f : Team → Team) : (updTeam s t f).agenda = s.agenda := by unfold updTeam; split <;> rfl
@[simp] theorem updTeam_issuer (s : State) (t : Nat) (f : Team → Team) : (updTeam s t f).issuer = s.issuer := by unfold updTeam; split <;> rfl
@[simp] theorem updTeam_seen (s : State) (t : Nat) (f : Team → Team) : (updTeam s t f).seen = s.seen := by unfold updTeam; split <;> rfl
@[simp] theorem updTeam_free (s : State) (t : Nat) (f : Team → Team) : (updTeam s t f).free = s.free := by unfold updTeam; split <;> rfl
@[simp] theorem updTeam_nextId (s : State) (t : Nat) (f : Team → Team) : (updTeam s t f).nextId = s.nextId := by unfold updTeam; split <;> rfl
@[simp] theorem updTeam_nextTeam (s : State) (t : Nat) (f : Team → Team) : (updTeam s t f).nextTeam = s.nextTeam := by unfold updTeam; split <;> rfl
@[simp] theorem updTeam_mem (s : State) (t : Nat) (f : Team → Team) : (updTeam s t f).mem = s.mem := by unfold updTeam; split <;> rfl
@[simp] theorem updTeam_memPoison (s : State) (t : Nat) (f : Team → Team) : (updTeam s t f).memPoison = s.memPoison := by unfold updTeam; split <;> rfl
@[simp] theorem updTeam_reqs (s : State) (t : Nat) (f : Team → Team) : (updTeam s t f).reqs = s.reqs := by unfold updTeam; split <;> rfl
@[simp] theorem updTeam_loads (s : State) (t : Nat) (f : Team → Team) : (updTeam s t f).loads = s.loads := by unfold updTeam; split <;> rfl
@[simp] theorem updTeam_ioLast (s : State) (t : Nat) (f : Team → Team) : (updTeam s t f).ioLast = s.ioLast := by unfold updTeam; split <;> rfl
@[simp] theorem updTeam_hub (s : State) (t : Nat) (f : Team → Team) : (updTeam s t f).hub = s.hub := by unfold updTeam; split <;> rfl
@[simp] theorem updTeam_dies (s : State) (t : Nat) (f : Team → Team) : (updTeam s t f).dies = s.dies := by unfold updTeam; split <;> rfl
@[simp] theorem updTeam_cores (s : State) (t : Nat) (f : Team → Team) : (updTeam s t f).cores = s.cores := by unfold updTeam; split <;> rfl
@[simp] theorem updTeam_tenants (s : State) (t : Nat) (f : Team → Team) : (updTeam s t f).tenants = s.tenants := by unfold updTeam; split <;> rfl
@[simp] theorem updTeam_parts (s : State) (t : Nat) (f : Team → Team) : (updTeam s t f).parts = s.parts := by unfold updTeam; split <;> rfl
@[simp] theorem updTeam_claims (s : State) (t : Nat) (f : Team → Team) : (updTeam s t f).claims = s.claims := by unfold updTeam; split <;> rfl
@[simp] theorem updTeam_creds (s : State) (t : Nat) (f : Team → Team) : (updTeam s t f).creds = s.creds := by unfold updTeam; split <;> rfl
@[simp] theorem updTeam_place (s : State) (t : Nat) (f : Team → Team) : (updTeam s t f).place = s.place := by unfold updTeam; split <;> rfl
@[simp] theorem updTeam_retiredCores (s : State) (t : Nat) (f : Team → Team) : (updTeam s t f).retiredCores = s.retiredCores := by unfold updTeam; split <;> rfl
@[simp] theorem updTeam_ofs (s : State) (t : Nat) (f : Team → Team) : (updTeam s t f).ofs = s.ofs := by unfold updTeam; split <;> rfl
@[simp] theorem updTeam_lat (s : State) (t : Nat) (f : Team → Team) : (updTeam s t f).lat = s.lat := by unfold updTeam; split <;> rfl
@[simp] theorem updTeam_rr (s : State) (t : Nat) (f : Team → Team) : (updTeam s t f).rr = s.rr := by unfold updTeam; split <;> rfl
@[simp] theorem updTeam_fuseLat (s : State) (t : Nat) (f : Team → Team) : (updTeam s t f).fuseLat = s.fuseLat := by unfold updTeam; split <;> rfl
@[simp] theorem updTeam_fuseOfs (s : State) (t : Nat) (f : Team → Team) : (updTeam s t f).fuseOfs = s.fuseOfs := by unfold updTeam; split <;> rfl
@[simp] theorem updTeam_staged (s : State) (t : Nat) (f : Team → Team) : (updTeam s t f).staged = s.staged := by unfold updTeam; split <;> rfl
@[simp] theorem updTeam_boot (s : State) (t : Nat) (f : Team → Team) : (updTeam s t f).boot = s.boot := by unfold updTeam; split <;> rfl
@[simp] theorem updTeam_mbox (s : State) (t : Nat) (f : Team → Team) : (updTeam s t f).mbox = s.mbox := by unfold updTeam; split <;> rfl
@[simp] theorem updTeam_fwActive (s : State) (t : Nat) (f : Team → Team) : (updTeam s t f).fwActive = s.fwActive := by unfold updTeam; split <;> rfl
@[simp] theorem updTeam_fwNext (s : State) (t : Nat) (f : Team → Team) : (updTeam s t f).fwNext = s.fwNext := by unfold updTeam; split <;> rfl
@[simp] theorem updTeam_ports (s : State) (t : Nat) (f : Team → Team) : (updTeam s t f).ports = s.ports := by unfold updTeam; split <;> rfl
@[simp] theorem updTeam_hostLanes (s : State) (t : Nat) (f : Team → Team) : (updTeam s t f).hostLanes = s.hostLanes := by unfold updTeam; split <;> rfl
@[simp] theorem updTeam_hostCxl (s : State) (t : Nat) (f : Team → Team) : (updTeam s t f).hostCxl = s.hostCxl := by unfold updTeam; split <;> rfl
@[simp] theorem updTeam_vfBar (s : State) (t : Nat) (f : Team → Team) : (updTeam s t f).vfBar = s.vfBar := by unfold updTeam; split <;> rfl
@[simp] theorem updTeam_vfMse (s : State) (t : Nat) (f : Team → Team) : (updTeam s t f).vfMse = s.vfMse := by unfold updTeam; split <;> rfl
@[simp] theorem updTeam_ide (s : State) (t : Nat) (f : Team → Team) : (updTeam s t f).ide = s.ide := by unfold updTeam; split <;> rfl
@[simp] theorem updTeam_currentCap (s : State) (t : Nat) (f : Team → Team) : (updTeam s t f).currentCap = s.currentCap := by unfold updTeam; split <;> rfl
@[simp] theorem updTeam_msix (s : State) (t : Nat) (f : Team → Team) : (updTeam s t f).msix = s.msix := by unfold updTeam; split <;> rfl
@[simp] theorem updTeam_tdAnswers (s : State) (t : Nat) (f : Team → Team) : (updTeam s t f).tdAnswers = s.tdAnswers := by unfold updTeam; split <;> rfl
@[simp] theorem updTeam_tdStop (s : State) (t : Nat) (f : Team → Team) : (updTeam s t f).tdStop = s.tdStop := by unfold updTeam; split <;> rfl
@[simp] theorem updTeam_tdWaiting (s : State) (t : Nat) (f : Team → Team) : (updTeam s t f).tdWaiting = s.tdWaiting := by unfold updTeam; split <;> rfl
@[simp] theorem updTeam_cxlData (s : State) (t : Nat) (f : Team → Team) : (updTeam s t f).cxlData = s.cxlData := by unfold updTeam; split <;> rfl
@[simp] theorem updTeam_cxlWindow (s : State) (t : Nat) (f : Team → Team) : (updTeam s t f).cxlWindow = s.cxlWindow := by unfold updTeam; split <;> rfl

@[simp] theorem updUnit_ptc (s : State) (t u : Nat) (f : WUnit → WUnit) : (updUnit s t u f).ptc = s.ptc := updTeam_ptc s t _
@[simp] theorem updUnit_agenda (s : State) (t u : Nat) (f : WUnit → WUnit) : (updUnit s t u f).agenda = s.agenda := updTeam_agenda s t _
@[simp] theorem updUnit_issuer (s : State) (t u : Nat) (f : WUnit → WUnit) : (updUnit s t u f).issuer = s.issuer := updTeam_issuer s t _
@[simp] theorem updUnit_seen (s : State) (t u : Nat) (f : WUnit → WUnit) : (updUnit s t u f).seen = s.seen := updTeam_seen s t _
@[simp] theorem updUnit_free (s : State) (t u : Nat) (f : WUnit → WUnit) : (updUnit s t u f).free = s.free := updTeam_free s t _
@[simp] theorem updUnit_nextId (s : State) (t u : Nat) (f : WUnit → WUnit) : (updUnit s t u f).nextId = s.nextId := updTeam_nextId s t _
@[simp] theorem updUnit_nextTeam (s : State) (t u : Nat) (f : WUnit → WUnit) : (updUnit s t u f).nextTeam = s.nextTeam := updTeam_nextTeam s t _
@[simp] theorem updUnit_mem (s : State) (t u : Nat) (f : WUnit → WUnit) : (updUnit s t u f).mem = s.mem := updTeam_mem s t _
@[simp] theorem updUnit_memPoison (s : State) (t u : Nat) (f : WUnit → WUnit) : (updUnit s t u f).memPoison = s.memPoison := updTeam_memPoison s t _
@[simp] theorem updUnit_reqs (s : State) (t u : Nat) (f : WUnit → WUnit) : (updUnit s t u f).reqs = s.reqs := updTeam_reqs s t _
@[simp] theorem updUnit_loads (s : State) (t u : Nat) (f : WUnit → WUnit) : (updUnit s t u f).loads = s.loads := updTeam_loads s t _
@[simp] theorem updUnit_ioLast (s : State) (t u : Nat) (f : WUnit → WUnit) : (updUnit s t u f).ioLast = s.ioLast := updTeam_ioLast s t _
@[simp] theorem updUnit_hub (s : State) (t u : Nat) (f : WUnit → WUnit) : (updUnit s t u f).hub = s.hub := updTeam_hub s t _
@[simp] theorem updUnit_dies (s : State) (t u : Nat) (f : WUnit → WUnit) : (updUnit s t u f).dies = s.dies := updTeam_dies s t _
@[simp] theorem updUnit_cores (s : State) (t u : Nat) (f : WUnit → WUnit) : (updUnit s t u f).cores = s.cores := updTeam_cores s t _
@[simp] theorem updUnit_tenants (s : State) (t u : Nat) (f : WUnit → WUnit) : (updUnit s t u f).tenants = s.tenants := updTeam_tenants s t _
@[simp] theorem updUnit_parts (s : State) (t u : Nat) (f : WUnit → WUnit) : (updUnit s t u f).parts = s.parts := updTeam_parts s t _
@[simp] theorem updUnit_claims (s : State) (t u : Nat) (f : WUnit → WUnit) : (updUnit s t u f).claims = s.claims := updTeam_claims s t _
@[simp] theorem updUnit_creds (s : State) (t u : Nat) (f : WUnit → WUnit) : (updUnit s t u f).creds = s.creds := updTeam_creds s t _
@[simp] theorem updUnit_place (s : State) (t u : Nat) (f : WUnit → WUnit) : (updUnit s t u f).place = s.place := updTeam_place s t _
@[simp] theorem updUnit_retiredCores (s : State) (t u : Nat) (f : WUnit → WUnit) : (updUnit s t u f).retiredCores = s.retiredCores := updTeam_retiredCores s t _
@[simp] theorem updUnit_ofs (s : State) (t u : Nat) (f : WUnit → WUnit) : (updUnit s t u f).ofs = s.ofs := updTeam_ofs s t _
@[simp] theorem updUnit_lat (s : State) (t u : Nat) (f : WUnit → WUnit) : (updUnit s t u f).lat = s.lat := updTeam_lat s t _
@[simp] theorem updUnit_rr (s : State) (t u : Nat) (f : WUnit → WUnit) : (updUnit s t u f).rr = s.rr := updTeam_rr s t _
@[simp] theorem updUnit_fuseLat (s : State) (t u : Nat) (f : WUnit → WUnit) : (updUnit s t u f).fuseLat = s.fuseLat := updTeam_fuseLat s t _
@[simp] theorem updUnit_fuseOfs (s : State) (t u : Nat) (f : WUnit → WUnit) : (updUnit s t u f).fuseOfs = s.fuseOfs := updTeam_fuseOfs s t _
@[simp] theorem updUnit_staged (s : State) (t u : Nat) (f : WUnit → WUnit) : (updUnit s t u f).staged = s.staged := updTeam_staged s t _
@[simp] theorem updUnit_boot (s : State) (t u : Nat) (f : WUnit → WUnit) : (updUnit s t u f).boot = s.boot := updTeam_boot s t _
@[simp] theorem updUnit_mbox (s : State) (t u : Nat) (f : WUnit → WUnit) : (updUnit s t u f).mbox = s.mbox := updTeam_mbox s t _
@[simp] theorem updUnit_fwActive (s : State) (t u : Nat) (f : WUnit → WUnit) : (updUnit s t u f).fwActive = s.fwActive := updTeam_fwActive s t _
@[simp] theorem updUnit_fwNext (s : State) (t u : Nat) (f : WUnit → WUnit) : (updUnit s t u f).fwNext = s.fwNext := updTeam_fwNext s t _
@[simp] theorem updUnit_ports (s : State) (t u : Nat) (f : WUnit → WUnit) : (updUnit s t u f).ports = s.ports := updTeam_ports s t _
@[simp] theorem updUnit_hostLanes (s : State) (t u : Nat) (f : WUnit → WUnit) : (updUnit s t u f).hostLanes = s.hostLanes := updTeam_hostLanes s t _
@[simp] theorem updUnit_hostCxl (s : State) (t u : Nat) (f : WUnit → WUnit) : (updUnit s t u f).hostCxl = s.hostCxl := updTeam_hostCxl s t _
@[simp] theorem updUnit_vfBar (s : State) (t u : Nat) (f : WUnit → WUnit) : (updUnit s t u f).vfBar = s.vfBar := updTeam_vfBar s t _
@[simp] theorem updUnit_vfMse (s : State) (t u : Nat) (f : WUnit → WUnit) : (updUnit s t u f).vfMse = s.vfMse := updTeam_vfMse s t _
@[simp] theorem updUnit_ide (s : State) (t u : Nat) (f : WUnit → WUnit) : (updUnit s t u f).ide = s.ide := updTeam_ide s t _
@[simp] theorem updUnit_currentCap (s : State) (t u : Nat) (f : WUnit → WUnit) : (updUnit s t u f).currentCap = s.currentCap := updTeam_currentCap s t _
@[simp] theorem updUnit_msix (s : State) (t u : Nat) (f : WUnit → WUnit) : (updUnit s t u f).msix = s.msix := updTeam_msix s t _
@[simp] theorem updUnit_tdAnswers (s : State) (t u : Nat) (f : WUnit → WUnit) : (updUnit s t u f).tdAnswers = s.tdAnswers := updTeam_tdAnswers s t _
@[simp] theorem updUnit_tdStop (s : State) (t u : Nat) (f : WUnit → WUnit) : (updUnit s t u f).tdStop = s.tdStop := updTeam_tdStop s t _
@[simp] theorem updUnit_tdWaiting (s : State) (t u : Nat) (f : WUnit → WUnit) : (updUnit s t u f).tdWaiting = s.tdWaiting := updTeam_tdWaiting s t _
@[simp] theorem updUnit_cxlData (s : State) (t u : Nat) (f : WUnit → WUnit) : (updUnit s t u f).cxlData = s.cxlData := updTeam_cxlData s t _
@[simp] theorem updUnit_cxlWindow (s : State) (t u : Nat) (f : WUnit → WUnit) : (updUnit s t u f).cxlWindow = s.cxlWindow := updTeam_cxlWindow s t _

@[simp] theorem updUnits_ptc (s : State) (t : Nat) (f : Nat → WUnit → WUnit) : (updUnits s t f).ptc = s.ptc := updTeam_ptc s t _
@[simp] theorem updUnits_agenda (s : State) (t : Nat) (f : Nat → WUnit → WUnit) : (updUnits s t f).agenda = s.agenda := updTeam_agenda s t _
@[simp] theorem updUnits_issuer (s : State) (t : Nat) (f : Nat → WUnit → WUnit) : (updUnits s t f).issuer = s.issuer := updTeam_issuer s t _
@[simp] theorem updUnits_seen (s : State) (t : Nat) (f : Nat → WUnit → WUnit) : (updUnits s t f).seen = s.seen := updTeam_seen s t _
@[simp] theorem updUnits_free (s : State) (t : Nat) (f : Nat → WUnit → WUnit) : (updUnits s t f).free = s.free := updTeam_free s t _
@[simp] theorem updUnits_nextId (s : State) (t : Nat) (f : Nat → WUnit → WUnit) : (updUnits s t f).nextId = s.nextId := updTeam_nextId s t _
@[simp] theorem updUnits_nextTeam (s : State) (t : Nat) (f : Nat → WUnit → WUnit) : (updUnits s t f).nextTeam = s.nextTeam := updTeam_nextTeam s t _
@[simp] theorem updUnits_mem (s : State) (t : Nat) (f : Nat → WUnit → WUnit) : (updUnits s t f).mem = s.mem := updTeam_mem s t _
@[simp] theorem updUnits_memPoison (s : State) (t : Nat) (f : Nat → WUnit → WUnit) : (updUnits s t f).memPoison = s.memPoison := updTeam_memPoison s t _
@[simp] theorem updUnits_reqs (s : State) (t : Nat) (f : Nat → WUnit → WUnit) : (updUnits s t f).reqs = s.reqs := updTeam_reqs s t _
@[simp] theorem updUnits_loads (s : State) (t : Nat) (f : Nat → WUnit → WUnit) : (updUnits s t f).loads = s.loads := updTeam_loads s t _
@[simp] theorem updUnits_ioLast (s : State) (t : Nat) (f : Nat → WUnit → WUnit) : (updUnits s t f).ioLast = s.ioLast := updTeam_ioLast s t _
@[simp] theorem updUnits_hub (s : State) (t : Nat) (f : Nat → WUnit → WUnit) : (updUnits s t f).hub = s.hub := updTeam_hub s t _
@[simp] theorem updUnits_dies (s : State) (t : Nat) (f : Nat → WUnit → WUnit) : (updUnits s t f).dies = s.dies := updTeam_dies s t _
@[simp] theorem updUnits_cores (s : State) (t : Nat) (f : Nat → WUnit → WUnit) : (updUnits s t f).cores = s.cores := updTeam_cores s t _
@[simp] theorem updUnits_tenants (s : State) (t : Nat) (f : Nat → WUnit → WUnit) : (updUnits s t f).tenants = s.tenants := updTeam_tenants s t _
@[simp] theorem updUnits_parts (s : State) (t : Nat) (f : Nat → WUnit → WUnit) : (updUnits s t f).parts = s.parts := updTeam_parts s t _
@[simp] theorem updUnits_claims (s : State) (t : Nat) (f : Nat → WUnit → WUnit) : (updUnits s t f).claims = s.claims := updTeam_claims s t _
@[simp] theorem updUnits_creds (s : State) (t : Nat) (f : Nat → WUnit → WUnit) : (updUnits s t f).creds = s.creds := updTeam_creds s t _
@[simp] theorem updUnits_place (s : State) (t : Nat) (f : Nat → WUnit → WUnit) : (updUnits s t f).place = s.place := updTeam_place s t _
@[simp] theorem updUnits_retiredCores (s : State) (t : Nat) (f : Nat → WUnit → WUnit) : (updUnits s t f).retiredCores = s.retiredCores := updTeam_retiredCores s t _
@[simp] theorem updUnits_ofs (s : State) (t : Nat) (f : Nat → WUnit → WUnit) : (updUnits s t f).ofs = s.ofs := updTeam_ofs s t _
@[simp] theorem updUnits_lat (s : State) (t : Nat) (f : Nat → WUnit → WUnit) : (updUnits s t f).lat = s.lat := updTeam_lat s t _
@[simp] theorem updUnits_rr (s : State) (t : Nat) (f : Nat → WUnit → WUnit) : (updUnits s t f).rr = s.rr := updTeam_rr s t _
@[simp] theorem updUnits_fuseLat (s : State) (t : Nat) (f : Nat → WUnit → WUnit) : (updUnits s t f).fuseLat = s.fuseLat := updTeam_fuseLat s t _
@[simp] theorem updUnits_fuseOfs (s : State) (t : Nat) (f : Nat → WUnit → WUnit) : (updUnits s t f).fuseOfs = s.fuseOfs := updTeam_fuseOfs s t _
@[simp] theorem updUnits_staged (s : State) (t : Nat) (f : Nat → WUnit → WUnit) : (updUnits s t f).staged = s.staged := updTeam_staged s t _
@[simp] theorem updUnits_boot (s : State) (t : Nat) (f : Nat → WUnit → WUnit) : (updUnits s t f).boot = s.boot := updTeam_boot s t _
@[simp] theorem updUnits_mbox (s : State) (t : Nat) (f : Nat → WUnit → WUnit) : (updUnits s t f).mbox = s.mbox := updTeam_mbox s t _
@[simp] theorem updUnits_fwActive (s : State) (t : Nat) (f : Nat → WUnit → WUnit) : (updUnits s t f).fwActive = s.fwActive := updTeam_fwActive s t _
@[simp] theorem updUnits_fwNext (s : State) (t : Nat) (f : Nat → WUnit → WUnit) : (updUnits s t f).fwNext = s.fwNext := updTeam_fwNext s t _
@[simp] theorem updUnits_ports (s : State) (t : Nat) (f : Nat → WUnit → WUnit) : (updUnits s t f).ports = s.ports := updTeam_ports s t _
@[simp] theorem updUnits_hostLanes (s : State) (t : Nat) (f : Nat → WUnit → WUnit) : (updUnits s t f).hostLanes = s.hostLanes := updTeam_hostLanes s t _
@[simp] theorem updUnits_hostCxl (s : State) (t : Nat) (f : Nat → WUnit → WUnit) : (updUnits s t f).hostCxl = s.hostCxl := updTeam_hostCxl s t _
@[simp] theorem updUnits_vfBar (s : State) (t : Nat) (f : Nat → WUnit → WUnit) : (updUnits s t f).vfBar = s.vfBar := updTeam_vfBar s t _
@[simp] theorem updUnits_vfMse (s : State) (t : Nat) (f : Nat → WUnit → WUnit) : (updUnits s t f).vfMse = s.vfMse := updTeam_vfMse s t _
@[simp] theorem updUnits_ide (s : State) (t : Nat) (f : Nat → WUnit → WUnit) : (updUnits s t f).ide = s.ide := updTeam_ide s t _
@[simp] theorem updUnits_currentCap (s : State) (t : Nat) (f : Nat → WUnit → WUnit) : (updUnits s t f).currentCap = s.currentCap := updTeam_currentCap s t _
@[simp] theorem updUnits_msix (s : State) (t : Nat) (f : Nat → WUnit → WUnit) : (updUnits s t f).msix = s.msix := updTeam_msix s t _
@[simp] theorem updUnits_tdAnswers (s : State) (t : Nat) (f : Nat → WUnit → WUnit) : (updUnits s t f).tdAnswers = s.tdAnswers := updTeam_tdAnswers s t _
@[simp] theorem updUnits_tdStop (s : State) (t : Nat) (f : Nat → WUnit → WUnit) : (updUnits s t f).tdStop = s.tdStop := updTeam_tdStop s t _
@[simp] theorem updUnits_tdWaiting (s : State) (t : Nat) (f : Nat → WUnit → WUnit) : (updUnits s t f).tdWaiting = s.tdWaiting := updTeam_tdWaiting s t _
@[simp] theorem updUnits_cxlData (s : State) (t : Nat) (f : Nat → WUnit → WUnit) : (updUnits s t f).cxlData = s.cxlData := updTeam_cxlData s t _
@[simp] theorem updUnits_cxlWindow (s : State) (t : Nat) (f : Nat → WUnit → WUnit) : (updUnits s t f).cxlWindow = s.cxlWindow := updTeam_cxlWindow s t _

@[simp] theorem updFlight_ptc (s : State) (t u : Nat) (f : Flight → Flight) : (updFlight s t u f).ptc = s.ptc := updUnit_ptc s t u _
@[simp] theorem updFlight_agenda (s : State) (t u : Nat) (f : Flight → Flight) : (updFlight s t u f).agenda = s.agenda := updUnit_agenda s t u _
@[simp] theorem updFlight_issuer (s : State) (t u : Nat) (f : Flight → Flight) : (updFlight s t u f).issuer = s.issuer := updUnit_issuer s t u _
@[simp] theorem updFlight_seen (s : State) (t u : Nat) (f : Flight → Flight) : (updFlight s t u f).seen = s.seen := updUnit_seen s t u _
@[simp] theorem updFlight_free (s : State) (t u : Nat) (f : Flight → Flight) : (updFlight s t u f).free = s.free := updUnit_free s t u _
@[simp] theorem updFlight_nextId (s : State) (t u : Nat) (f : Flight → Flight) : (updFlight s t u f).nextId = s.nextId := updUnit_nextId s t u _
@[simp] theorem updFlight_nextTeam (s : State) (t u : Nat) (f : Flight → Flight) : (updFlight s t u f).nextTeam = s.nextTeam := updUnit_nextTeam s t u _
@[simp] theorem updFlight_mem (s : State) (t u : Nat) (f : Flight → Flight) : (updFlight s t u f).mem = s.mem := updUnit_mem s t u _
@[simp] theorem updFlight_memPoison (s : State) (t u : Nat) (f : Flight → Flight) : (updFlight s t u f).memPoison = s.memPoison := updUnit_memPoison s t u _
@[simp] theorem updFlight_reqs (s : State) (t u : Nat) (f : Flight → Flight) : (updFlight s t u f).reqs = s.reqs := updUnit_reqs s t u _
@[simp] theorem updFlight_loads (s : State) (t u : Nat) (f : Flight → Flight) : (updFlight s t u f).loads = s.loads := updUnit_loads s t u _
@[simp] theorem updFlight_ioLast (s : State) (t u : Nat) (f : Flight → Flight) : (updFlight s t u f).ioLast = s.ioLast := updUnit_ioLast s t u _
@[simp] theorem updFlight_hub (s : State) (t u : Nat) (f : Flight → Flight) : (updFlight s t u f).hub = s.hub := updUnit_hub s t u _
@[simp] theorem updFlight_dies (s : State) (t u : Nat) (f : Flight → Flight) : (updFlight s t u f).dies = s.dies := updUnit_dies s t u _
@[simp] theorem updFlight_cores (s : State) (t u : Nat) (f : Flight → Flight) : (updFlight s t u f).cores = s.cores := updUnit_cores s t u _
@[simp] theorem updFlight_tenants (s : State) (t u : Nat) (f : Flight → Flight) : (updFlight s t u f).tenants = s.tenants := updUnit_tenants s t u _
@[simp] theorem updFlight_parts (s : State) (t u : Nat) (f : Flight → Flight) : (updFlight s t u f).parts = s.parts := updUnit_parts s t u _
@[simp] theorem updFlight_claims (s : State) (t u : Nat) (f : Flight → Flight) : (updFlight s t u f).claims = s.claims := updUnit_claims s t u _
@[simp] theorem updFlight_creds (s : State) (t u : Nat) (f : Flight → Flight) : (updFlight s t u f).creds = s.creds := updUnit_creds s t u _
@[simp] theorem updFlight_place (s : State) (t u : Nat) (f : Flight → Flight) : (updFlight s t u f).place = s.place := updUnit_place s t u _
@[simp] theorem updFlight_retiredCores (s : State) (t u : Nat) (f : Flight → Flight) : (updFlight s t u f).retiredCores = s.retiredCores := updUnit_retiredCores s t u _
@[simp] theorem updFlight_ofs (s : State) (t u : Nat) (f : Flight → Flight) : (updFlight s t u f).ofs = s.ofs := updUnit_ofs s t u _
@[simp] theorem updFlight_lat (s : State) (t u : Nat) (f : Flight → Flight) : (updFlight s t u f).lat = s.lat := updUnit_lat s t u _
@[simp] theorem updFlight_rr (s : State) (t u : Nat) (f : Flight → Flight) : (updFlight s t u f).rr = s.rr := updUnit_rr s t u _
@[simp] theorem updFlight_fuseLat (s : State) (t u : Nat) (f : Flight → Flight) : (updFlight s t u f).fuseLat = s.fuseLat := updUnit_fuseLat s t u _
@[simp] theorem updFlight_fuseOfs (s : State) (t u : Nat) (f : Flight → Flight) : (updFlight s t u f).fuseOfs = s.fuseOfs := updUnit_fuseOfs s t u _
@[simp] theorem updFlight_staged (s : State) (t u : Nat) (f : Flight → Flight) : (updFlight s t u f).staged = s.staged := updUnit_staged s t u _
@[simp] theorem updFlight_boot (s : State) (t u : Nat) (f : Flight → Flight) : (updFlight s t u f).boot = s.boot := updUnit_boot s t u _
@[simp] theorem updFlight_mbox (s : State) (t u : Nat) (f : Flight → Flight) : (updFlight s t u f).mbox = s.mbox := updUnit_mbox s t u _
@[simp] theorem updFlight_fwActive (s : State) (t u : Nat) (f : Flight → Flight) : (updFlight s t u f).fwActive = s.fwActive := updUnit_fwActive s t u _
@[simp] theorem updFlight_fwNext (s : State) (t u : Nat) (f : Flight → Flight) : (updFlight s t u f).fwNext = s.fwNext := updUnit_fwNext s t u _
@[simp] theorem updFlight_ports (s : State) (t u : Nat) (f : Flight → Flight) : (updFlight s t u f).ports = s.ports := updUnit_ports s t u _
@[simp] theorem updFlight_hostLanes (s : State) (t u : Nat) (f : Flight → Flight) : (updFlight s t u f).hostLanes = s.hostLanes := updUnit_hostLanes s t u _
@[simp] theorem updFlight_hostCxl (s : State) (t u : Nat) (f : Flight → Flight) : (updFlight s t u f).hostCxl = s.hostCxl := updUnit_hostCxl s t u _
@[simp] theorem updFlight_vfBar (s : State) (t u : Nat) (f : Flight → Flight) : (updFlight s t u f).vfBar = s.vfBar := updUnit_vfBar s t u _
@[simp] theorem updFlight_vfMse (s : State) (t u : Nat) (f : Flight → Flight) : (updFlight s t u f).vfMse = s.vfMse := updUnit_vfMse s t u _
@[simp] theorem updFlight_ide (s : State) (t u : Nat) (f : Flight → Flight) : (updFlight s t u f).ide = s.ide := updUnit_ide s t u _
@[simp] theorem updFlight_currentCap (s : State) (t u : Nat) (f : Flight → Flight) : (updFlight s t u f).currentCap = s.currentCap := updUnit_currentCap s t u _
@[simp] theorem updFlight_msix (s : State) (t u : Nat) (f : Flight → Flight) : (updFlight s t u f).msix = s.msix := updUnit_msix s t u _
@[simp] theorem updFlight_tdAnswers (s : State) (t u : Nat) (f : Flight → Flight) : (updFlight s t u f).tdAnswers = s.tdAnswers := updUnit_tdAnswers s t u _
@[simp] theorem updFlight_tdStop (s : State) (t u : Nat) (f : Flight → Flight) : (updFlight s t u f).tdStop = s.tdStop := updUnit_tdStop s t u _
@[simp] theorem updFlight_tdWaiting (s : State) (t u : Nat) (f : Flight → Flight) : (updFlight s t u f).tdWaiting = s.tdWaiting := updUnit_tdWaiting s t u _
@[simp] theorem updFlight_cxlData (s : State) (t u : Nat) (f : Flight → Flight) : (updFlight s t u f).cxlData = s.cxlData := updUnit_cxlData s t u _
@[simp] theorem updFlight_cxlWindow (s : State) (t u : Nat) (f : Flight → Flight) : (updFlight s t u f).cxlWindow = s.cxlWindow := updUnit_cxlWindow s t u _

@[simp] theorem updPart_ptc (s : State) (p : Nat) (f : Partition → Partition) : (updPart s p f).ptc = s.ptc := by unfold updPart; split <;> rfl
@[simp] theorem updPart_agenda (s : State) (p : Nat) (f : Partition → Partition) : (updPart s p f).agenda = s.agenda := by unfold updPart; split <;> rfl
@[simp] theorem updPart_issuer (s : State) (p : Nat) (f : Partition → Partition) : (updPart s p f).issuer = s.issuer := by unfold updPart; split <;> rfl
@[simp] theorem updPart_seen (s : State) (p : Nat) (f : Partition → Partition) : (updPart s p f).seen = s.seen := by unfold updPart; split <;> rfl
@[simp] theorem updPart_free (s : State) (p : Nat) (f : Partition → Partition) : (updPart s p f).free = s.free := by unfold updPart; split <;> rfl
@[simp] theorem updPart_nextId (s : State) (p : Nat) (f : Partition → Partition) : (updPart s p f).nextId = s.nextId := by unfold updPart; split <;> rfl
@[simp] theorem updPart_nextTeam (s : State) (p : Nat) (f : Partition → Partition) : (updPart s p f).nextTeam = s.nextTeam := by unfold updPart; split <;> rfl
@[simp] theorem updPart_mem (s : State) (p : Nat) (f : Partition → Partition) : (updPart s p f).mem = s.mem := by unfold updPart; split <;> rfl
@[simp] theorem updPart_memPoison (s : State) (p : Nat) (f : Partition → Partition) : (updPart s p f).memPoison = s.memPoison := by unfold updPart; split <;> rfl
@[simp] theorem updPart_reqs (s : State) (p : Nat) (f : Partition → Partition) : (updPart s p f).reqs = s.reqs := by unfold updPart; split <;> rfl
@[simp] theorem updPart_loads (s : State) (p : Nat) (f : Partition → Partition) : (updPart s p f).loads = s.loads := by unfold updPart; split <;> rfl
@[simp] theorem updPart_ioLast (s : State) (p : Nat) (f : Partition → Partition) : (updPart s p f).ioLast = s.ioLast := by unfold updPart; split <;> rfl
@[simp] theorem updPart_hub (s : State) (p : Nat) (f : Partition → Partition) : (updPart s p f).hub = s.hub := by unfold updPart; split <;> rfl
@[simp] theorem updPart_dies (s : State) (p : Nat) (f : Partition → Partition) : (updPart s p f).dies = s.dies := by unfold updPart; split <;> rfl
@[simp] theorem updPart_cores (s : State) (p : Nat) (f : Partition → Partition) : (updPart s p f).cores = s.cores := by unfold updPart; split <;> rfl
@[simp] theorem updPart_teams (s : State) (p : Nat) (f : Partition → Partition) : (updPart s p f).teams = s.teams := by unfold updPart; split <;> rfl
@[simp] theorem updPart_tenants (s : State) (p : Nat) (f : Partition → Partition) : (updPart s p f).tenants = s.tenants := by unfold updPart; split <;> rfl
@[simp] theorem updPart_claims (s : State) (p : Nat) (f : Partition → Partition) : (updPart s p f).claims = s.claims := by unfold updPart; split <;> rfl
@[simp] theorem updPart_creds (s : State) (p : Nat) (f : Partition → Partition) : (updPart s p f).creds = s.creds := by unfold updPart; split <;> rfl
@[simp] theorem updPart_place (s : State) (p : Nat) (f : Partition → Partition) : (updPart s p f).place = s.place := by unfold updPart; split <;> rfl
@[simp] theorem updPart_retiredCores (s : State) (p : Nat) (f : Partition → Partition) : (updPart s p f).retiredCores = s.retiredCores := by unfold updPart; split <;> rfl
@[simp] theorem updPart_ofs (s : State) (p : Nat) (f : Partition → Partition) : (updPart s p f).ofs = s.ofs := by unfold updPart; split <;> rfl
@[simp] theorem updPart_lat (s : State) (p : Nat) (f : Partition → Partition) : (updPart s p f).lat = s.lat := by unfold updPart; split <;> rfl
@[simp] theorem updPart_rr (s : State) (p : Nat) (f : Partition → Partition) : (updPart s p f).rr = s.rr := by unfold updPart; split <;> rfl
@[simp] theorem updPart_fuseLat (s : State) (p : Nat) (f : Partition → Partition) : (updPart s p f).fuseLat = s.fuseLat := by unfold updPart; split <;> rfl
@[simp] theorem updPart_fuseOfs (s : State) (p : Nat) (f : Partition → Partition) : (updPart s p f).fuseOfs = s.fuseOfs := by unfold updPart; split <;> rfl
@[simp] theorem updPart_staged (s : State) (p : Nat) (f : Partition → Partition) : (updPart s p f).staged = s.staged := by unfold updPart; split <;> rfl
@[simp] theorem updPart_boot (s : State) (p : Nat) (f : Partition → Partition) : (updPart s p f).boot = s.boot := by unfold updPart; split <;> rfl
@[simp] theorem updPart_mbox (s : State) (p : Nat) (f : Partition → Partition) : (updPart s p f).mbox = s.mbox := by unfold updPart; split <;> rfl
@[simp] theorem updPart_fwActive (s : State) (p : Nat) (f : Partition → Partition) : (updPart s p f).fwActive = s.fwActive := by unfold updPart; split <;> rfl
@[simp] theorem updPart_fwNext (s : State) (p : Nat) (f : Partition → Partition) : (updPart s p f).fwNext = s.fwNext := by unfold updPart; split <;> rfl
@[simp] theorem updPart_ports (s : State) (p : Nat) (f : Partition → Partition) : (updPart s p f).ports = s.ports := by unfold updPart; split <;> rfl
@[simp] theorem updPart_hostLanes (s : State) (p : Nat) (f : Partition → Partition) : (updPart s p f).hostLanes = s.hostLanes := by unfold updPart; split <;> rfl
@[simp] theorem updPart_hostCxl (s : State) (p : Nat) (f : Partition → Partition) : (updPart s p f).hostCxl = s.hostCxl := by unfold updPart; split <;> rfl
@[simp] theorem updPart_vfBar (s : State) (p : Nat) (f : Partition → Partition) : (updPart s p f).vfBar = s.vfBar := by unfold updPart; split <;> rfl
@[simp] theorem updPart_vfMse (s : State) (p : Nat) (f : Partition → Partition) : (updPart s p f).vfMse = s.vfMse := by unfold updPart; split <;> rfl
@[simp] theorem updPart_ide (s : State) (p : Nat) (f : Partition → Partition) : (updPart s p f).ide = s.ide := by unfold updPart; split <;> rfl
@[simp] theorem updPart_currentCap (s : State) (p : Nat) (f : Partition → Partition) : (updPart s p f).currentCap = s.currentCap := by unfold updPart; split <;> rfl
@[simp] theorem updPart_msix (s : State) (p : Nat) (f : Partition → Partition) : (updPart s p f).msix = s.msix := by unfold updPart; split <;> rfl
@[simp] theorem updPart_tdAnswers (s : State) (p : Nat) (f : Partition → Partition) : (updPart s p f).tdAnswers = s.tdAnswers := by unfold updPart; split <;> rfl
@[simp] theorem updPart_tdStop (s : State) (p : Nat) (f : Partition → Partition) : (updPart s p f).tdStop = s.tdStop := by unfold updPart; split <;> rfl
@[simp] theorem updPart_tdWaiting (s : State) (p : Nat) (f : Partition → Partition) : (updPart s p f).tdWaiting = s.tdWaiting := by unfold updPart; split <;> rfl
@[simp] theorem updPart_cxlData (s : State) (p : Nat) (f : Partition → Partition) : (updPart s p f).cxlData = s.cxlData := by unfold updPart; split <;> rfl
@[simp] theorem updPart_cxlWindow (s : State) (p : Nat) (f : Partition → Partition) : (updPart s p f).cxlWindow = s.cxlWindow := by unfold updPart; split <;> rfl

/-! ## What is read back -/

@[simp] theorem getTeam_putTeam_same (s : State) (t : Nat) (T : Team) : getTeam (putTeam s t T) t = some T :=
  tabFind_tabPut_same s.teams t T

theorem getTeam_putTeam_other (s : State) (t m : Nat) (T : Team) (h : m ≠ t) : getTeam (putTeam s t T) m = getTeam s m :=
  tabFind_tabPut_other s.teams t m T h

@[simp] theorem getTeam_updTeam_same (s : State) (t : Nat) (f : Team → Team) :
    getTeam (updTeam s t f) t = (getTeam s t).map f := by
  unfold updTeam
  cases h : getTeam s t with
  | none => simp [h]
  | some T => simp

theorem getTeam_updTeam_other (s : State) (t m : Nat) (f : Team → Team) (h : m ≠ t) :
    getTeam (updTeam s t f) m = getTeam s m := by
  unfold updTeam
  cases getTeam s t with
  | none => rfl
  | some T => exact getTeam_putTeam_other s t m (f T) h

/-- The team after one of its units changed. -/
def withUnit (T : Team) (u : Nat) (f : WUnit → WUnit) : Team :=
  match tabFind T.units u with
  | some w => { T with units := tabPut T.units u (f w) }
  | none => T

theorem updUnit_eq (s : State) (t u : Nat) (f : WUnit → WUnit) :
    updUnit s t u f = updTeam s t (fun T => withUnit T u f) := rfl

@[simp] theorem withUnit_find_same (T : Team) (u : Nat) (f : WUnit → WUnit) :
    tabFind (withUnit T u f).units u = (tabFind T.units u).map f := by
  unfold withUnit
  cases h : tabFind T.units u with
  | none => simp [h]
  | some w => simp [tabFind_tabPut_same]

theorem withUnit_find_other (T : Team) (u m : Nat) (f : WUnit → WUnit) (h : m ≠ u) :
    tabFind (withUnit T u f).units m = tabFind T.units m := by
  unfold withUnit
  cases tabFind T.units u with
  | none => rfl
  | some w => exact tabFind_tabPut_other T.units u m (f w) h

@[simp] theorem getUnit_updUnit_same (s : State) (t u : Nat) (f : WUnit → WUnit) :
    getUnit (updUnit s t u f) t u = (getUnit s t u).map f := by
  unfold getUnit
  rw [updUnit_eq, getTeam_updTeam_same]
  cases getTeam s t with
  | none => rfl
  | some T => exact withUnit_find_same T u f

theorem getUnit_updUnit_other (s : State) (t u t' u' : Nat) (f : WUnit → WUnit) (h : t' ≠ t ∨ u' ≠ u) :
    getUnit (updUnit s t u f) t' u' = getUnit s t' u' := by
  unfold getUnit
  rw [updUnit_eq]
  by_cases ht : t' = t
  · subst ht
    have hu : u' ≠ u := h.resolve_left (fun k => k rfl)
    rw [getTeam_updTeam_same]
    cases getTeam s t' with
    | none => rfl
    | some T => exact withUnit_find_other T u u' f hu
  · rw [getTeam_updTeam_other s t t' _ ht]

theorem getUnit_updCore (s : State) (c t u : Nat) (f : Core → Core) : getUnit (updCore s c f) t u = getUnit s t u := rfl

theorem getTeam_updCore (s : State) (c t : Nat) (f : Core → Core) : getTeam (updCore s c f) t = getTeam s t := rfl

theorem getCore_updCore_other (s : State) (c d : Nat) (f : Core → Core) (h : d ≠ c) :
    getCore (updCore s c f) d = getCore s d := tabGet_tabSet_other _ s.cores c d _ h

theorem getCore_updCore_same (s : State) (c : Nat) (f : Core → Core) (h : tabWf {} s.cores = true) :
    getCore (updCore s c f) c = f (getCore s c) := tabGet_tabSet_same _ s.cores c _ h

theorem getTenant_updTenant_other (s : State) (v d : Nat) (f : Tenant → Tenant) (h : d ≠ v) :
    getTenant (updTenant s v f) d = getTenant s d := tabGet_tabSet_other _ s.tenants v d _ h

theorem getTenant_updTenant_same (s : State) (v : Nat) (f : Tenant → Tenant) (h : tabWf {} s.tenants = true) :
    getTenant (updTenant s v f) v = f (getTenant s v) := tabGet_tabSet_same _ s.tenants v _ h

theorem getDie_updDie_other (s : State) (v d : Nat) (f : Die → Die) (h : d ≠ v) :
    getDie (updDie s v f) d = getDie s d := tabGet_tabSet_other _ s.dies v d _ h

end Sys2Proof.Machine
end

