-- ==== Sys2Proof/Laws/Ops.lean ====
section
/-! SUPPORT. What the shared operations do: the turn of a word, its result, writes at their home, and the canonical
form of memory under each of them. -/

namespace Sys2Proof.Machine

/-! ## The turn of a word -/

theorem atTurn_none {s : State} {o : Op} {c : Ctl} {pl : Payload} {k : Iss → Result} (h : issCtx s = none) :
    atTurn o c pl s k = .next s := by
  unfold atTurn; rw [h]

theorem atTurn_gate {s s' : State} {i : Iss} {o : Op} {c : Ctl} {pl : Payload} {k : Iss → Result}
    (h : issCtx s = some i) (hg : gate s i o c pl = some s') : atTurn o c pl s k = .next s' := by
  unfold atTurn; rw [h]; simp only [hg]

theorem atTurn_go {s : State} {i : Iss} {o : Op} {c : Ctl} {pl : Payload} {k : Iss → Result}
    (h : issCtx s = some i) (hg : gate s i o c pl = none) : atTurn o c pl s k = k i := by
  unfold atTurn; rw [h]; simp only [hg]

/-- Everything a word's turn can do: nothing (no block in flight), what the gate says, or the word's own effect. -/
theorem atTurn_cases (s : State) (o : Op) (c : Ctl) (pl : Payload) (k : Iss → Result) :
    (issCtx s = none ∧ atTurn o c pl s k = .next s) ∨
    (∃ i s', issCtx s = some i ∧ gate s i o c pl = some s' ∧ atTurn o c pl s k = .next s') ∨
    (∃ i, issCtx s = some i ∧ gate s i o c pl = none ∧ atTurn o c pl s k = k i) := by
  cases h : issCtx s with
  | none => exact .inl ⟨rfl, atTurn_none h⟩
  | some i =>
    cases hg : gate s i o c pl with
    | some s' => exact .inr (.inl ⟨i, s', rfl, hg, atTurn_gate h hg⟩)
    | none => exact .inr (.inr ⟨i, rfl, hg, atTurn_go h hg⟩)

/-- A lane-wise word at its turn sends its lanes and raises its flags. -/
theorem execLanes_go {s : State} {i : Iss} {o : Op} {c : Ctl} {pl : Payload} (f : Iss → Opnds → FRes)
    (h : issCtx s = some i) (hg : gate s i o c pl = none) :
    execLanes o c pl f s =
      if payloadU pl then
        .next (finish s i o c pl (spread i (((uniOpnds i o c pl).map (f i)).map Prod.fst)) (latency o c pl i.u)
          ((((uniOpnds i o c pl).map (f i)).map Prod.snd).getD 0))
      else .next (finish s i o c pl (laneResults (allOpnds i o c pl) (f i)).1 (latency o c pl i.u)
        (laneResults (allOpnds i o c pl) (f i)).2) := by
  unfold execLanes; rw [atTurn_go h hg]

/-- Words whose lanes are computed together. -/
theorem execCross_go {s : State} {i : Iss} {o : Op} {c : Ctl} {pl : Payload} (n : Nat) (f : Iss → List Lane)
    (h : issCtx s = some i) (hg : gate s i o c pl = none) :
    execCross o c pl n f s = .next (finish s i o c pl (f i) (slotCycles i.u * n) 0) := by
  unfold execCross; rw [atTurn_go h hg]

/-! ## What a result leaves alone -/

@[simp] theorem sbTimed_mem (s : State) (i : Iss) (c : Ctl) (r : Nat) : (sbTimed s i c r).mem = s.mem := by
  unfold sbTimed; split <;> simp

theorem foldl_mem {β : Type} (f : State → β → State) (h : ∀ s b, (f s b).mem = s.mem) (l : List β) (s : State) :
    (l.foldl f s).mem = s.mem := by
  induction l generalizing s with
  | nil => rfl
  | cons b l ih => rw [List.foldl_cons, ih, h]

@[simp] theorem touch_mem (s : State) (vf slot pa : Nat) : (touch s vf slot pa).mem = s.mem := by
  unfold touch; split <;> simp

@[simp] theorem translate_mem (s : State) (core vf va : Nat) : (translate s core vf va).1.mem = s.mem := by
  unfold translate
  split
  · rfl
  · split
    · rfl
    · dsimp only
      split
      · simp
      · split <;> simp

@[simp] theorem touchVa_mem (s : State) (T : Team) (va : Nat) : (touchVa s T va).mem = s.mem := by
  have h := translate_mem s T.core T.vf va
  unfold touchVa
  split <;> simp_all

theorem touchConst_mem (s : State) (i : Iss) (c : Ctl) (p : FmtM) : (touchConst s i c p).mem = s.mem := by
  unfold touchConst
  split
  · rfl
  · exact foldl_mem _ (fun s x => by dsimp only; split <;> simp) _ _

/-- What an instruction reads as it issues changes no byte. -/
@[simp] theorem touchIssue_mem (s : State) (i : Iss) (o : Op) (c : Ctl) (pl : Payload) :
    (touchIssue s i o c pl).mem = s.mem := by
  have h := fun (l : List Nat) => foldl_mem (fun s k => touchEntry s i.T k) (fun s _ => touchVa_mem s i.T _) l s
  unfold touchIssue
  dsimp only
  split
  · rfl
  · split
    · rw [touchConst_mem]; exact h _
    · exact h _

@[simp] theorem takePath_mem (s : State) (core u : Nat) (p : Option (Nat × Nat)) : (takePath s core u p).mem = s.mem := by
  unfold takePath; split <;> simp

@[simp] theorem takeSlot_mem (s : State) (core t u n : Nat) (y : Bool) : (takeSlot s core t u n y).mem = s.mem := by
  unfold takeSlot; simp

@[simp] theorem issueSlot_mem (s : State) (i : Iss) (o : Op) (c : Ctl) (pl : Payload) : (issueSlot s i o c pl).mem = s.mem := by
  unfold issueSlot
  dsimp only
  split <;> simp

@[simp] theorem passWord_mem (s : State) (i : Iss) (o : Op) (c : Ctl) (pl : Payload) (fl : Flags) :
    (passWord s i o c pl fl).mem = s.mem := by
  unfold passWord; simp

@[simp] theorem advance_mem (s : State) (i : Iss) (o : Op) (c : Ctl) (pl : Payload) (fl : Flags) :
    (advance s i o c pl fl).mem = s.mem := by
  unfold advance; simp

@[simp] theorem complete_mem (s : State) (i : Iss) (o : Op) (c : Ctl) (pl : Payload) (ls : List Lane) (n : Nat) (fl : Flags) :
    (complete s i o c pl ls n fl).mem = s.mem := by
  unfold complete; simp

@[simp] theorem completeNone_mem (s : State) (i : Iss) (o : Op) (c : Ctl) (pl : Payload) :
    (completeNone s i o c pl).mem = s.mem := by
  unfold completeNone; simp

@[simp] theorem finish_mem (s : State) (i : Iss) (o : Op) (c : Ctl) (pl : Payload) (ls : List Lane) (n : Nat) (fl : Flags) :
    (finish s i o c pl ls n fl).mem = s.mem := by
  unfold finish; simp

@[simp] theorem finishNone_mem (s : State) (i : Iss) (o : Op) (c : Ctl) (pl : Payload) :
    (finishNone s i o c pl).mem = s.mem := by
  unfold finishNone; simp

@[simp] theorem setWaitKind_mem (s : State) (i : Iss) (k : WaitKind) : (setWaitKind s i k).mem = s.mem := by
  unfold setWaitKind; simp

@[simp] theorem lateOperand_mem (s : State) (i : Iss) : (lateOperand s i).mem = s.mem := by
  unfold lateOperand; split <;> simp

@[simp] theorem dropLoads_mem (s : State) (t u : Nat) : (dropLoads s t u).mem = s.mem := by
  unfold dropLoads; simp

@[simp] theorem abortBlock_mem (s : State) (t u : Nat) : (abortBlock s t u).mem = s.mem := by
  unfold abortBlock
  dsimp only
  split <;> simp

@[simp] theorem terminateTeam_mem (s : State) (t st r : Nat) : (terminateTeam s t st r).mem = s.mem := by
  unfold terminateTeam
  split
  · rfl
  · split
    · rfl
    · dsimp only
      rw [foldl_mem, updTeam_mem]
      intro s x
      split
      · simp
      · split <;> simp

@[simp] theorem terminateLaunch_mem (s : State) (vf seq st r : Nat) : (terminateLaunch s vf seq st r).mem = s.mem := by
  unfold terminateLaunch
  dsimp only
  rw [foldl_mem, updTenant_mem]
  intro s x
  split <;> simp

/-! ## Writes at their home -/

theorem foldl_cond_wf {β : Type} (p : β → Bool) (f : β → Nat) (g : β → Byte) (l : List β) (m : List (Nat × Byte))
    (h : Memory.wf m = true) :
    Memory.wf (l.foldl (fun m x => if p x then m else memSetByte m (f x) (g x)) m) = true := by
  induction l generalizing m with
  | nil => exact h
  | cons b l ih =>
    rw [List.foldl_cons]
    split
    · exact ih m h
    · exact ih _ (memSetByte_wf _ _ _ h)

theorem foldl_cond_other {β : Type} (p : β → Bool) (f : β → Nat) (g : β → Byte) (l : List β) (m : List (Nat × Byte))
    (a : Nat) (h : ∀ b ∈ l, f b ≠ a) :
    memByte (l.foldl (fun m x => if p x then m else memSetByte m (f x) (g x)) m) a = memByte m a := by
  induction l generalizing m with
  | nil => rfl
  | cons b l ih =>
    rw [List.foldl_cons, ih _ (fun c hc => h c (List.mem_cons_of_mem _ hc))]
    split
    · rfl
    · exact memByte_memSetByte_other _ _ _ _ (h b List.mem_cons_self).symm

/-- The memory after a write at its home. -/
theorem homeWrite_mem (s : State) (pa : Nat) (bytes : List Byte) :
    (homeWrite s pa bytes).mem = bytes.zipIdx.foldl (fun m b =>
      if granuleDrops s pa bytes.length ((pa + b.2) / 32) then m else memSetByte m (pa + b.2) b.1) s.mem := by
  unfold homeWrite homeBytes
  dsimp only
  split
  · rename_i h
    obtain rfl := List.length_eq_zero_iff.mp h
    rfl
  · rfl

/-- A write at its home keeps the canonical form of memory. -/
theorem homeWrite_wf (s : State) (pa : Nat) (bytes : List Byte) (h : Memory.wf s.mem = true) :
    Memory.wf (homeWrite s pa bytes).mem = true := by
  rw [homeWrite_mem]
  exact foldl_cond_wf (fun b : Byte × Nat => granuleDrops s pa bytes.length ((pa + b.2) / 32)) (fun b => pa + b.2) (fun b => b.1) _ _ h

/-- A write at its home changes no byte outside its range. -/
theorem homeWrite_outside (s : State) (pa : Nat) (bytes : List Byte) (a : Nat) (h : a < pa ∨ pa + bytes.length ≤ a) :
    memByte (homeWrite s pa bytes).mem a = memByte s.mem a := by
  rw [homeWrite_mem]
  refine foldl_cond_other (fun b : Byte × Nat => granuleDrops s pa bytes.length ((pa + b.2) / 32)) (fun b => pa + b.2) (fun b => b.1) _ _ _ ?_
  intro b hb
  have := (List.mem_zipIdx hb).2.1
  omega

/-! ## Traps -/

theorem foldl_wf {β : Type} (f : State → β → State)
    (h : ∀ s b, Memory.wf s.mem = true → Memory.wf (f s b).mem = true) (l : List β) (s : State)
    (hs : Memory.wf s.mem = true) : Memory.wf (l.foldl f s).mem = true := by
  induction l generalizing s with
  | nil => exact hs
  | cons b l ih => exact ih _ (h s b hs)

/-- Everything a fault record can do (R339): nothing, set OVF, or land in its ring slot, to be counted by FRHEAD later. -/
theorem faultRecord_cases (s : State) (fn : Nat) (r : FaultRec) (P : State → Prop) (h1 : P s)
    (h2 : ∀ f, P (updTenant s fn f))
    (h3 : ∀ a bs f, P (updTenant (if paKind s a == .hole then s else homeWrite s (cellOf a) bs) fn f)) : P (faultRecord s fn r) := by
  unfold faultRecord
  dsimp only
  split
  · exact h1
  · split
    · exact h2 _
    · exact h3 _ _ _

theorem faultRecord_wf (s : State) (fn : Nat) (r : FaultRec) (h : Memory.wf s.mem = true) :
    Memory.wf (faultRecord s fn r).mem = true := by
  refine faultRecord_cases s fn r (fun s => Memory.wf s.mem = true) h (fun f => ?_) (fun a bs f => ?_)
  · rw [updTenant_mem]; exact h
  · rw [updTenant_mem]
    split
    · exact h
    · exact homeWrite_wf _ _ _ h

theorem accessWrite_wf (s : State) (vf va pa : Nat) (bytes : List Byte) (h : Memory.wf s.mem = true) :
    Memory.wf (accessWrite s vf va pa bytes).mem = true :=
  foldl_wf _ (fun s _ hs => homeWrite_wf s _ _ hs) _ _ h

theorem homeStore_wf (s : State) (vf va n v : Nat) (h : Memory.wf s.mem = true) :
    Memory.wf (homeStore s vf va n v).mem = true := by
  unfold homeStore
  split
  · dsimp only
    split
    · exact accessWrite_wf _ _ _ _ _ (faultRecord_wf _ _ _ h)
    · exact accessWrite_wf _ _ _ _ _ h
  · exact h

theorem terminateDomain_wf (s : State) (T : Team) (r : Nat) (h : Memory.wf s.mem = true) :
    Memory.wf (terminateDomain s T r).mem = true := by
  unfold terminateDomain
  extract_lets d rs s1 s2
  split
  · rw [terminateLaunch_mem]; exact h
  · rw [foldl_mem _ (fun s l => terminateLaunch_mem s _ _ _ _)]
    show Memory.wf (terminateLaunch s1 _ _ _ _).mem = true
    rw [terminateLaunch_mem]
    refine foldl_wf _ (fun s b hs => ?_) _ _ h
    split
    · exact homeStore_wf _ _ _ _ _ hs
    · exact hs

theorem escalate_wf (s : State) (t : Nat) (code : TrapCode) (blk info : Nat) (h : Memory.wf s.mem = true) :
    Memory.wf (escalate s t code blk info).mem = true := by
  unfold escalate
  split
  · exact h
  · exact faultRecord_wf _ _ _ (terminateDomain_wf _ _ _ h)

theorem pendTrapAs_wf (esc : Bool) (s : State) (t u frag : Nat) (tr : PendTrap) (h : Memory.wf s.mem = true) :
    Memory.wf (pendTrapAs esc s t u frag tr).mem = true := by
  unfold pendTrapAs
  split
  · exact h
  · dsimp only
    split
    · exact escalate_wf _ _ _ _ _ h
    · simpa using h

theorem pendTrap_wf (s : State) (t u frag : Nat) (tr : PendTrap) (h : Memory.wf s.mem = true) :
    Memory.wf (pendTrap s t u frag tr).mem = true := pendTrapAs_wf _ _ _ _ _ _ h

theorem takeTrap_wf (s : State) (t u frag : Nat) (tr : PendTrap) (h : Memory.wf s.mem = true) :
    Memory.wf (takeTrap s t u frag tr).mem = true := by
  unfold takeTrap
  dsimp only
  repeat' split
  all_goals first
    | exact h
    | exact escalate_wf _ _ _ _ _ (by simpa using h)
    | simpa using h

theorem abortTrap_wf (s : State) (t u : Nat) (tr : PendTrap) (h : Memory.wf s.mem = true) :
    Memory.wf (abortTrap s t u tr).mem = true := by
  unfold abortTrap
  repeat' split
  all_goals first | exact h | exact pendTrap_wf _ _ _ _ _ (by simpa using h)

theorem raise_wf (s : State) (t u idx lane : Nat) (tr : PendTrap) (h : Memory.wf s.mem = true) :
    Memory.wf (raise s t u idx lane tr).mem = true := by
  unfold raise
  dsimp only
  repeat' split
  all_goals first | exact h | simpa using h | exact abortTrap_wf _ _ _ _ h

theorem tokRaise_wf (s : State) (t u idx b : Nat) (m : Bool) (h : Memory.wf s.mem = true) :
    Memory.wf (tokRaise s t u idx b m).mem = true := by
  unfold tokRaise
  dsimp only
  repeat' split
  all_goals first
    | exact h
    | exact raise_wf _ _ _ _ _ _ (by simpa using h)

theorem held_wf (s s' : State) (i : Iss) (o : Op) (c : Ctl) (pl : Payload) (h : Memory.wf s.mem = true)
    (hg : held s i o c pl = some s') : Memory.wf s'.mem = true := by
  unfold held at hg
  repeat' split at hg
  all_goals first
    | (cases hg; first | exact h | simpa using h | exact tokRaise_wf _ _ _ _ _ _ h)
    | cases hg

theorem gate_wf (s s' : State) (i : Iss) (o : Op) (c : Ctl) (pl : Payload) (h : Memory.wf s.mem = true)
    (hg : gate s i o c pl = some s') : Memory.wf s'.mem = true := by
  unfold gate at hg
  split at hg
  · rename_i heq
    cases hg
    exact held_wf _ _ _ _ _ _ h heq
  · split at hg <;> cases hg
    exact h

end Sys2Proof.Machine
end

