-- ==== Sys2Proof/Laws/PerInstr.lean ====
section
/-! SUPPORT. One family of lemmas over the constructors of Instr: the opcode bits of an instruction's word name its
mnemonic (R28, R55), and a step of the machine's own has no word. -/

namespace Sys2Proof.Laws.Opcode

open Sys2Proof.Machine

/-- The major and the minor of the word that `encode` gives name the mnemonic of the instruction's view. -/
def Statement (i : Instr) : Prop :=
  ∀ w, encode i = some w → opOf (w.extractLsb' 120 8).toNat (w.extractLsb' 112 8).toNat = i.view.map (fun x => x.1)

theorem of_view (i : Instr) : Statement i := by
  rcases hv : i.view with _ | ⟨o, c, p⟩ <;> intro w h <;> simp only [encode, hv, reduceCtorEq, Option.some.injEq] at h
  subst h
  have hc := opInfo_codes o
  simp only [encodeWord_major, encodeWord_minor, hv, Option.map_some]
  rw [ofNat_toNat_lt hc.1, ofNat_toNat_lt hc.2, opOf_opInfo]

theorem nul a : Statement (.nul a) := of_view _
theorem succ a : Statement (.succ a) := of_view _
theorem brc a : Statement (.brc a) := of_view _
theorem jmps a : Statement (.jmps a) := of_view _
theorem call a b : Statement (.call a b) := of_view _
theorem calli a b : Statement (.calli a b) := of_view _
theorem ret a : Statement (.ret a) := of_view _
theorem exit a : Statement (.exit a) := of_view _
theorem voteAny a : Statement (.voteAny a) := of_view _
theorem voteAll a : Statement (.voteAll a) := of_view _
theorem voteBallot a : Statement (.voteBallot a) := of_view _
theorem voteCount a : Statement (.voteCount a) := of_view _
theorem maskrd a : Statement (.maskrd a) := of_view _
theorem mov a : Statement (.mov a) := of_view _
theorem add a b : Statement (.add a b) := of_view _
theorem sub a b : Statement (.sub a b) := of_view _
theorem mul a b : Statement (.mul a b) := of_view _
theorem mulhi a b : Statement (.mulhi a b) := of_view _
theorem mad a b : Statement (.mad a b) := of_view _
theorem add64 a b : Statement (.add64 a b) := of_view _
theorem sub64 a b : Statement (.sub64 a b) := of_view _
theorem mad64 a b : Statement (.mad64 a b) := of_view _
theorem idiv a b : Statement (.idiv a b) := of_view _
theorem irem a b : Statement (.irem a b) := of_view _
theorem min_ a b : Statement (.min_ a b) := of_view _
theorem max_ a b : Statement (.max_ a b) := of_view _
theorem abs_ a b : Statement (.abs_ a b) := of_view _
theorem neg_ a b : Statement (.neg_ a b) := of_view _
theorem and_ a b : Statement (.and_ a b) := of_view _
theorem or_ a b : Statement (.or_ a b) := of_view _
theorem xor_ a b : Statement (.xor_ a b) := of_view _
theorem andn a b : Statement (.andn a b) := of_view _
theorem not_ a b : Statement (.not_ a b) := of_view _
theorem shl a b : Statement (.shl a b) := of_view _
theorem shr a b : Statement (.shr a b) := of_view _
theorem sar a b : Statement (.sar a b) := of_view _
theorem rol a b : Statement (.rol a b) := of_view _
theorem popc a b : Statement (.popc a b) := of_view _
theorem clz a b : Statement (.clz a b) := of_view _
theorem ctz a b : Statement (.ctz a b) := of_view _
theorem brev a b : Statement (.brev a b) := of_view _
theorem bfx a b : Statement (.bfx a b) := of_view _
theorem bfi a b : Statement (.bfi a b) := of_view _
theorem prmt a b : Statement (.prmt a b) := of_view _
theorem cmpEq a b : Statement (.cmpEq a b) := of_view _
theorem cmpNe a b : Statement (.cmpNe a b) := of_view _
theorem cmpLt a b : Statement (.cmpLt a b) := of_view _
theorem cmpLe a b : Statement (.cmpLe a b) := of_view _
theorem cmpGt a b : Statement (.cmpGt a b) := of_view _
theorem cmpGe a b : Statement (.cmpGe a b) := of_view _
theorem sel a b : Statement (.sel a b) := of_view _
theorem movi a b : Statement (.movi a b) := of_view _
theorem addhi a b : Statement (.addhi a b) := of_view _
theorem lea a b : Statement (.lea a b) := of_view _
theorem sext a b : Statement (.sext a b) := of_view _
theorem zext a b : Statement (.zext a b) := of_view _
theorem dp4 a b : Statement (.dp4 a b) := of_view _
theorem shflIdx a b : Statement (.shflIdx a b) := of_view _
theorem shflRot a b : Statement (.shflRot a b) := of_view _
theorem shflXor a b : Statement (.shflXor a b) := of_view _
theorem shflRev a b : Statement (.shflRev a b) := of_view _
theorem reduxAdd a b : Statement (.reduxAdd a b) := of_view _
theorem reduxMin a b : Statement (.reduxMin a b) := of_view _
theorem reduxMax a b : Statement (.reduxMax a b) := of_view _
theorem reduxAnd a b : Statement (.reduxAnd a b) := of_view _
theorem reduxOr a b : Statement (.reduxOr a b) := of_view _
theorem reduxXor a b : Statement (.reduxXor a b) := of_view _
theorem fadd a b : Statement (.fadd a b) := of_view _
theorem fsub a b : Statement (.fsub a b) := of_view _
theorem fmul a b : Statement (.fmul a b) := of_view _
theorem ffma a b : Statement (.ffma a b) := of_view _
theorem fmin a b : Statement (.fmin a b) := of_view _
theorem fmax a b : Statement (.fmax a b) := of_view _
theorem fsgnCp a b : Statement (.fsgnCp a b) := of_view _
theorem fsgnNeg a b : Statement (.fsgnNeg a b) := of_view _
theorem fsgnXor a b : Statement (.fsgnXor a b) := of_view _
theorem fcmpEq a b : Statement (.fcmpEq a b) := of_view _
theorem fcmpNe a b : Statement (.fcmpNe a b) := of_view _
theorem fcmpLt a b : Statement (.fcmpLt a b) := of_view _
theorem fcmpLe a b : Statement (.fcmpLe a b) := of_view _
theorem fcmpGt a b : Statement (.fcmpGt a b) := of_view _
theorem fcmpGe a b : Statement (.fcmpGe a b) := of_view _
theorem fcmpUn a b : Statement (.fcmpUn a b) := of_view _
theorem fclass a b : Statement (.fclass a b) := of_view _
theorem fscale a b : Statement (.fscale a b) := of_view _
theorem frnd a b : Statement (.frnd a b) := of_view _
theorem frcp a b : Statement (.frcp a b) := of_view _
theorem frsq a b : Statement (.frsq a b) := of_view _
theorem fsqrt a b : Statement (.fsqrt a b) := of_view _
theorem fexp2 a b : Statement (.fexp2 a b) := of_view _
theorem flog2 a b : Statement (.flog2 a b) := of_view _
theorem fsincos a b : Statement (.fsincos a b) := of_view _
theorem ftanh a b : Statement (.ftanh a b) := of_view _
theorem hfma2 a b : Statement (.hfma2 a b) := of_view _
theorem bfma2 a b : Statement (.bfma2 a b) := of_view _
theorem dadd a b : Statement (.dadd a b) := of_view _
theorem dmul a b : Statement (.dmul a b) := of_view _
theorem dfma a b : Statement (.dfma a b) := of_view _
theorem fcvt a b : Statement (.fcvt a b) := of_view _
theorem ftoi a b : Statement (.ftoi a b) := of_view _
theorem itof a b : Statement (.itof a b) := of_view _
theorem pack a b : Statement (.pack a b) := of_view _
theorem unpk a b : Statement (.unpk a b) := of_view _
theorem lgmul a b : Statement (.lgmul a b) := of_view _
theorem lgcvt a b : Statement (.lgcvt a b) := of_view _
theorem lgexp a b : Statement (.lgexp a b) := of_view _
theorem lgdot a b : Statement (.lgdot a b) := of_view _
theorem fflagsRd a : Statement (.fflagsRd a) := of_view _
theorem fflagsClr a : Statement (.fflagsClr a) := of_view _
theorem ld a b : Statement (.ld a b) := of_view _
theorem st a b : Statement (.st a b) := of_view _
theorem lds a b : Statement (.lds a b) := of_view _
theorem sts a b : Statement (.sts a b) := of_view _
theorem ldc a b : Statement (.ldc a b) := of_view _
theorem atomAdd a b : Statement (.atomAdd a b) := of_view _
theorem atomMin a b : Statement (.atomMin a b) := of_view _
theorem atomMax a b : Statement (.atomMax a b) := of_view _
theorem atomAnd a b : Statement (.atomAnd a b) := of_view _
theorem atomOr a b : Statement (.atomOr a b) := of_view _
theorem atomXor a b : Statement (.atomXor a b) := of_view _
theorem atomExch a b : Statement (.atomExch a b) := of_view _
theorem atomcas a b : Statement (.atomcas a b) := of_view _
theorem atomvOr a b : Statement (.atomvOr a b) := of_view _
theorem atomvAnd a b : Statement (.atomvAnd a b) := of_view _
theorem atomvAdd a b : Statement (.atomvAdd a b) := of_view _
theorem atomvMax a b : Statement (.atomvMax a b) := of_view _
theorem satomAdd a b : Statement (.satomAdd a b) := of_view _
theorem satomMin a b : Statement (.satomMin a b) := of_view _
theorem satomMax a b : Statement (.satomMax a b) := of_view _
theorem satomAnd a b : Statement (.satomAnd a b) := of_view _
theorem satomOr a b : Statement (.satomOr a b) := of_view _
theorem satomXor a b : Statement (.satomXor a b) := of_view _
theorem satomExch a b : Statement (.satomExch a b) := of_view _
theorem fenceAcq a b : Statement (.fenceAcq a b) := of_view _
theorem fenceRel a b : Statement (.fenceRel a b) := of_view _
theorem fenceAr a b : Statement (.fenceAr a b) := of_view _
theorem pfetch a b : Statement (.pfetch a b) := of_view _
theorem cinv a b : Statement (.cinv a b) := of_view _
theorem claim a b : Statement (.claim a b) := of_view _
theorem claimRel a b : Statement (.claimRel a b) := of_view _
theorem cpytLd a b : Statement (.cpytLd a b) := of_view _
theorem cpytSt a b : Statement (.cpytSt a b) := of_view _
theorem cpybLd a b : Statement (.cpybLd a b) := of_view _
theorem cpybSt a b : Statement (.cpybSt a b) := of_view _
theorem cpyg a b : Statement (.cpyg a b) := of_view _
theorem cpys a b : Statement (.cpys a b) := of_view _
theorem cpyaccIn a b : Statement (.cpyaccIn a b) := of_view _
theorem cpyaccOut a b : Statement (.cpyaccOut a b) := of_view _
theorem publ a b : Statement (.publ a b) := of_view _
theorem cpyrGet a b : Statement (.cpyrGet a b) := of_view _
theorem cpyrPut a b : Statement (.cpyrPut a b) := of_view _
theorem cred a b : Statement (.cred a b) := of_view _
theorem tokq a b : Statement (.tokq a b) := of_view _
theorem cpycan a b : Statement (.cpycan a b) := of_view _
theorem chb a b : Statement (.chb a b) := of_view _
theorem che a b : Statement (.che a b) := of_view _
theorem mma a b : Statement (.mma a b) := of_view _
theorem wbld a b : Statement (.wbld a b) := of_view _
theorem wbldT a b : Statement (.wbldT a b) := of_view _
theorem accz a b : Statement (.accz a b) := of_view _
theorem accrd a b : Statement (.accrd a b) := of_view _
theorem accwr a b : Statement (.accwr a b) := of_view _
theorem drain a b : Statement (.drain a b) := of_view _
theorem accwrd a b : Statement (.accwrd a b) := of_view _
theorem accwwr a b : Statement (.accwwr a b) := of_view _
theorem gcfg a b : Statement (.gcfg a b) := of_view _
theorem grun a b : Statement (.grun a b) := of_view _
theorem gstop a b : Statement (.gstop a b) := of_view _
theorem gwait a b : Statement (.gwait a b) := of_view _
theorem gqry a b : Statement (.gqry a b) := of_view _
theorem gframe a b : Statement (.gframe a b) := of_view _
theorem lctx a b : Statement (.lctx a b) := of_view _
theorem strmo a b : Statement (.strmo a b) := of_view _
theorem strma a b : Statement (.strma a b) := of_view _
theorem strmb a b : Statement (.strmb a b) := of_view _
theorem strmc a b : Statement (.strmc a b) := of_view _
theorem strmq a b : Statement (.strmq a b) := of_view _
theorem bar a b : Statement (.bar a b) := of_view _
theorem bara a b : Statement (.bara a b) := of_view _
theorem barw a b : Statement (.barw a b) := of_view _
theorem barx a b : Statement (.barx a b) := of_view _
theorem stgfill a b : Statement (.stgfill a b) := of_view _
theorem stgwait a b : Statement (.stgwait a b) := of_view _
theorem stgfree a b : Statement (.stgfree a b) := of_view _
theorem sleept a b : Statement (.sleept a b) := of_view _
theorem tokw a b : Statement (.tokw a b) := of_view _
theorem tokwF a b : Statement (.tokwF a b) := of_view _
theorem waitx a b : Statement (.waitx a b) := of_view _
theorem realign a b : Statement (.realign a b) := of_view _
theorem trap a b : Statement (.trap a b) := of_view _
theorem tret a : Statement (.tret a) := of_view _
theorem srd a b : Statement (.srd a b) := of_view _
theorem swr a b : Statement (.swr a b) := of_view _
theorem yield a : Statement (.yield a) := of_view _
theorem nopb a : Statement (.nopb a) := of_view _
theorem bkpt a b : Statement (.bkpt a b) := of_view _
theorem perfrd a b : Statement (.perfrd a b) := of_view _
theorem spawn a b : Statement (.spawn a b) := of_view _
theorem blockEntry a b : Statement (.blockEntry a b) := of_view _
theorem codePageHashCheck a b : Statement (.codePageHashCheck a b) := of_view _
theorem headerPrefetchIssue a b : Statement (.headerPrefetchIssue a b) := of_view _
theorem blockCommit a b : Statement (.blockCommit a b) := of_view _
theorem groupFusion a b c : Statement (.groupFusion a b c) := of_view _
theorem trapDelivery a b : Statement (.trapDelivery a b) := of_view _
theorem storeDieForward a : Statement (.storeDieForward a) := of_view _
theorem homeApplyWrite a : Statement (.homeApplyWrite a) := of_view _
theorem loadAtHome a b : Statement (.loadAtHome a b) := of_view _
theorem atomicAtHome a : Statement (.atomicAtHome a) := of_view _
theorem atomicResponse a : Statement (.atomicResponse a) := of_view _
theorem atomicResponseLost a : Statement (.atomicResponseLost a) := of_view _
theorem leaseExpiry a b : Statement (.leaseExpiry a b) := of_view _
theorem hostPostedWrite a b c : Statement (.hostPostedWrite a b c) := of_view _
theorem hostWriteAck a : Statement (.hostWriteAck a) := of_view _
theorem claimComplete a : Statement (.claimComplete a) := of_view _
theorem cinvComplete a b : Statement (.cinvComplete a b) := of_view _
theorem tlbInvalidation a b : Statement (.tlbInvalidation a b) := of_view _
theorem copyComplete a b : Statement (.copyComplete a b) := of_view _
theorem missedPromise a b c : Statement (.missedPromise a b c) := of_view _
theorem publish a : Statement (.publish a) := of_view _
theorem copySlowPath a b : Statement (.copySlowPath a b) := of_view _
theorem slowPathEnd a b : Statement (.slowPathEnd a b) := of_view _
theorem credInstanceComplete a b c d e : Statement (.credInstanceComplete a b c d e) := of_view _
theorem matrixStart a b : Statement (.matrixStart a b) := of_view _
theorem matrixComplete a b : Statement (.matrixComplete a b) := of_view _
theorem rampWindow a : Statement (.rampWindow a) := of_view _
theorem rampReset a : Statement (.rampReset a) := of_view _
theorem gridCycle a : Statement (.gridCycle a) := of_view _
theorem streamReplyLand a b : Statement (.streamReplyLand a b) := of_view _
theorem strmbGroupIssue a b : Statement (.strmbGroupIssue a b) := of_view _
theorem imageStaging a : Statement (.imageStaging a) := of_view _
theorem configActivation a : Statement (.configActivation a) := of_view _
theorem streamCommandComplete a b : Statement (.streamCommandComplete a b) := of_view _
theorem watchdog a : Statement (.watchdog a) := of_view _
theorem stageFlip a b : Statement (.stageFlip a b) := of_view _
theorem waitEnd a b : Statement (.waitEnd a b) := of_view _
theorem externalTimeout a b : Statement (.externalTimeout a b) := of_view _
theorem waitxReread a b : Statement (.waitxReread a b) := of_view _
theorem linkReroute a b c d : Statement (.linkReroute a b c d) := of_view _
theorem wake a b : Statement (.wake a b) := of_view _
theorem pfWake a : Statement (.pfWake a) := of_view _
theorem regionScan a b : Statement (.regionScan a b) := of_view _
theorem conditionalEvaluation a b : Statement (.conditionalEvaluation a b) := of_view _
theorem teamPlacement a : Statement (.teamPlacement a) := of_view _
theorem teamRetire a : Statement (.teamRetire a) := of_view _
theorem launchRetire a b : Statement (.launchRetire a b) := of_view _
theorem budgetCharge a : Statement (.budgetCharge a) := of_view _
theorem sliceEnd a : Statement (.sliceEnd a) := of_view _
theorem promotionStart a : Statement (.promotionStart a) := of_view _
theorem saddlebagPageMove a b c : Statement (.saddlebagPageMove a b c) := of_view _
theorem sliceBegin a : Statement (.sliceBegin a) := of_view _
theorem burnisherRun a : Statement (.burnisherRun a) := of_view _
theorem layoutStage a : Statement (.layoutStage a) := of_view _
theorem layoutTick : Statement .layoutTick := of_view _
theorem coreRetirement a b : Statement (.coreRetirement a b) := of_view _
theorem preemptRequest a b : Statement (.preemptRequest a b) := of_view _
theorem contextSave a b : Statement (.contextSave a b) := of_view _
theorem forcedSave a b : Statement (.forcedSave a b) := of_view _
theorem contextRestore a b : Statement (.contextRestore a b) := of_view _
theorem functionLevelReset a : Statement (.functionLevelReset a) := of_view _
theorem vfDisableAll : Statement .vfDisableAll := of_view _
theorem registerWrite a b c : Statement (.registerWrite a b c) := of_view _
theorem frstatClear a b : Statement (.frstatClear a b) := of_view _
theorem mbstClear a : Statement (.mbstClear a) := of_view _
theorem loadObject : Statement .loadObject := of_view _
theorem readIdkey : Statement .readIdkey := of_view _
theorem installKey : Statement .installKey := of_view _
theorem removeKey : Statement .removeKey := of_view _
theorem fwUpdate : Statement .fwUpdate := of_view _
theorem mailboxUnknownCommand a : Statement (.mailboxUnknownCommand a) := of_view _
theorem mailboxReply : Statement .mailboxReply := of_view _
theorem getDeviceInterfaceState a : Statement (.getDeviceInterfaceState a) := of_view _
theorem lockInterface a b : Statement (.lockInterface a b) := of_view _
theorem getDeviceInterfaceReport a : Statement (.getDeviceInterfaceReport a) := of_view _
theorem startInterface a : Statement (.startInterface a) := of_view _
theorem stopInterface a : Statement (.stopInterface a) := of_view _
theorem lockedItemWrite a b : Statement (.lockedItemWrite a b) := of_view _
theorem ideIntegrityFailure a : Statement (.ideIntegrityFailure a) := of_view _
theorem portRetrain a b : Statement (.portRetrain a b) := of_view _
theorem deviceStart a : Statement (.deviceStart a) := of_view _
theorem startRetry : Statement .startRetry := of_view _
theorem currentClamp : Statement .currentClamp := of_view _
theorem currentClampRelease : Statement .currentClampRelease := of_view _
theorem thermalThrottle a : Statement (.thermalThrottle a) := of_view _
theorem thermalTrip : Statement .thermalTrip := of_view _
theorem copyBytesLand a b c : Statement (.copyBytesLand a b c) := of_view _
theorem scratchpadAtomicExecute a b : Statement (.scratchpadAtomicExecute a b) := of_view _
theorem credWithdrawn a b : Statement (.credWithdrawn a b) := of_view _
theorem poisonMarkSet a : Statement (.poisonMarkSet a) := of_view _
theorem hostPortDown a b : Statement (.hostPortDown a b) := of_view _
theorem hostCxlMemAccess a b c : Statement (.hostCxlMemAccess a b c) := of_view _

end Sys2Proof.Laws.Opcode
end

