-- ==== Sys2Proof/Laws/RoundTrip.lean ====
section
/-! SUPPORT. What the decoder's parts read from the word of a mnemonic, its common fields and its payload. -/

namespace Sys2Proof

open Machine

/-- A field of an encoded word's upper half is that field of its common bits. -/
theorem extract_upper (o : Op) (c : Ctl) (p : Payload) {k m : Nat} (hk : k + m ≤ 48) :
    (encodeWord o c p).extractLsb' (64 + k) m = (ctlBits c).extractLsb' k m := by
  rw [← encodeWord_ctl o c p, extract_extract _ _ _ _ _ hk]

theorem ctlOf_encodeWord (o : Op) (c : Ctl) (p : Payload) : ctlOf (encodeWord o c p) = c := by
  have hy : (encodeWord o c p).getLsbD 64 = c.yld := by
    have := (extract_upper o c p (k := 0) (m := 1) (by omega)).trans (ctlBits_yld c)
    simpa using congrArg (fun x => x.getLsbD 0) this
  unfold ctlOf
  rw [show (103:Nat) = 64 + 39 from rfl, show (94:Nat) = 64 + 30 from rfl, show (92:Nat) = 64 + 28 from rfl, show (88:Nat) = 64 + 24 from rfl,
   show (83:Nat) = 64 + 19 from rfl, show (79:Nat) = 64 + 15 from rfl, show (75:Nat) = 64 + 11 from rfl, show (67:Nat) = 64 + 3 from rfl, show (65:Nat) = 64 + 1 from rfl]
  simp (disch := omega) only [extract_upper, hy, ctlBits_tgt0, ctlBits_tgt1, ctlBits_pm, ctlBits_ty, ctlBits_lsid, ctlBits_stall,
    ctlBits_sbset, ctlBits_wait, ctlBits_keep, targetOf_targetBits, pmOf_pmCode]
  rw [show tyOfCode (BitVec.ofNat 4 (tyCode c.ty)).toNat = c.ty by cases c.ty <;> rfl]

theorem ctlOk_encodeWord (o : Op) (c : Ctl) (p : Payload) : ctlOk (encodeWord o c p) = true := by
  unfold ctlOk
  rw [show (103:Nat) = 64 + 39 from rfl, show (94:Nat) = 64 + 30 from rfl, show (92:Nat) = 64 + 28 from rfl]
  simp (disch := omega) only [extract_upper, ctlBits_tgt0, ctlBits_tgt1, ctlBits_pm, targetOk_targetBits]
  cases c.pm <;> rfl

theorem getLsbD_of_extract1 {w : Nat} (x : BitVec w) (k : Nat) (b : Bool) (h : x.extractLsb' k 1 = BitVec.ofBool b) : x.getLsbD k = b := by
  have h2 := congrArg (fun x => x.getLsbD 0) h
  simpa using h2

theorem payloadOf_payloadBits (p : Payload) : payloadOf (payloadFmt p) (payloadBits p) = p ∧ payloadOk (payloadFmt p) (payloadBits p) = true ∧ badWidth (payloadFmt p) (payloadBits p) = false := by
  cases p with
  | n => exact ⟨rfl, rfl, rfl⟩
  | a p =>
    refine ⟨?_, ?_, rfl⟩
    · simp only [payloadFmt, payloadOf, payloadBits_a_aux, payloadBits_a_imm32, payloadBits_a_fs, payloadBits_a_rm, rmOf_rmCode, getLsbD_of_extract1 _ _ _ (payloadBits_a_u p), getLsbD_of_extract1 _ _ _ (payloadBits_a_imm p)]
    · simp only [payloadFmt, payloadOk, payloadBits_a_zero]
      have : (payloadBits (.a p)).extractLsb' 61 2 = (rmCode p.rm).extractLsb' 1 2 := by
        rw [← payloadBits_a_rm, extract_extract _ _ _ _ _ (by omega)]
      rw [this]; cases p.rm <;> rfl
  | i p => exact ⟨rfl, rfl, rfl⟩
  | h p =>
    refine ⟨?_, ?_, rfl⟩
    · simp only [payloadFmt, payloadOf, payloadBits_h_imm20, getLsbD_of_extract1 _ _ _ (payloadBits_h_u p)]
    · simp only [payloadFmt, payloadOk, payloadBits_h_zero]; rfl
  | m p =>
    refine ⟨?_, ?_, ?_⟩
    · simp only [payloadFmt, payloadOf, payloadBits_m_ofs12, payloadBits_m_ridx, payloadBits_m_width, payloadBits_m_cache, payloadBits_m_scope, scopeOf_scopeBits, cacheOf_cacheCode, widthOf_widthCode]
    · simp only [payloadFmt, payloadOk, payloadBits_m_zeroLow, payloadBits_m_zeroHigh, payloadBits_m_width, payloadBits_m_cache, payloadBits_m_scope]
      cases p.scope <;> cases p.cache <;> cases p.width <;> rfl
    · simp only [payloadFmt, badWidth, payloadBits_m_width]
      cases p.width <;> rfl
  | c p =>
    refine ⟨?_, ?_, rfl⟩
    · simp only [payloadFmt, payloadOf, payloadBits_c_ridx, payloadBits_c_ofs24]
    · simp only [payloadFmt, payloadOk, payloadBits_c_zero]; rfl
  | e p =>
    refine ⟨?_, rfl, rfl⟩
    simp only [payloadFmt, payloadOf, payloadBits_e_ridx, payloadBits_e_fs, payloadBits_e_mode, payloadBits_e_aux8, payloadBits_e_imm32]
  | s p =>
    refine ⟨?_, ?_, rfl⟩
    · simp only [payloadFmt, payloadOf, payloadBits_s_scope, payloadBits_s_id, payloadBits_s_sub, payloadBits_s_imm40, scopeOf_scopeBits]
    · simp only [payloadFmt, payloadOk, payloadBits_s_scope, payloadBits_s_zero]
      cases p.scope <;> rfl

theorem build_view (i : Instr) (o : Op) (c : Ctl) (p : Payload) (h : i.view = some (o, c, p)) : Op.build o c p = some i := by
  cases i <;> first | (cases h; rfl) | cases h

end Sys2Proof
end

