-- ==== Sys2Proof/Safety.lean ====
section
/-! DEFINITION. What counts as a safe run: every step answers a next state. -/

namespace Sys2Proof

open Machine

/-- A step goes on. -/
def stepGoesOn (s : State) : Prop := ∃ t, step s = .next t

/-- A run of `n` steps from a state without a stop. -/
def safeFor : Nat → State → Prop
  | 0, _ => True
  | n + 1, s => ∃ t, step s = .next t ∧ safeFor n t

end Sys2Proof
end

