-- ==== Sys2Proof/Tests/Slice0.lean ====
section
/-! SUPPORT. Small tests: words written out from the specification's encodings, its worked examples, ill-formed
instructions, one step of a word, and a witness for the hypotheses of each statement. -/

namespace Sys2Proof.Tests

set_option Elab.async false

open Sys2Proof Sys2Proof.Machine Sys2Proof.Claims

/-! ## Every word decodes to its instruction

MAJ and MIN stand in bits [127:120] and [119:112] as R55 lists them, TY in [91:88] by R29, STALL 1 in [82:79], WAIT sb1
in [74:67] (R28); the payloads follow R46 to R54 and the entries of chapters 3 to 12. -/

/-- The common fields of the words below: STALL 1, WAIT sb1. -/
def wordCtl : Ctl := ⟨none, none, .none, .s32, 0, 1, 0, 2, 0, false⟩

def decodesAll (l : List (IWord × Instr)) : Bool :=
  l.all (fun x => match decode x.1 with | .ok i => decide (i = x.2) | .error _ => false)

def controlWords : List (IWord × Instr) := [
  (0x00000000000080100000000000000000, .nul wordCtl),
  (0x01000000000080100000000000000000, .succ wordCtl),
  (0x02000000000080100000000000000000, .brc wordCtl),
  (0x03000000000080100000000000000000, .jmps wordCtl),
  (0x04000000000080100000000000FFFFF0, .call wordCtl ⟨0, 0xFFFFF0⟩),
  (0x05000000000080100028000000000000, .calli wordCtl ⟨0x28, 0⟩),
  (0x06000000000080100000000000000000, .ret wordCtl),
  (0x07000000000080100000000000000000, .exit wordCtl),
  (0x08000000010080100000000000000000, .voteAny { wordCtl with ty := .n32 }),
  (0x08010000010080100000000000000000, .voteAll { wordCtl with ty := .n32 }),
  (0x080200000F0080100000000000000000, .voteBallot { wordCtl with ty := .b128 }),
  (0x08030000010080100000000000000000, .voteCount { wordCtl with ty := .n32 }),
  (0x090000000F0080100000000000000000, .maskrd { wordCtl with ty := .b128 }),
  (0x0A000000000080100000000000000000, .mov wordCtl)]

def integerWords1 : List (IWord × Instr) := [
  (0x10000000000080100000000000000000, .add wordCtl ⟨false, .rne, 0, false, 0, 0x0⟩),
  (0x11000000000080100000000000000000, .sub wordCtl ⟨false, .rne, 0, false, 0, 0x0⟩),
  (0x12000000000080100000000000000000, .mul wordCtl ⟨false, .rne, 0, false, 0, 0x0⟩),
  (0x13000000000080100000000000000000, .mulhi wordCtl ⟨false, .rne, 0, false, 0, 0x0⟩),
  (0x14000000000080100000000000000000, .mad wordCtl ⟨false, .rne, 0, false, 0, 0x0⟩),
  (0x15000000000080100000000000000000, .add64 wordCtl ⟨false, .rne, 0, false, 0, 0x0⟩),
  (0x15010000000080100000000000000000, .sub64 wordCtl ⟨false, .rne, 0, false, 0, 0x0⟩),
  (0x16000000000080100000000000000000, .mad64 wordCtl ⟨false, .rne, 0, false, 0, 0x0⟩),
  (0x17000000000080100000000000000000, .idiv wordCtl ⟨false, .rne, 0, false, 0, 0x0⟩),
  (0x17010000000080100000000000000000, .irem wordCtl ⟨false, .rne, 0, false, 0, 0x0⟩),
  (0x18000000000080100000000000000000, .min_ wordCtl ⟨false, .rne, 0, false, 0, 0x0⟩),
  (0x18010000000080100000000000000000, .max_ wordCtl ⟨false, .rne, 0, false, 0, 0x0⟩),
  (0x19000000000080100000000000000000, .abs_ wordCtl ⟨false, .rne, 0, false, 0, 0x0⟩),
  (0x19010000000080100000000000000000, .neg_ wordCtl ⟨false, .rne, 0, false, 0, 0x0⟩),
  (0x1A000000000080100000000000000000, .and_ wordCtl ⟨false, .rne, 0, false, 0, 0x0⟩),
  (0x1A010000000080100000000000000000, .or_ wordCtl ⟨false, .rne, 0, false, 0, 0x0⟩),
  (0x1A020000000080100000000000000000, .xor_ wordCtl ⟨false, .rne, 0, false, 0, 0x0⟩),
  (0x1A030000000080100000000000000000, .andn wordCtl ⟨false, .rne, 0, false, 0, 0x0⟩),
  (0x1A040000000080100000000000000000, .not_ wordCtl ⟨false, .rne, 0, false, 0, 0x0⟩),
  (0x1B000000000080100000000000000000, .shl wordCtl ⟨false, .rne, 0, false, 0, 0x0⟩),
  (0x1B010000000080100000000000000000, .shr wordCtl ⟨false, .rne, 0, false, 0, 0x0⟩),
  (0x1B020000000080100000000000000000, .sar wordCtl ⟨false, .rne, 0, false, 0, 0x0⟩),
  (0x1B030000000080100000000000000000, .rol wordCtl ⟨false, .rne, 0, false, 0, 0x0⟩),
  (0x1C000000000080100000000000000000, .popc wordCtl ⟨false, .rne, 0, false, 0, 0x0⟩),
  (0x1C010000000080100000000000000000, .clz wordCtl ⟨false, .rne, 0, false, 0, 0x0⟩),
  (0x1C020000000080100000000000000000, .ctz wordCtl ⟨false, .rne, 0, false, 0, 0x0⟩),
  (0x1C030000000080100000000000000000, .brev wordCtl ⟨false, .rne, 0, false, 0, 0x0⟩),
  (0x1D000000000080100000000000040800, .bfx wordCtl ⟨false, .rne, 0, false, 0, 0x408⟩),
  (0x1E000000000080100000000000040800, .bfi wordCtl ⟨false, .rne, 0, false, 0, 0x408⟩),
  (0x1F0000000E0080100000000000000000, .prmt { wordCtl with ty := .b32 } ⟨false, .rne, 0, false, 0, 0x0⟩),
  (0x20000000000080100000000000000000, .cmpEq wordCtl ⟨false, .rne, 0, false, 0, 0x0⟩),
  (0x20010000000080100000000000000000, .cmpNe wordCtl ⟨false, .rne, 0, false, 0, 0x0⟩),
  (0x20020000000080100000000000000000, .cmpLt wordCtl ⟨false, .rne, 0, false, 0, 0x0⟩),
  (0x20030000000080100000000000000000, .cmpLe wordCtl ⟨false, .rne, 0, false, 0, 0x0⟩)]

def integerWords2 : List (IWord × Instr) := [
  (0x20040000000080100000000000000000, .cmpGt wordCtl ⟨false, .rne, 0, false, 0, 0x0⟩),
  (0x20050000000080100000000000000000, .cmpGe wordCtl ⟨false, .rne, 0, false, 0, 0x0⟩),
  (0x21000000000080100000000000000000, .sel wordCtl ⟨false, .rne, 0, false, 0, 0x0⟩),
  (0x22000000000080100000000000001234, .movi wordCtl ⟨0x1234⟩),
  (0x23000000000080100000000000012345, .addhi wordCtl ⟨false, 0x12345⟩),
  (0x24000000000080100000000000000000, .lea wordCtl ⟨false, .rne, 0, false, 0, 0x0⟩),
  (0x25000000000080100000000000001000, .sext wordCtl ⟨false, .rne, 0, false, 0, 0x10⟩),
  (0x25010000000080100000000000001000, .zext wordCtl ⟨false, .rne, 0, false, 0, 0x10⟩),
  (0x260000000A0080100000000000000000, .dp4 { wordCtl with ty := .s8 } ⟨false, .rne, 0, false, 0, 0x0⟩),
  (0x27000000000080100000000000000000, .shflIdx wordCtl ⟨false, .rne, 0, false, 0, 0x0⟩),
  (0x27010000000080100000000000000000, .shflRot wordCtl ⟨false, .rne, 0, false, 0, 0x0⟩),
  (0x27020000000080100000000000000000, .shflXor wordCtl ⟨false, .rne, 0, false, 0, 0x0⟩),
  (0x27030000000080100000000000000000, .shflRev wordCtl ⟨false, .rne, 0, false, 0, 0x0⟩),
  (0x28000000000080100000000000000000, .reduxAdd wordCtl ⟨false, .rne, 0, false, 0, 0x0⟩),
  (0x28010000000080100000000000000000, .reduxMin wordCtl ⟨false, .rne, 0, false, 0, 0x0⟩),
  (0x28020000000080100000000000000000, .reduxMax wordCtl ⟨false, .rne, 0, false, 0, 0x0⟩),
  (0x28030000000080100000000000000000, .reduxAnd wordCtl ⟨false, .rne, 0, false, 0, 0x0⟩),
  (0x28040000000080100000000000000000, .reduxOr wordCtl ⟨false, .rne, 0, false, 0, 0x0⟩),
  (0x28050000000080100000000000000000, .reduxXor wordCtl ⟨false, .rne, 0, false, 0, 0x0⟩)]

def floatWords1 : List (IWord × Instr) := [
  (0x30000000040080100000000000000000, .fadd { wordCtl with ty := .f32 } ⟨false, .rne, 0, false, 0, 0x0⟩),
  (0x31000000040080100000000000000000, .fsub { wordCtl with ty := .f32 } ⟨false, .rne, 0, false, 0, 0x0⟩),
  (0x32000000040080100000000000000000, .fmul { wordCtl with ty := .f32 } ⟨false, .rne, 0, false, 0, 0x0⟩),
  (0x33000000040080100000000000000000, .ffma { wordCtl with ty := .f32 } ⟨false, .rne, 0, false, 0, 0x0⟩),
  (0x34000000040080100000000000000000, .fmin { wordCtl with ty := .f32 } ⟨false, .rne, 0, false, 0, 0x0⟩),
  (0x34010000040080100000000000000000, .fmax { wordCtl with ty := .f32 } ⟨false, .rne, 0, false, 0, 0x0⟩),
  (0x35000000040080100000000000000000, .fsgnCp { wordCtl with ty := .f32 } ⟨false, .rne, 0, false, 0, 0x0⟩),
  (0x35010000040080100000000000000000, .fsgnNeg { wordCtl with ty := .f32 } ⟨false, .rne, 0, false, 0, 0x0⟩),
  (0x35020000040080100000000000000000, .fsgnXor { wordCtl with ty := .f32 } ⟨false, .rne, 0, false, 0, 0x0⟩),
  (0x36000000040080100000000000000000, .fcmpEq { wordCtl with ty := .f32 } ⟨false, .rne, 0, false, 0, 0x0⟩),
  (0x36010000040080100000000000000000, .fcmpNe { wordCtl with ty := .f32 } ⟨false, .rne, 0, false, 0, 0x0⟩),
  (0x36020000040080100000000000000000, .fcmpLt { wordCtl with ty := .f32 } ⟨false, .rne, 0, false, 0, 0x0⟩),
  (0x36030000040080100000000000000000, .fcmpLe { wordCtl with ty := .f32 } ⟨false, .rne, 0, false, 0, 0x0⟩),
  (0x36040000040080100000000000000000, .fcmpGt { wordCtl with ty := .f32 } ⟨false, .rne, 0, false, 0, 0x0⟩),
  (0x36050000040080100000000000000000, .fcmpGe { wordCtl with ty := .f32 } ⟨false, .rne, 0, false, 0, 0x0⟩),
  (0x36060000040080100000000000000000, .fcmpUn { wordCtl with ty := .f32 } ⟨false, .rne, 0, false, 0, 0x0⟩),
  (0x37000000040080100000000000000000, .fclass { wordCtl with ty := .f32 } ⟨false, .rne, 0, false, 0, 0x0⟩),
  (0x38000000040080100000000000000000, .fscale { wordCtl with ty := .f32 } ⟨false, .rne, 0, false, 0, 0x0⟩),
  (0x39000000040080100000000000000000, .frnd { wordCtl with ty := .f32 } ⟨false, .rne, 0, false, 0, 0x0⟩),
  (0x3A000000040080100000000000000000, .frcp { wordCtl with ty := .f32 } ⟨false, .rne, 0, false, 0, 0x0⟩),
  (0x3A010000040080100000000000000000, .frsq { wordCtl with ty := .f32 } ⟨false, .rne, 0, false, 0, 0x0⟩),
  (0x3A020000040080100000000000000000, .fsqrt { wordCtl with ty := .f32 } ⟨false, .rne, 0, false, 0, 0x0⟩),
  (0x3B000000040080100000000000000000, .fexp2 { wordCtl with ty := .f32 } ⟨false, .rne, 0, false, 0, 0x0⟩),
  (0x3B010000040080100000000000000000, .flog2 { wordCtl with ty := .f32 } ⟨false, .rne, 0, false, 0, 0x0⟩),
  (0x3C000000040080100000000000000000, .fsincos { wordCtl with ty := .f32 } ⟨false, .rne, 0, false, 0, 0x0⟩),
  (0x3D000000040080100000000000000000, .ftanh { wordCtl with ty := .f32 } ⟨false, .rne, 0, false, 0, 0x0⟩),
  (0x3E0000000C0080100000000000000000, .hfma2 { wordCtl with ty := .f16x2 } ⟨false, .rne, 0, false, 0, 0x0⟩),
  (0x3F0000000D0080100000000000000000, .bfma2 { wordCtl with ty := .bf16x2 } ⟨false, .rne, 0, false, 0, 0x0⟩),
  (0x40000000070080100000000000000000, .dadd { wordCtl with ty := .f64 } ⟨false, .rne, 0, false, 0, 0x0⟩),
  (0x41000000070080100000000000000000, .dmul { wordCtl with ty := .f64 } ⟨false, .rne, 0, false, 0, 0x0⟩),
  (0x42000000070080100000000000000000, .dfma { wordCtl with ty := .f64 } ⟨false, .rne, 0, false, 0, 0x0⟩),
  (0x43000000040080100000000000000700, .fcvt { wordCtl with ty := .f32 } ⟨false, .rne, 0, false, 0, 0x7⟩),
  (0x44000000000080100000000000000400, .ftoi wordCtl ⟨false, .rne, 0, false, 0, 0x4⟩),
  (0x45000000040080100000000000000000, .itof { wordCtl with ty := .f32 } ⟨false, .rne, 0, false, 0, 0x0⟩)]

def floatWords2 : List (IWord × Instr) := [
  (0x460000000C0080100000000000000000, .pack { wordCtl with ty := .f16x2 } ⟨false, .rne, 0, false, 0, 0x0⟩),
  (0x470000000D0080100000000000000000, .unpk { wordCtl with ty := .bf16x2 } ⟨false, .rne, 0, false, 0, 0x0⟩),
  (0x48000000080080100000000000000000, .lgmul { wordCtl with ty := .lg6 } ⟨false, .rne, 0, false, 0, 0x0⟩),
  (0x49000000080080100000000000000000, .lgcvt { wordCtl with ty := .lg6 } ⟨false, .rne, 0, false, 0, 0x0⟩),
  (0x4A000000020080100000000000000000, .lgexp { wordCtl with ty := .s64 } ⟨false, .rne, 0, false, 0, 0x0⟩),
  (0x4B000000080080100000000000000000, .lgdot { wordCtl with ty := .lg6 } ⟨false, .rne, 0, false, 0, 0x0⟩),
  (0x4C000000010080100000000000000000, .fflagsRd { wordCtl with ty := .n32 }),
  (0x4C010000010080100000000000000000, .fflagsClr { wordCtl with ty := .n32 })]

def memoryWords : List (IWord × Instr) := [
  (0x50000000000080100100000000000000, .ld wordCtl ⟨.thread, .normal, .w4, 0, 0⟩),
  (0x51000000000080100100000000000000, .st wordCtl ⟨.thread, .normal, .w4, 0, 0⟩),
  (0x52000000000080100100000000000000, .lds wordCtl ⟨.thread, .normal, .w4, 0, 0⟩),
  (0x53000000000080100100000000000000, .sts wordCtl ⟨.thread, .normal, .w4, 0, 0⟩),
  (0x54000000000080100100000000000000, .ldc wordCtl ⟨.thread, .normal, .w4, 0, 0⟩),
  (0x55000000000080100100000000000000, .atomAdd wordCtl ⟨.thread, .normal, .w4, 0, 0⟩),
  (0x55010000000080100100000000000000, .atomMin wordCtl ⟨.thread, .normal, .w4, 0, 0⟩),
  (0x55020000000080100100000000000000, .atomMax wordCtl ⟨.thread, .normal, .w4, 0, 0⟩),
  (0x55030000010080100100000000000000, .atomAnd { wordCtl with ty := .n32 } ⟨.thread, .normal, .w4, 0, 0⟩),
  (0x55040000010080100100000000000000, .atomOr { wordCtl with ty := .n32 } ⟨.thread, .normal, .w4, 0, 0⟩),
  (0x550500000E0080100100000000000000, .atomXor { wordCtl with ty := .b32 } ⟨.thread, .normal, .w4, 0, 0⟩),
  (0x55060000010080100100000000000000, .atomExch { wordCtl with ty := .n32 } ⟨.thread, .normal, .w4, 0, 0⟩),
  (0x56000000010080100100000000000000, .atomcas { wordCtl with ty := .n32 } ⟨.thread, .normal, .w4, 0, 0⟩),
  (0x57000000030080102300000000000000, .atomvOr { wordCtl with ty := .n64 } ⟨.team, .normal, .w64, 0, 0⟩),
  (0x57010000030080102300000000000000, .atomvAnd { wordCtl with ty := .n64 } ⟨.team, .normal, .w64, 0, 0⟩),
  (0x570200000F0080102200000000000000, .atomvAdd { wordCtl with ty := .b128 } ⟨.team, .normal, .w16, 0, 0⟩),
  (0x570300000F0080102200000000000000, .atomvMax { wordCtl with ty := .b128 } ⟨.team, .normal, .w16, 0, 0⟩),
  (0x58000000000080100100000000000000, .satomAdd wordCtl ⟨.thread, .normal, .w4, 0, 0⟩),
  (0x58010000000080100100000000000000, .satomMin wordCtl ⟨.thread, .normal, .w4, 0, 0⟩),
  (0x58020000000080100100000000000000, .satomMax wordCtl ⟨.thread, .normal, .w4, 0, 0⟩),
  (0x58030000010080100100000000000000, .satomAnd { wordCtl with ty := .n32 } ⟨.thread, .normal, .w4, 0, 0⟩),
  (0x58040000010080100100000000000000, .satomOr { wordCtl with ty := .n32 } ⟨.thread, .normal, .w4, 0, 0⟩),
  (0x58050000010080100100000000000000, .satomXor { wordCtl with ty := .n32 } ⟨.thread, .normal, .w4, 0, 0⟩),
  (0x58060000010080100100000000000000, .satomExch { wordCtl with ty := .n32 } ⟨.thread, .normal, .w4, 0, 0⟩),
  (0x59000000000080100000000000000000, .fenceAcq wordCtl ⟨.thread, 0, 0, 0x0⟩),
  (0x59010000000080100000000000000000, .fenceRel wordCtl ⟨.thread, 0, 0, 0x0⟩),
  (0x59020000000080100000000000000000, .fenceAr wordCtl ⟨.thread, 0, 0, 0x0⟩),
  (0x5A000000000080100000000000000000, .pfetch wordCtl ⟨.thread, .normal, .w1, 0, 0⟩),
  (0x5B000000000080100000000000000000, .cinv wordCtl ⟨.thread, .normal, .w1, 0, 0⟩),
  (0x5C000000010080100000000000000000, .claim { wordCtl with ty := .n32 } ⟨.thread, .normal, .w1, 0, 0⟩),
  (0x5C010000010080100000000000000000, .claimRel { wordCtl with ty := .n32 } ⟨.thread, .normal, .w1, 0, 0⟩)]

def copyAndMatrixWords : List (IWord × Instr) := [
  (0x60000000000080100003000000000000, .cpytLd wordCtl ⟨3, 0, 0x0, 0x0, 0x0⟩),
  (0x60010000000080100003000000000000, .cpytSt wordCtl ⟨3, 0, 0x0, 0x0, 0x0⟩),
  (0x61000000000080100003000000001000, .cpybLd wordCtl ⟨3, 0, 0x0, 0x0, 0x1000⟩),
  (0x61010000000080100003000000001000, .cpybSt wordCtl ⟨3, 0, 0x0, 0x0, 0x1000⟩),
  (0x62000000000080100003000000000000, .cpyg wordCtl ⟨3, 0, 0x0, 0x0, 0x0⟩),
  (0x62010000000080100003000000000000, .cpys wordCtl ⟨3, 0, 0x0, 0x0, 0x0⟩),
  (0x630000000000801000000000007F0005, .cpyaccIn wordCtl ⟨0, 0, 0x0, 0x0, 0x7F0005⟩),
  (0x630100000000801000000000007F0005, .cpyaccOut wordCtl ⟨0, 0, 0x0, 0x0, 0x7F0005⟩),
  (0x64000000000080100003000000000000, .publ wordCtl ⟨3, 0, 0x0, 0x0, 0x0⟩),
  (0x65000000000080100003000080010000, .cpyrGet wordCtl ⟨3, 0, 0x0, 0x0, 0x80010000⟩),
  (0x65010000000080100003000080010000, .cpyrPut wordCtl ⟨3, 0, 0x0, 0x0, 0x80010000⟩),
  (0x66000000000080100003000000000000, .cred wordCtl ⟨3, 0, 0x0, 0x0, 0x0⟩),
  (0x670000000F0080100000000500000000, .tokq { wordCtl with ty := .b128 } ⟨0, 0, 0x0, 0x5, 0x0⟩),
  (0x67010000000080100003000000000000, .cpycan wordCtl ⟨3, 0, 0x0, 0x0, 0x0⟩),
  (0x68000000000080100000600000007E00, .chb wordCtl ⟨0, 3, 0x0, 0x0, 0x7E00⟩),
  (0x69000000000080100000000000000000, .che wordCtl ⟨0, 0, 0x0, 0x0, 0x0⟩),
  (0x6A000000000080100003000000000000, .mma wordCtl ⟨3, 0, 0x0, 0x0, 0x0⟩),
  (0x6B000000000080100003000000000000, .wbld wordCtl ⟨3, 0, 0x0, 0x0, 0x0⟩),
  (0x6B010000000080100003000000000000, .wbldT wordCtl ⟨3, 0, 0x0, 0x0, 0x0⟩),
  (0x6C000000000080100000000001FF0000, .accz wordCtl ⟨0, 0, 0x0, 0x0, 0x1FF0000⟩),
  (0x6D0000000E0080100000000000000005, .accrd { wordCtl with ty := .b32 } ⟨0, 0, 0x0, 0x0, 0x5⟩),
  (0x6E0000000E0080100000000000000005, .accwr { wordCtl with ty := .b32 } ⟨0, 0, 0x0, 0x0, 0x5⟩),
  (0x6F000000000080100003000000000000, .drain wordCtl ⟨3, 0, 0x0, 0x0, 0x0⟩),
  (0x700000000F0080100000000000030000, .accwrd { wordCtl with ty := .b128 } ⟨0, 0, 0x0, 0x0, 0x30000⟩),
  (0x710000000F0080100000000000030000, .accwwr { wordCtl with ty := .b128 } ⟨0, 0, 0x0, 0x0, 0x30000⟩)]

def gridAndStreamWords : List (IWord × Instr) := [
  (0x78000000000080100003000000000000, .gcfg wordCtl ⟨3, 0, 0x0, 0x0, 0x0⟩),
  (0x79000000000080100000000000000000, .grun wordCtl ⟨0, 0, 0x0, 0x0, 0x0⟩),
  (0x7A000000000080100000010000000000, .gstop wordCtl ⟨0, 0, 0x1, 0x0, 0x0⟩),
  (0x7B000000000080100000000000000000, .gwait wordCtl ⟨0, 0, 0x0, 0x0, 0x0⟩),
  (0x7C000000030080100000000000000000, .gqry { wordCtl with ty := .n64 } ⟨0, 0, 0x0, 0x0, 0x0⟩),
  (0x7D000000000080100000010000000004, .gframe wordCtl ⟨0, 0, 0x1, 0x0, 0x4⟩),
  (0x7E000000000080100000000000000021, .lctx wordCtl ⟨0, 0, 0x0, 0x0, 0x21⟩),
  (0x7F000000000080100003010100008003, .strmo wordCtl ⟨3, 0, 0x1, 0x1, 0x8003⟩),
  (0x80000000000080100000000100000021, .strma wordCtl ⟨0, 0, 0x0, 0x1, 0x21⟩),
  (0x81000000000080100000000200000040, .strmb wordCtl ⟨0, 0, 0x0, 0x2, 0x40⟩),
  (0x82000000000080100000000200000000, .strmc wordCtl ⟨0, 0, 0x0, 0x2, 0x0⟩),
  (0x83000000030080100000000000000000, .strmq { wordCtl with ty := .n64 } ⟨0, 0, 0x0, 0x0, 0x0⟩)]

def syncAndSystemWords : List (IWord × Instr) := [
  (0x88000000000080102100000000000004, .bar wordCtl ⟨.team, 1, 0, 0x4⟩),
  (0x89000000000080102200000000000004, .bara wordCtl ⟨.team, 2, 0, 0x4⟩),
  (0x8A000000000080102300000000000000, .barw wordCtl ⟨.team, 3, 0, 0x0⟩),
  (0x8B000000000080102400000000000004, .barx wordCtl ⟨.team, 4, 0, 0x4⟩),
  (0x8C000000000080102120000000000000, .stgfill wordCtl ⟨.team, 1, 2, 0x0⟩),
  (0x8C010000000080102120000000000000, .stgwait wordCtl ⟨.team, 1, 2, 0x0⟩),
  (0x8C020000000080102120000000000000, .stgfree wordCtl ⟨.team, 1, 2, 0x0⟩),
  (0x8D000000000080100000000000000000, .sleept wordCtl ⟨.thread, 0, 0, 0x0⟩),
  (0x8D010000000080100000000000000000, .tokw wordCtl ⟨.thread, 0, 0, 0x0⟩),
  (0x8D020000000080100000000000000000, .tokwF wordCtl ⟨.thread, 0, 0, 0x0⟩),
  (0x8E000000030080106000000000000000, .waitx { wordCtl with ty := .n64 } ⟨.host, 0, 0, 0x0⟩),
  (0x8F000000030080100000000000000000, .realign { wordCtl with ty := .n64 } ⟨.thread, 0, 0, 0x0⟩),
  (0x90000000000080100000000000000000, .trap wordCtl ⟨.thread, 0, 0, 0x0⟩),
  (0x91000000000080100000000000000000, .tret wordCtl),
  (0x92000000030080100000000000000012, .srd { wordCtl with ty := .n64 } ⟨.thread, 0, 0, 0x12⟩),
  (0x93000000030080100000000000000011, .swr { wordCtl with ty := .n64 } ⟨.thread, 0, 0, 0x11⟩),
  (0x94000000000080100000000000000000, .yield wordCtl),
  (0x94010000000080100000000000000000, .nopb wordCtl),
  (0x95000000000080100000000000000000, .bkpt wordCtl ⟨.thread, 0, 0, 0x0⟩),
  (0x96000000030080100000000000000000, .perfrd { wordCtl with ty := .n64 } ⟨.thread, 0, 0, 0x0⟩),
  (0x97000000030080100000000000000000, .spawn { wordCtl with ty := .n64 } ⟨0, 0, 0x0, 0x0, 0x0⟩)]

theorem test_decode_control : decodesAll controlWords = true := by decide +kernel
theorem test_decode_integer_1 : decodesAll integerWords1 = true := by decide +kernel
theorem test_decode_integer_2 : decodesAll integerWords2 = true := by decide +kernel
theorem test_decode_float_1 : decodesAll floatWords1 = true := by decide +kernel
theorem test_decode_float_2 : decodesAll floatWords2 = true := by decide +kernel
theorem test_decode_memory : decodesAll memoryWords = true := by decide +kernel
theorem test_decode_copy_and_matrix : decodesAll copyAndMatrixWords = true := by decide +kernel
theorem test_decode_grid_and_stream : decodesAll gridAndStreamWords = true := by decide +kernel
theorem test_decode_sync_and_system : decodesAll syncAndSystemWords = true := by decide +kernel

/-! ## Words that are refused (R35, R46, R56) and ill-formed instructions -/

theorem test_refuse_major : decode (0x98 <<< 120) = .error .illegalMajor ∧ decode (0xF0 <<< 120) = .error .illegalMajor := by
  decide +kernel

theorem test_refuse_minor : decode (0x0001 <<< 112) = .error .illegalMinor ∧ decode (0x9402 <<< 112) = .error .illegalMinor := by
  decide +kernel

theorem test_refuse_type : decode (0x1000 <<< 112 ||| 4 <<< 88) = .error .illegalMinor := by decide +kernel

theorem test_refuse_reserved : decode 1 = .error .reservedBits ∧ decode (3 <<< 92) = .error .reservedBits ∧
    decode (3 <<< 103) = .error .reservedBits ∧ decode (1 <<< 104) = .error .reservedBits := by decide +kernel

/-- ADD with the payload of another format. -/
theorem test_wf_format : wfFmt .add (.n) = false ∧ wfWord .add wordCtl .n = false := by decide

theorem test_wf_type : wfTy .add { wordCtl with ty := .f32 } = false ∧
    (Instr.add { wordCtl with ty := .f32 } ⟨false, .rne, 0, false, 0, 0⟩).wf = false := by decide +kernel

/-- MAD's P slot carries data, so no predicate is allowed (R31). -/
theorem test_wf_predicate : wfPm .mad { wordCtl with pm := .ifTrue } = false ∧
    (Instr.mad { wordCtl with pm := .ifTrue } ⟨false, .rne, 0, false, 0, 0⟩).wf = false := by decide +kernel

theorem test_wf_lsid : wfLsid .add { wordCtl with lsid := 1 } = false ∧
    (Instr.add { wordCtl with lsid := 1 } ⟨false, .rne, 0, false, 0, 0⟩).wf = false := by decide +kernel

/-- SHFL admits no U (R111); LEA's SCALE ends at 4 (R109); BFX's LEN is at least 1 (R104). -/
theorem test_wf_reserved :
    (Instr.shflIdx wordCtl ⟨true, .rne, 0, false, 0, 5⟩).wf = false ∧
    (Instr.lea wordCtl ⟨false, .rne, 0, false, 0, 5⟩).wf = false ∧
    (Instr.bfx wordCtl ⟨false, .rne, 0, false, 0, 0⟩).wf = false ∧
    (Instr.lea wordCtl ⟨false, .rne, 0, false, 0, 4⟩).wf = true := by decide +kernel

/-- ATOMV.add has no index form (R171). -/
theorem test_wf_minor : (Instr.atomvAdd { wordCtl with ty := .n64 } ⟨.team, .normal, .w8, 0, 0⟩).wf = false ∧
    (Instr.atomvAdd { wordCtl with ty := .b128 } ⟨.team, .normal, .w8, 0, 0⟩).wf = true := by decide +kernel

/-! ## Worked examples -/

/-- Example 2.1: the header of SCALE. -/
theorem test_header_scale : parseHeader 0xF0088880000000000005000000000000 [0x00000000000000000000000040100300] =
    .ok ⟨3, 2, 0, false, false, 0, [5], [⟨0, 1, true, 0, .l⟩], [⟨0, 2, 1⟩], none⟩ := by decide +kernel

/-- Section 3.9: the header of TEST. -/
theorem test_header_test : parseHeader 0xF004882000000C000004000008000000 [0x100] =
    .ok ⟨2, 2, 1, false, false, 12, [4, 8], [⟨0, 0, true, 0, .l⟩], [], none⟩ := by decide +kernel

/-- Example 5.2: the header of LGACC. -/
theorem test_header_lgacc : parseHeader 0xF0089900000000000005000000000000 [0x00000000180101400015020130101100] =
    .ok ⟨3, 2, 0, false, false, 0, [5], [⟨0, 8, true, 0, .l⟩, ⟨0, 9, true, 0, .r⟩, ⟨0, 10, true, 0, .p⟩],
      [⟨0, 10, 0⟩, ⟨0, 12, 1⟩], none⟩ := by decide +kernel

/-- A wrong mark, and a target slot 0b11 in a read entry (R40, R41). -/
theorem test_header_bad : parseHeader 0xE0088880000000000005000000000000 [] = .error (.badHeader, 0) ∧
    parseHeader 0xF004882000000C000004000008000000 [0x103] = .error (.reservedBits, 1) := by decide +kernel

/-- Example 4.1. -/
theorem test_idiv : fIdiv .s32 7 0xFFFFFFFE = 0xFFFFFFFD ∧ fIdiv .s32 0xFFFFFFF9 2 = 0xFFFFFFFD ∧
    fIdiv .s32 9 0 = 0xFFFFFFFF ∧ fIdiv .s32 0x80000000 0xFFFFFFFF = 0x80000000 ∧
    fIdiv .n32 0x80000000 0xFFFFFFFF = 0 := by decide +kernel

theorem test_irem : fIrem .s32 7 0xFFFFFFFE = 1 ∧ fIrem .s32 0xFFFFFFF9 2 = 0xFFFFFFFF ∧ fIrem .s32 9 0 = 9 ∧
    fIrem .s32 0x80000000 0xFFFFFFFF = 0 ∧ fIrem .n32 0x80000000 0xFFFFFFFF = 0x80000000 := by decide +kernel

/-- R105: the example selectors. -/
theorem test_prmt : fPrmt 0x0688 0x44332211 0x88776655 = 0x44332211 ∧ fPrmt 0x0FAC 0x44332211 0x88776655 = 0x88776655 ∧
    fPrmt 0x0053 0x44332211 0 = 0x11223344 ∧ fPrmt 0xE000 0x80 0 = 0xFFFFFF80 := by decide +kernel

/-- Example 5.1 (f32 3.0, 0.5, −0.3, 0.05, 100.0). -/
theorem test_lgcvt : fLgcvt .lg6 {} 0x40400000 = (0x06, flNX) ∧ fLgcvt .lg6 {} 0x3F000000 = (0x1C, 0) ∧
    fLgcvt .lg6 {} 0xBE99999A = (0x39, flNX) ∧ fLgcvt .lg6 {} 0x3D4CCCCD = (0x10, flUF ||| flNX) ∧
    fLgcvt .lg6 {} 0x42C80000 = (0x0F, flLSAT ||| flNX) ∧ fLgcvt .lg6 {} 0x7FC00000 = (0x30, 0) ∧
    fLgcvt .lg6 { sexp := 3 } 0x42C80000 = (0x0F, flNX) := by decide +kernel

/-- Section 5.10: LGEXP.lg6 of 0x06 is 0x4035_0500. -/
theorem test_lgexp : (fLgexp .lg6 .rne {} {} 0x06).1 = 0x40350500 := by decide +kernel

/-- R158: an 8-byte store at 0x1003. -/
theorem test_pieces : pieces 0x1003 8 = [(0, 1), (1, 4), (5, 2), (7, 1)] := by decide +kernel

/-- Example 13.1: the boot register after the fourth start. -/
theorem test_bootst : bootst { mode := .halter, stage := 7, starts := 3, reason := 3 } = 0x01033708 := by decide +kernel

end Sys2Proof.Tests
end

