-- ==== Sys2Proof/Tests/Bench.lean ====
section
/-! SUPPORT. A small state for the tests: one team of tenant 1 on core 0 whose block in flight stands at a given word, a
page of memory with the tables that map it, and the turn of every word on it. -/

namespace Sys2Proof.Tests

set_option Elab.async false

open Sys2Proof Sys2Proof.Machine Sys2Proof.Claims

/-- Page tables at physical 0x10000 to 0x5FFFF that map virtual page 0 to physical page 0x10, readable, writable and
executable (R142), and on that page a resource table at 0x1000 (R286): a buffer of 4 KiB at 0x4000, a tensor of 8 × 8
f32 elements at 0x5000 with a box of 4 × 4, a shape of 32 × 32, a code entry, a constant buffer, a grid image and a
scratchpad view of 64 bytes. -/
def benchMem : List Host.Cell :=
  [(0x10000, 8, 0x20001), (0x20000, 8, 0x30001), (0x30000, 8, 0x40001), (0x40000, 8, 0x50001), (0x50000, 8, 0x100039),
   (0x101000, 1, 1), (0x101010, 8, 0x4000), (0x101018, 8, 0x1000),
   (0x101040, 8, 0x30302040002), (0x101050, 8, 0x5000), (0x101060, 8, 0x800000008), (0x101068, 8, 32),
   (0x101080, 4, 0x40103), (0x101098, 8, 0x20002000000080),
   (0x1010C0, 1, 4), (0x1010D0, 8, 0x2000), (0x101100, 1, 5), (0x101110, 8, 0x4000), (0x101118, 4, 64),
   (0x101140, 1, 6), (0x101150, 8, 0x4000), (0x101158, 4, 64),
   (0x101180, 2, 0x301), (0x101198, 8, 64)].foldl (fun m x => memSetNum m x.1 x.2.1 x.2.2) []

/-- Where a test stands: the word, its operands, and what else differs from the plain team. -/
structure Bench where
  word : IWord := 0
  l : Val := 0
  r : Val := 0
  p : Val := 0
  flight : Flight → Flight := id
  unit : WUnit → WUnit := id
  team : Team → Team := id
  state : State → State := id

def Bench.f (b : Bench) : Flight :=
  b.flight
    { frag := 0, addr := 0x2000, words := [b.word]
      hdr := ⟨1, 1, 0, false, false, 0, [0], [], [], none⟩
      toks := [(0, ⟨[some b.l], 0⟩), (1, ⟨[some b.r], 0⟩), (2, ⟨[some b.p], 0⟩)] }

def Bench.w (b : Bench) : WUnit :=
  { b.unit { splits := [(0, { live := true, mask := 1, block := 0x2000, state := .inFlight })] } with flight := some b.f }

def Bench.T (b : Bench) : Team :=
  { b.team
    { vf := 1, seq := 0, num := 0, rnum := 0
      lrec := { teams := 1, warps := 1, regs := 16, spad := 4, rcount := 8, rtab := 0x1000, slots := [{ efmt := .f32 }] }
      core := 0, spBase := 0, spBytes := 16384, pages := [0, 1, 2, 3], htab := 0, wdog := 26, xto := 0, slot := 0, rtop := 0 } with
    units := [(0, b.w)] }

def Bench.s (b : Bench) : State :=
  { b.state
    { State.reset with
      mem := benchMem
      tenants := [(1, { cfg := { vf := 1, part := 0, sliceMs := 100, leadMs := 0, root := 0x10000, regions := [], ports := [], groups := [] } })] } with
    teams := [(0, b.T)], nextTeam := 1, issuer := (0, 0) }

def Bench.i (b : Bench) : Iss := ⟨0, 0, b.T, b.w, b.f⟩

theorem Bench.ctx (b : Bench) : issCtx b.s = some b.i := rfl

/-- The turn of a word is there on the bench, and lane 0 leads it. -/
def turnOk (w : IWord) (x : Instr) : Bool :=
  let b : Bench := { word := w }
  match x.view with
  | some (o, c, pl) => (gate b.s b.i o c pl).isNone && (c.pm != .none || decide ((atLanes b.i o c pl).length = 1))
  | none => false

def turnsAll (l : List (IWord × Instr)) : Bool := l.all (fun x => turnOk x.1 x.2)

/-- What `turnOk` says, in the words of the statements: the hypotheses of Answers, Computes, Decides, Holds and of every
statement about a word at its turn are met. -/
theorem turn_of_ok {w : IWord} {x : Instr} {o : Op} {c : Ctl} {pl : Payload} (hv : x.view = some (o, c, pl))
    (h : turnOk w x = true) :
    Turn (Bench.s { word := w }) (Bench.i { word := w }) o c pl ∧ NoAcquire (Bench.s { word := w }) (Bench.i { word := w }) := by
  unfold turnOk at h
  rw [hv] at h
  simp only [Bool.and_eq_true, Option.isNone_iff_eq_none] at h
  exact ⟨⟨Bench.ctx _, h.1⟩, fun l hl => (List.not_mem_nil hl).elim, fun l hl => (List.not_mem_nil hl).elim⟩

theorem test_turn_control : turnsAll controlWords = true := by decide +kernel
theorem test_turn_integer1 : turnsAll integerWords1 = true := by decide +kernel
theorem test_turn_integer2 : turnsAll integerWords2 = true := by decide +kernel
theorem test_turn_float1 : turnsAll floatWords1 = true := by decide +kernel
theorem test_turn_float2 : turnsAll floatWords2 = true := by decide +kernel
theorem test_turn_memory : turnsAll memoryWords = true := by decide +kernel
theorem test_turn_copy_and_matrix : turnsAll copyAndMatrixWords = true := by decide +kernel
theorem test_turn_grid_and_stream : turnsAll gridAndStreamWords = true := by decide +kernel
theorem test_turn_sync_and_system : turnsAll syncAndSystemWords = true := by decide +kernel

end Sys2Proof.Tests
end

