-- ==== Sys2Proof/Tests/Witness1.lean ====
section
/-! SUPPORT. Witnesses: for each statement with hypotheses, concrete states and operands that meet them, clause by clause.
The statements that ask only for the turn of a word are met by the `test_turn_…` theorems, for every word. -/

namespace Sys2Proof.Tests

set_option Elab.async false

open Sys2Proof Sys2Proof.Machine Sys2Proof.Claims

/-! ## Turns with a leader lane -/

def plainA : FmtA := ⟨false, .rne, 0, false, 0, 0⟩
def plainE : FmtE := ⟨0, 0, 0, 0, 0⟩

theorem Bench.turn (b : Bench) {o : Op} {c : Ctl} {pl : Payload} (h : (gate b.s b.i o c pl).isNone = true) :
    Turn b.s b.i o c pl := ⟨b.ctx, Option.isNone_iff_eq_none.mp h⟩

/-- The word's turn is there and lane 0 leads with operands `x`. -/
def leads (b : Bench) (o : Op) (c : Ctl) (pl : Payload) (x : Opnds) : Bool :=
  (gate b.s b.i o c pl).isNone && decide (atLanes b.i o c pl = [(0, x)])

theorem Bench.lead (b : Bench) {o : Op} {c : Ctl} {pl : Payload} {x : Opnds} (h : leads b o c pl x = true) :
    Turn b.s b.i o c pl ∧ ∃ rest, atLanes b.i o c pl = (0, x) :: rest := by
  simp only [leads, Bool.and_eq_true, decide_eq_true_eq] at h
  exact ⟨b.turn h.1, [], h.2⟩

/-- No load is out, so none holds a later one back. -/
theorem Bench.free (b : Bench) (hl : b.s.loads = []) (hs : b.i.f.spLoads = []) : NoAcquire b.s b.i :=
  ⟨by simp [hl], by simp [hs]⟩

theorem Bench.copy (b : Bench) {o : Op} {c : Ctl} {p : FmtE} {x : Opnds} (h : leads b o c (.e p) x = true)
    (hl : b.s.loads = []) (hq : (getCore b.s b.i.T.core).copyQ.length < 32)
    (hs : b.i.f.spLoads = [] := by rfl) : CopyTurn b.s b.i o c p 0 x := ⟨(b.lead h).1, b.free hl hs, hq, (b.lead h).2⟩

theorem Bench.mat (b : Bench) {o : Op} {c : Ctl} {p : FmtE} {x : Opnds} (h : leads b o c (.e p) x = true)
    (hq : (getMat b.s b.i.T.core).queue.length < 4) : MatTurn b.s b.i o c p 0 x := ⟨(b.lead h).1, hq, (b.lead h).2⟩

theorem Bench.grid (b : Bench) {o : Op} {c : Ctl} {p : FmtE} {x : Opnds} (p0 : Nat) (h : leads b o c (.e p) x = true)
    (hp : p0 < b.i.T.pages.length) : GridTurn b.s b.i o c p p0 x := ⟨(b.lead h).1, hp, 0, (b.lead h).2⟩

theorem Bench.sync (b : Bench) {o : Op} {c : Ctl} {p : FmtS} {x : Opnds} (h : leads b o c (.s p) x = true) :
    SyncTurn b.s b.i o c p 0 x := b.lead h

/-! ## Integer, control and floating-point words -/

/-- IDIV and IREM: a divisor that is not 0, and the signed overflow; a shift by the width. -/
theorem wit_IntegerAndLogicWords :
    asInt .s32 32 (Opnds.mk 7 0xFFFFFFFE 0).r ≠ 0 ∧
    (2 ≤ tyWidth .s32 ∧ tySigned .s32 = true ∧ asInt .s32 32 0x80000000 = -(2 ^ (32 - 1)) ∧ asInt .s32 32 0xFFFFFFFF = -1) ∧
    tyWidth .n32 ≤ ((32 : Val).setWidth 32).toNat := by decide

/-- BFX and BFI: a field that ends at the top bit; SEXT from the full width; DP4's 8-bit types. -/
theorem wit_FieldsComparesAndWidening :
    (let p : FmtA := { plainA with aux := 0x1F01 }
     1 ≤ p.aux.toNat % 256 ∧ p.aux.toNat / 256 + p.aux.toNat % 256 ≤ tyWidth .s32) ∧
    (1 ≤ ({ plainA with aux := 32 } : FmtA).aux.toNat ∧ ({ plainA with aux := 32 } : FmtA).aux.toNat ≤ tyWidth .n32) ∧
    tyWidth .s8 = 8 := by decide

def deep : Bench := { unit := fun w => { w with splits := [(0, { live := true, mask := 1, stack := List.replicate 16 0x3000 })] } }

/-- CALL and RET at both ends of the stack, and CALLI on a code entry, on an entry of another kind and past the table. -/
theorem wit_Terminators :
    Turn deep.s deep.i .call wordCtl (.c ⟨0, 5⟩) ∧ (getSplit deep.i.w deep.i.f.frag).stack.length = 16 ∧
    Turn deep.s deep.i .ret wordCtl .n ∧
    Turn (Bench.s {}) (Bench.i {}) .ret wordCtl .n ∧ (getSplit (Bench.i {}).w (Bench.i {}).f.frag).stack.length = 0 ∧
    Turn (Bench.s {}) (Bench.i {}) .calli wordCtl (.c ⟨3, 0⟩) ∧
    (readEntry (Bench.s {}) (Bench.i {}).T 3).toOption.map ResEntry.kind = some .code ∧
    (readEntry (Bench.s {}) (Bench.i {}).T 4).toOption.map ResEntry.kind = some .const ∧
    (readEntry (Bench.s {}) (Bench.i {}).T 8).toOption = none :=
  ⟨Bench.turn _ (by decide +kernel), by decide +kernel, Bench.turn _ (by decide +kernel), Bench.turn _ (by decide +kernel),
    by decide +kernel, Bench.turn _ (by decide +kernel), by decide +kernel, by decide +kernel, by decide +kernel⟩

/-- Operands of each special class (R134), integers for FEXP2 at both ends of their ranges, a half for FSINCOS and a power of two for
FLOG2. -/
theorem wit_SpecialValues :
    fIn fmt32 false 0x7F800001 = .nan true ∧ fIn fmt32 false 0x7FC00000 = .nan false ∧ fIn fmt32 false 0xFF800000 = .inf true ∧
    (∃ e, fIn fmt32 false 0 = .fin false 0 e) ∧ (∃ e, fIn fmt32 true 0x80000001 = .fin true 0 e) ∧
    (∃ m e, m ≠ 0 ∧ fIn fmt32 false 0xBF800000 = .fin true m e) ∧
    isInt (fIn fmt32 false 0xC2FC0000) (-126) ∧ isInt (fIn fmt32 false 0x42FE0000) 127 ∧ isInt (fIn fmt32 false 0x43000000) 128 ∧
    isInt (fIn fmt32 false 0xC3150000) (-149) ∧ isInt (fIn fmt32 true 0xC2FE0000) (-127) ∧
    isHalf (fIn fmt32 false 0x3F000000) 0 ∧ isHalf (fIn fmt32 true 0xBFC00000) (-2) ∧
    (∃ e, fIn fmt32 false 0x40000000 = .fin false (2 ^ 23) e) :=
  ⟨by decide +kernel, by decide +kernel, by decide +kernel, ⟨_, rfl⟩, ⟨_, rfl⟩, ⟨2 ^ 23, -23, by decide +kernel, by decide +kernel⟩,
    ⟨true, _, _, rfl, .inr (by decide +kernel)⟩, ⟨false, _, _, rfl, .inr (by decide +kernel)⟩,
    ⟨false, _, _, rfl, .inr (by decide +kernel)⟩, ⟨true, _, _, rfl, .inr (by decide +kernel)⟩,
    ⟨true, _, _, rfl, .inr (by decide +kernel)⟩, ⟨false, _, _, rfl, by decide +kernel, by decide +kernel⟩,
    ⟨true, _, _, rfl, by decide +kernel, by decide +kernel⟩, ⟨-22, by decide +kernel⟩⟩

/-- Two, whose root lies in one binade and its reciprocal in another, and the ends of FRCP's range: 2^125 and 2^−126. -/
theorem wit_RootsAndTranscendentals :
    (2 ^ 23 ≠ 0 ∧ fIn fmt32 false 0x40000000 = .fin false (2 ^ 23) (-22) ∧ fIn fmt32 true 0x7E000000 = .fin false (2 ^ 23) 102 ∧
      fIn fmt32 true 0x00800000 = .fin false (2 ^ 23) (-149)) ∧
    (let x := numOf (.fin false (2 ^ 23) (-22))
     ((2 : ℚ) ^ (-1 : Int) ≤ |x⁻¹| ∧ |x⁻¹| < (2 : ℚ) ^ (-1 + 1 : Int)) ∧
     (2 : ℚ) ^ (2 * (-1) : Int) * x ≤ 1 ∧ 1 < (2 : ℚ) ^ (2 * (-1) + 2 : Int) * x) ∧
    (let x := numOf (.fin false (2 ^ 23) 102)
     (2 : ℚ) ^ (-125 : Int) ≤ |x⁻¹| ∧ |x⁻¹| < (2 : ℚ) ^ (-125 + 1 : Int)) ∧
    (let x := numOf (.fin false (2 ^ 23) (-149))
     (2 : ℚ) ^ (126 : Int) ≤ |x⁻¹| ∧ |x⁻¹| < (2 : ℚ) ^ (126 + 1 : Int)) := by
  refine ⟨by decide +kernel, ?_, ?_, ?_⟩ <;> norm_num [numOf, abs_of_pos]

/-- The largest f16 pattern under flush, and a subnormal one without. -/
theorem wit_RoundingKeepsRepresentable :
    (2 ≤ fmt16.eb ∧ 1 ≤ fmt16.fb ∧ 0x7BFF < 2 ^ (1 + fmt16.eb + fmt16.fb)) ∧
    (∀ sig, fDecode fmt16 0x7BFF ≠ .nan sig) ∧ (∀ s n e, fDecode fmt16 0x7BFF = .fin s n e → n = 0 ∨ 2 ^ fmt16.fb ≤ n) ∧
    (∀ sig, fDecode fmt16 1 ≠ .nan sig) := by
  refine ⟨by decide, fun sig h => ?_, fun s n e h => ?_, fun sig h => ?_⟩
  · cases h
  · have h2 : fDecode fmt16 0x7BFF = .fin false 2047 5 := by decide +kernel
    rw [h2] at h
    obtain ⟨rfl, rfl, rfl⟩ : false = s ∧ 2047 = n ∧ (5 : Int) = e := by simpa using h
    exact .inr (by decide)
  · cases h

theorem wit_NanResultsAreCanonical :
    (∃ sig, fIn fmt32 false 0x7FC00000 = .nan sig) ∧ fIn fmt32 true 0x7F800001 = .nan true := ⟨⟨false, by decide +kernel⟩, by decide +kernel⟩

/-- 1024 under base 4 is out of range above, 2^−10 below, and 1 has code 0. -/
theorem wit_LogEncodingIsNearest :
    ((2 : ℚ) ^ (2 * (15 : Int)) < ((1024 : ℕ) : ℚ) ^ (2 * 4) * (2 : ℚ) ^ (2 * ((4 : ℕ) : Int) * (0 - 0))) ∧
    (((1 : ℕ) : ℚ) ^ (2 * 4) * (2 : ℚ) ^ (2 * ((4 : ℕ) : Int) * (-10 - 0)) < (2 : ℚ) ^ (-2 * (15 : Int) - 1)) ∧
    ((2 : ℚ) ^ (2 * (0 : Int) - 1) < ((1 : ℕ) : ℚ) ^ (2 * 4) * (2 : ℚ) ^ (2 * ((4 : ℕ) : Int) * (0 - 0)) ∧
      ((1 : ℕ) : ℚ) ^ (2 * 4) * (2 : ℚ) ^ (2 * ((4 : ℕ) : Int) * (0 - 0)) < (2 : ℚ) ^ (2 * (0 : Int) + 1)) := by
  norm_num

def nulled : Bench := { flight := fun f => { f with toks := [(0, ⟨[none], 0⟩), (1, ⟨[none], 0⟩), (2, ⟨[none], 0⟩)] } }

theorem wit_FlagWords :
    Turn (Bench.s { l := 3 }) (Bench.i { l := 3 }) .fflagsClr { wordCtl with ty := .n32 } .n ∧
    uniOpnds (Bench.i { l := 3 }) .fflagsClr { wordCtl with ty := .n32 } .n = some ⟨3, 0, 0⟩ ∧
    Turn nulled.s nulled.i .fflagsClr { wordCtl with ty := .n32 } .n ∧
    uniOpnds nulled.i .fflagsClr { wordCtl with ty := .n32 } .n = none :=
  ⟨Bench.turn _ (by decide +kernel), by decide +kernel, Bench.turn _ (by decide +kernel), by decide +kernel⟩

end Sys2Proof.Tests
end

