-- ==== Sys2Proof/Tests/Witness2.lean ====
section
/-! SUPPORT. Witnesses for the statements about memory, copy, matrix, grid, synchronisation and system words. -/

namespace Sys2Proof.Tests

set_option Elab.async false

open Sys2Proof Sys2Proof.Machine Sys2Proof.Claims

/-! ## Memory words -/

def n32 : Ctl := { wordCtl with ty := .n32 }
def wordM : FmtM := ⟨.thread, .normal, .w4, 0, 0⟩
def encodeLds : IWord := (encode (.lds n32 wordM)).getD 0
def atZero : Bench := {}
def outside : Bench := { l := 0x20000 }

/-- LDS inside and past the window; LDC of the constant buffer and of an entry of another kind; an offset past the
buffer's size. -/
theorem wit_ScratchpadAndConstantLoads :
    Turn atZero.s atZero.i .lds n32 (.m wordM) ∧ NoAcquire atZero.s atZero.i ∧
    atLanes atZero.i .lds n32 (.m wordM) = [(0, ⟨0, 0, 0⟩)] ∧ windowAt wordM ⟨0, 0, 0⟩ + 4 ≤ atZero.i.T.spBytes ∧
    spPoisoned atZero.s atZero.i.T 0 4 = false ∧
    Turn outside.s outside.i .lds n32 (.m wordM) ∧ atLanes outside.i .lds n32 (.m wordM) = [(0, ⟨0x20000, 0, 0⟩)] ∧
    outside.i.T.spBytes < windowAt wordM ⟨0x20000, 0, 0⟩ + 4 ∧
    Turn atZero.s atZero.i .ldc n32 (.m { wordM with ridx := 4 }) ∧
    (readEntry atZero.s atZero.i.T 4).toOption.map (fun e => (e.kind, e.size)) = some (.const, 64) ∧
    (readEntry atZero.s atZero.i.T 0).toOption.map ResEntry.kind = some .buffer ∧
    ({ kind := .const, size := 64 } : ResEntry).size ≤ 64 :=
  ⟨atZero.turn (by decide +kernel), atZero.free rfl rfl, by decide +kernel, by decide +kernel, by decide +kernel,
    outside.turn (by decide +kernel), by decide +kernel, by decide +kernel, atZero.turn (by decide +kernel),
    by decide +kernel, by decide +kernel, by decide⟩

/-- A later load behind an acquire: a load of an earlier word is still out. -/
def acquiring : Bench :=
  { flight := fun f => { f with acq := 1 }
    state := fun s => { s with loads := [⟨1, 1, 0, 0, 0, 0, 0, 0, 0, 0, 0, 0, 4, false, .normal, [], none⟩] } }

theorem acquiring_waits : ¬NoAcquire acquiring.s acquiring.i := fun h =>
  absurd (h.1 _ (List.mem_singleton.mpr rfl) rfl rfl) (by decide +kernel)

/-- Another behind a piece of the window, and one for which a scratchpad atomic's window holds bank 0 in this cycle. -/
def acquiringSp : Bench := { flight := fun f => { f with acq := 1, spLoads := [⟨0, 0, 0, 0, 4⟩] } }
def heldBank : Bench := { state := fun s => { s with cores := [(0, { grid := { bankUse := [(0, 0, 8, 0)] } })] } }

theorem acquiringSp_waits : ¬NoAcquire acquiringSp.s acquiringSp.i := fun h =>
  absurd (h.2 _ (List.mem_singleton.mpr rfl)) (by decide +kernel)

theorem free_window (off n : Nat) : WindowFree atZero.s atZero.i.T off n := .inl ⟨by decide +kernel, by decide +kernel⟩

theorem held_window : ¬WindowFree heldBank.s heldBank.i.T 0 4 := by
  rintro (⟨-, h⟩ | h)
  · exact absurd h (by decide +kernel)
  · exact absurd (h 0 (by decide +kernel)) (by decide +kernel)

/-- The page of a constant buffer in transition: virtual page 1, which the core's TLB maps to physical page 0x11. -/
def movingConst : Bench :=
  { state := fun s => { s with
      mem := memSetNum benchMem 0x101110 8 0x10000
      cores := [(0, { tlb := [⟨1, 1, 0x11, true, true, false, .cached⟩] })]
      nextId := 1
      claims := [⟨1, 0, 0x11⟩]
      reqs := [{ id := 0, vf := 1, team := 0, unit := 0, die := 0, core := 0, t := 0, kind := .claim true, va := 0, pa := 0,
                 n := 0x10000, data := 0, cmp := 0, pages := [0x11] }] } }

theorem moving_const : constantMoves n32 { wordM with ridx := 4 } movingConst.s movingConst.i := by
  obtain ⟨e, he⟩ : ∃ e, readEntry movingConst.s movingConst.i.T 4 = .ok e ∧ e.size = 64 ∧ e.base = 0x10000 :=
    ⟨(readEntry movingConst.s movingConst.i.T 4).toOption.getD {}, by decide +kernel⟩
  refine ⟨e, he.1, (0, ⟨0, 0, 0⟩), by decide +kernel, ?_⟩
  have hw : windowAt { wordM with ridx := 4 } ⟨0, 0, 0⟩ = 0 := by decide +kernel
  have hb : widthBytes ({ wordM with ridx := 4 } : FmtM).width = 4 := by decide +kernel
  simp only [he.2.1, he.2.2, hw, hb]
  decide +kernel

/-- LDS and LDC behind an acquire; LDS of banks that are free and of one that is not; LDC of a page in transition. -/
theorem wit_ScratchpadAndConstantLoads_waits :
    (Turn acquiring.s acquiring.i .lds n32 (.m wordM) ∧ ¬NoAcquire acquiring.s acquiring.i) ∧
    (Turn acquiringSp.s acquiringSp.i .lds n32 (.m wordM) ∧ ¬NoAcquire acquiringSp.s acquiringSp.i) ∧
    (windowPieces atZero.i n32 wordM = [⟨0, 0, 0, 0, 4⟩] ∧ WindowFree atZero.s atZero.i.T 0 4) ∧
    (Turn heldBank.s heldBank.i .lds n32 (.m wordM) ∧ NoAcquire heldBank.s heldBank.i ∧
      atLanes heldBank.i .lds n32 (.m wordM) = [(0, ⟨0, 0, 0⟩)] ∧ spPoisoned heldBank.s heldBank.i.T 0 4 = false ∧
      windowPieces heldBank.i n32 wordM = [⟨0, 0, 0, 0, 4⟩] ∧ ¬WindowFree heldBank.s heldBank.i.T 0 4) ∧
    (Turn movingConst.s movingConst.i .ldc n32 (.m { wordM with ridx := 4 }) ∧ NoAcquire movingConst.s movingConst.i ∧
      constantMoves n32 { wordM with ridx := 4 } movingConst.s movingConst.i) :=
  ⟨⟨acquiring.turn (by decide +kernel), acquiring_waits⟩, ⟨acquiringSp.turn (by decide +kernel), acquiringSp_waits⟩,
    ⟨by decide +kernel, free_window 0 4⟩,
    ⟨heldBank.turn (by decide +kernel), heldBank.free rfl rfl, by decide +kernel, by decide +kernel, by decide +kernel, held_window⟩,
    movingConst.turn (by decide +kernel), movingConst.free rfl rfl, moving_const⟩

/-- A piece that an LDS waits for, at banks that are free, at one that is not, and in a poisoned granule. -/
def pieceLate (f : State → State) : Bench :=
  { word := encodeLds, flight := fun fl => { fl with spLoads := [⟨0, 0, 0, 0, 4⟩], loads := [⟨0, 0, 0, 1⟩], idx := 1 }, state := f }

theorem wit_ScratchpadAndConstantLoads_pieces :
    (let b := pieceLate id
     getTeam b.s 0 = some b.T ∧ getUnit b.s 0 0 = some b.w ∧ b.w.flight = some b.f ∧ b.f.fault = none ∧
     b.f.spLoads = [⟨0, 0, 0, 0, 4⟩] ∧ b.f.loads = [⟨0, 0, 0, 1⟩] ∧ b.f.words[0]? = some encodeLds ∧ sbOf (ctlOf encodeLds) = none ∧
     spPoisoned b.s b.T 0 4 = false ∧ WindowFree b.s b.T 0 4) ∧
    (let b := pieceLate heldBank.state
     b.f.spLoads = [⟨0, 0, 0, 0, 4⟩] ∧ ¬WindowFree b.s b.T 0 4) ∧
    (let b := pieceLate (fun s => { s with cores := [(0, { spPoison := [(0, true)] })] })
     b.f.spLoads = [⟨0, 0, 0, 0, 4⟩] ∧ spPoisoned b.s b.T 0 4 = true ∧ WindowFree b.s b.T 0 4 ∧ ∀ l ∈ b.f.loads, l.missing ≠ 0) :=
  ⟨⟨rfl, rfl, rfl, rfl, rfl, rfl, rfl, by decide +kernel, by decide +kernel, .inl ⟨by decide +kernel, by decide +kernel⟩⟩,
    ⟨rfl, by
      rintro (⟨-, h⟩ | h)
      · exact absurd h (by decide +kernel)
      · exact absurd (h 0 (by decide +kernel)) (by decide +kernel)⟩,
    rfl, by decide +kernel, .inl ⟨by decide +kernel, by decide +kernel⟩, by decide +kernel⟩

/-- A die that holds a leased copy of line 0x2000 (physical 0x100000). -/
def onDie : Bench :=
  { state := fun s => { s with dies := [(0, { copies := [⟨0x2000, List.replicate 128 7, 100⟩] })] } }

def ldAcc (b : Bench) : LoadAcc :=
  (atLanes b.i .ld n32 (.m wordM)).foldl (loadLane b.i 4 false wordM.cache (globalAt wordM)) { s := b.s }

/-- LD served on the die, LD that goes to the home, and LD of an unmapped page. -/
theorem wit_GlobalLoad :
    Turn onDie.s onDie.i .ld n32 (.m wordM) ∧ (ldAcc onDie).fault = none ∧ (∀ l ∈ (ldAcc onDie).lanes, l.missing = 0) ∧
    Turn atZero.s atZero.i .ld n32 (.m wordM) ∧ (ldAcc atZero).fault = none ∧ (∃ l ∈ (ldAcc atZero).lanes, l.missing ≠ 0) ∧
    Turn outside.s outside.i .ld n32 (.m wordM) ∧ ((ldAcc outside).fault.map (fun k => k.code)) = some .xlateNotMapped ∧
    (Turn acquiring.s acquiring.i .ld n32 (.m wordM) ∧ ¬NoAcquire acquiring.s acquiring.i) :=
  ⟨onDie.turn (by decide +kernel), by decide +kernel, by decide +kernel, atZero.turn (by decide +kernel), by decide +kernel,
    by decide +kernel, outside.turn (by decide +kernel), by decide +kernel, acquiring.turn (by decide +kernel), acquiring_waits⟩

/-- A store and an atomic that pass, and one of each that faults; likewise in the window. -/
theorem wit_StoresAndAtomicsAreHeld :
    Turn atZero.s atZero.i .st n32 (.m wordM) ∧
    (checkAccess atZero.s 0 1 0 4 .rw false).2.toOption.map List.length = some 1 ∧
    (checkAccess outside.s 0 1 0x20000 4 .rw false).2.toOption = none ∧
    Turn atZero.s atZero.i .atomAdd n32 (.m wordM) ∧ (checkAccess atZero.s 0 1 0 4 .atom true).2.toOption.map List.length = some 1 ∧
    (checkAccess atZero.s 0 1 2 4 .atom true).2.toOption = none ∧
    Turn atZero.s atZero.i .sts n32 (.m wordM) ∧ Turn atZero.s atZero.i .satomAdd n32 (.m wordM) ∧
    (scratchLane true (.atom .add .n32) n32 wordM atZero.i atZero.s (0, ⟨16380, 0, 0⟩)).2.toOption.map List.length = some 1 ∧
    (scratchLane true (.atom .add .n32) n32 wordM atZero.i atZero.s (0, ⟨16384, 0, 0⟩)).2.toOption = none :=
  ⟨atZero.turn (by decide +kernel), by decide +kernel, by decide +kernel, atZero.turn (by decide +kernel), by decide +kernel,
    by decide +kernel, atZero.turn (by decide +kernel), atZero.turn (by decide +kernel), by decide +kernel, by decide +kernel⟩

def busyAtomic : Bench := { unit := fun w => { w with atomics := 1 } }

/-- Fences whose release part has ended or not, a fence with no firing lane; CINV, and CLAIM of a mapped page, of an
unmapped one, and with no firing lane. -/
theorem wit_FencesCacheAndClaimWords :
    (Turn atZero.s atZero.i .fenceRel wordCtl (.s ⟨.package, 0, 0, 0⟩) ∧ atLanes atZero.i .fenceRel wordCtl (.s ⟨.package, 0, 0, 0⟩) ≠ []) ∧
    releaseDone (Bench.s { state := fun s => { s with ptc := 8 } }) 0 0 atZero.T atZero.w 5 = true ∧
    releaseDone busyAtomic.s 0 0 busyAtomic.T busyAtomic.w 1 = false ∧
    Turn atZero.s atZero.i .fenceAr { wordCtl with pm := .ifTrue } (.s ⟨.warp, 0, 0, 0⟩) ∧
    atLanes atZero.i .fenceAr { wordCtl with pm := .ifTrue } (.s ⟨.warp, 0, 0, 0⟩) = [] ∧
    Turn atZero.s atZero.i .cinv wordCtl (.m { wordM with width := .w1 }) ∧
    atLanes atZero.i .cinv wordCtl (.m { wordM with width := .w1 }) = [(0, ⟨0, 0, 0⟩)] ∧
    (let b : Bench := { r := 0x10000 }
     Turn b.s b.i .claim n32 (.m { wordM with width := .w1 }) ∧
     atLanes b.i .claim n32 (.m { wordM with width := .w1 }) = [(0, ⟨0, 0x10000, 0⟩)] ∧
     (claimTranslate 0 1 b.s (rangePages 0 0x10000)).2.toOption = some [0x10] ∧
     (claimTranslate 0 1 b.s (rangePages 0x10000 0x10000)).2.toOption = none) ∧
    Turn nulled.s nulled.i .claim n32 (.m { wordM with width := .w1 }) ∧ atLanes nulled.i .claim n32 (.m { wordM with width := .w1 }) = [] :=
  ⟨⟨atZero.turn (by decide +kernel), by decide +kernel⟩, by decide +kernel, by decide +kernel, atZero.turn (by decide +kernel),
    by decide +kernel, atZero.turn (by decide +kernel), by decide +kernel,
    ⟨Bench.turn _ (by decide +kernel), by decide +kernel, by decide +kernel, by decide +kernel⟩, nulled.turn (by decide +kernel),
    by decide +kernel⟩

/-- A page of the bench with rights as given, as its core's TLB holds it. -/
def pageOf (rd wr : Bool) : TlbEnt := ⟨1, 0, 0x10, rd, wr, false, .cached⟩
def noRights : Bench := { state := fun s => { s with cores := [(0, { tlb := [pageOf false false] })] } }
def badGranule : Bench := { state := fun s => { s with memPoison := [(0x8200, true)] } }

/-- Constant bytes of an unmapped page, of a page without read permission, in a poisoned granule, and in a buffer that ends inside
the read. -/
theorem wit_ScratchpadAndConstantLoads_bytes :
    (∃ x, transl atZero.s atZero.T.core 1 0x10000 = .error x) ∧
    (transl noRights.s noRights.T.core 1 0x4000 = .ok (pageOf false false) ∧ (pageOf false false).rd = false) ∧
    ((transl badGranule.s badGranule.T.core 1 0x4000).toOption.map (fun e => (e.rd, leafPa e 0x4000)) = some (true, 0x104000) ∧
      homeAddr badGranule.s 1 0x4000 0x104000 = 0x104000 ∧ granulePoisoned badGranule.s (0x104000 / 32) = true) ∧
    (let e : ResEntry := { kind := .const, base := 0x4000, size := 64 }
     (60 + 3 < e.size ∧ ¬(60 + 4 < e.size)) ∧ (transl atZero.s atZero.T.core 1 0x403C).toOption.map TlbEnt.rd = some true ∧
     granulePoisoned atZero.s (0x10403C / 32) = false) :=
  ⟨⟨.xlateNotMapped, by decide +kernel⟩, ⟨by decide +kernel, rfl⟩, ⟨by decide +kernel, by decide +kernel, by decide +kernel⟩,
    ⟨by decide, by decide +kernel, by decide +kernel⟩⟩

/-- Pages of a claim: one that is not mapped behind one that is, one that lacks a right, and one that passes. -/
theorem wit_FencesCacheAndClaimWords_pages :
    (translatePieces atZero.s 0 1 0 [(0, 2 ^ 16), (0x10000, 2 ^ 16)]).2.map (fun q => q.2.2.toOption.isSome) = [true, false] ∧
    (translatePieces noRights.s 0 1 0 [(0, 2 ^ 16)]).2.map (fun q => q.2.2.toOption.map TlbEnt.wr) = [some false] ∧
    (translatePieces atZero.s 0 1 0 [(0, 2 ^ 16)]).2.map (fun q => q.2.2.toOption.map (fun e => (e.rd, e.wr, e.mt))) =
      [some (true, true, .cached)] := by decide +kernel

/-! ## Copy words -/

def entryOf (n : Nat) : ResEntry := (readEntry atZero.s atZero.i.T n).toOption.getD {}

theorem entry_ok : ∀ n ∈ [0, 1, 2, 3, 4, 5], readEntry atZero.s atZero.i.T n = .ok (entryOf n) := by decide +kernel

/-- A tile copy with an aligned window offset, and with one that is not; a block copy; a gather of a tensor. -/
theorem wit_TileBlockAndRowCopies :
    CopyTurn atZero.s atZero.i .cpytLd wordCtl { plainE with ridx := 1 } 0 ⟨0, 0, 0⟩ ∧
    readEntry atZero.s atZero.i.T 1 = .ok (entryOf 1) ∧ tensorOk (entryOf 1) = true ∧ 2 ≤ (entryOf 1).rank ∧ (entryOf 1).sp = false ∧
    (let b : Bench := { r := 8 }; CopyTurn b.s b.i .cpytSt wordCtl { plainE with ridx := 1 } 0 ⟨0, 8, 0⟩ ∧ w32 8 % 16 ≠ 0) ∧
    CopyTurn atZero.s atZero.i .cpybLd wordCtl { plainE with imm32 := 16384 } 0 ⟨0, 0, 0⟩ ∧
    readEntry atZero.s atZero.i.T 0 = .ok (entryOf 0) ∧ (entryOf 0).kind = .buffer ∧ (16384 : BitVec 32).toNat ≤ atZero.i.T.spBytes ∧
    CopyTurn atZero.s atZero.i .cpyg wordCtl { plainE with ridx := 1, imm32 := 3 } 0 ⟨0, 0, 0⟩ ∧
    (let r : CopyReq := { request atZero.i wordCtl { plainE with ridx := 1 } .gather (entryOf 1) with row := 0, sp := 0, count := 4 }
     spLen r ≤ atZero.i.T.spBytes ∧ (firstOf (resInWindow atZero.i.T r)).isNone = true) :=
  ⟨atZero.copy (by decide +kernel) rfl (by decide +kernel), entry_ok 1 (by decide), by decide +kernel, by decide +kernel,
    by decide +kernel, ⟨Bench.copy _ (by decide +kernel) rfl (by decide +kernel), by decide +kernel⟩,
    atZero.copy (by decide +kernel) rfl (by decide +kernel), entry_ok 0 (by decide), by decide +kernel, by decide +kernel,
    atZero.copy (by decide +kernel) rfl (by decide +kernel), by decide +kernel, by decide +kernel⟩

/-- More entries of the bench's table: a shadowed buffer (7), and two tensors in the window, one of which runs past its end from
row 1 on (8, 9). The window's first word is 1. -/
def moreMem : List Host.Cell :=
  [(0x1011C0, 2, 0x201), (0x1011D0, 8, 0x6000), (0x1011D8, 8, 0x7000), (0x1011E0, 8, 0x400),
   (0x101200, 8, 0x30302040102), (0x101210, 8, 0), (0x101220, 8, 0x800000008), (0x101228, 8, 32),
   (0x101240, 8, 0x30302040102), (0x101250, 8, 0x3FF0), (0x101260, 8, 0x800000008), (0x101268, 8, 32)].foldl
    (fun m x => memSetNum m x.1 x.2.1 x.2.2) benchMem

def moreTeam : Bench :=
  { state := fun s => { s with mem := moreMem, cores := [(0, { scratch := [(0, 1)] })] }
    team := fun T => { T with lrec := { T.lrec with rcount := 10 }, views := [⟨6, 0, 64, {}⟩] } }

def moreEntry (n : Nat) : ResEntry := (readEntry moreTeam.s moreTeam.i.T n).toOption.getD {}

theorem more_ok : ∀ n ∈ [7, 8, 9], readEntry moreTeam.s moreTeam.i.T n = .ok (moreEntry n) := by decide +kernel

/-- A shadowed tile copy into a view, and one that no view holds; a shadowed row copy whose tensor runs past its resource. -/
theorem wit_TileBlockAndRowCopies_shadowed :
    (let p : FmtE := { plainE with ridx := 1, mode := 8 }
     let r : CopyReq := { request moreTeam.i wordCtl p .tileLd (entryOf 1) with coords := [0, 0, 0, 0] }
     CopyTurn moreTeam.s moreTeam.i .cpytLd wordCtl p 0 ⟨0, 0, 0⟩ ∧ r.sh = true ∧
     ((shView moreTeam.s moreTeam.i r).map Prod.snd) = some (.scratch 0 0) ∧
     shView moreTeam.s moreTeam.i { r with sp := 16 } = none) ∧
    (let r : CopyReq := { request moreTeam.i wordCtl plainE .tileSt { entryOf 1 with size := 16 } with coords := [0, 0, 0, 0] }
     loadsSp r = false ∧ r.res.sp = false ∧ r.res.size < (resBounds (startCopy moreTeam.s moreTeam.i.T r)).2) :=
  ⟨⟨moreTeam.copy (by decide +kernel) rfl (by decide +kernel), by decide +kernel, by decide +kernel, by decide +kernel⟩,
    by decide +kernel, by decide +kernel, by decide +kernel⟩

/-- Row copies of a tensor in the window: rows that lie in it, and one that runs past its end. -/
theorem wit_TileBlockAndRowCopies_window :
    (let r : CopyReq := { request moreTeam.i wordCtl { plainE with ridx := 8 } .gather (moreEntry 8) with count := 1 }
     CopyTurn moreTeam.s moreTeam.i .cpyg wordCtl { plainE with ridx := 8 } 0 ⟨0, 0, 0⟩ ∧ (moreEntry 8).sp = true ∧ tensorOk (moreEntry 8) = true ∧
     2 ≤ (moreEntry 8).rank ∧ 4 * 1 ≤ moreTeam.i.T.spBytes ∧ spLen r ≤ moreTeam.i.T.spBytes ∧ readList moreTeam.s moreTeam.i.T r = [1] ∧
     ¬(moreTeam.i.T.spBytes < (moreEntry 8).base + 1 * strideAt (moreEntry 8) 1 + 16)) ∧
    (let r : CopyReq := { request moreTeam.i wordCtl { plainE with ridx := 9 } .scatter (moreEntry 9) with count := 1 }
     CopyTurn moreTeam.s moreTeam.i .cpys wordCtl { plainE with ridx := 9 } 0 ⟨0, 0, 0⟩ ∧ (moreEntry 9).sp = true ∧
     readList moreTeam.s moreTeam.i.T r = [1] ∧ 1 < dimAt (moreEntry 9) 1 ∧
     min (boxAt (moreEntry 9) 0) (dimAt (moreEntry 9) 0) * (moreEntry 9).esize = 16 ∧
     moreTeam.i.T.spBytes < (moreEntry 9).base + 1 * strideAt (moreEntry 9) 1 + 16) :=
  ⟨⟨moreTeam.copy (by decide +kernel) rfl (by decide +kernel), by decide +kernel, by decide +kernel, by decide +kernel,
      by decide +kernel, by decide +kernel, by decide +kernel, by decide +kernel⟩,
    moreTeam.copy (by decide +kernel) rfl (by decide +kernel), by decide +kernel, by decide +kernel, by decide +kernel,
    by decide +kernel, by decide +kernel⟩

/-- A copy word behind an acquire, without a leader, and at a full queue. -/
def fullQueue : Bench :=
  { state := fun s => { s with cores := [(0, { copyQ := List.replicate 32 (request atZero.i wordCtl plainE .bufLd {}) })] } }

theorem wit_OtherCopyWords_waits :
    (Turn acquiring.s acquiring.i .cpybLd wordCtl (.e plainE) ∧ ¬NoAcquire acquiring.s acquiring.i) ∧
    (Turn nulled.s nulled.i .cpybLd wordCtl (.e plainE) ∧ NoAcquire nulled.s nulled.i ∧ atLanes nulled.i .cpybLd wordCtl (.e plainE) = []) ∧
    (Turn fullQueue.s fullQueue.i .cpybLd wordCtl (.e plainE) ∧ NoAcquire fullQueue.s fullQueue.i ∧
      atLanes fullQueue.i .cpybLd wordCtl (.e plainE) ≠ [] ∧ 32 ≤ (getCore fullQueue.s fullQueue.i.T.core).copyQ.length) :=
  ⟨⟨acquiring.turn (by decide +kernel), acquiring_waits⟩,
    ⟨nulled.turn (by decide +kernel), nulled.free rfl rfl, by decide +kernel⟩,
    ⟨fullQueue.turn (by decide +kernel), fullQueue.free rfl rfl, by decide +kernel, by decide +kernel⟩⟩

/-- A shadowed CRED into a view, past its end, and into a resource that names none. -/
theorem wit_OtherCopyWords_cred :
    (let p : FmtE := { plainE with ridx := 7, mode := 8, imm32 := 63 }
     CopyTurn moreTeam.s moreTeam.i .cred wordCtl p 0 ⟨0, 0, 0⟩ ∧ p.mode.getLsbD 3 = true ∧ readEntry moreTeam.s moreTeam.i.T 7 = .ok (moreEntry 7) ∧
     (moreEntry 7).kind = .buffer ∧ (moreEntry 7).sp = false ∧ 0 + 64 * 16 ≤ (moreEntry 7).size ∧ ¬(0 + 65 * 16 ≤ (moreEntry 7).size) ∧
     ((entryView true moreTeam.s 1 0 moreTeam.i.T 7 (moreEntry 7)).map Prod.snd) = some (.global 1 0x6000)) ∧
    ((entryOf 0).kind = .buffer ∧ (entryOf 0).sp = false ∧ entryView true atZero.s 1 0 atZero.i.T 0 (entryOf 0) = none) :=
  ⟨⟨moreTeam.copy (by decide +kernel) rfl (by decide +kernel), by decide, more_ok 7 (by decide), by decide +kernel, by decide +kernel,
      by decide +kernel, by decide +kernel, by decide +kernel⟩, by decide +kernel, by decide +kernel, by decide +kernel⟩

/-- Requests into a scratchpad view: one published, one under way with its token, and two of saved teams, one complete. -/
def cancelBench : Bench :=
  let q : CopyReq := { request atZero.i { wordCtl with sbset := 9 } plainE .bufLd {} with sh := true, view := some (.scratch 0 0) }
  { team := fun T => { T with views := [⟨6, 0, 64, { count := 2, dirty := true }⟩] }
    unit := fun w => { w with toks := [(1, { state := .pending, copy := true, req := 8 })] }
    state := fun s => { s with
      cores := [(0, { copyQ := [{ q with id := 7, phase := .published }, { q with id := 8 }] })]
      creds := [⟨{ q with id := 9, kind := .cred }, 1, none⟩, ⟨{ q with id := 10, kind := .cred, ap := true, phase := .landed }, 1, some .complete⟩] } }

theorem wit_CancelledCopies :
    tabWf {} cancelBench.s.cores = true ∧ tabWf {} cancelBench.s.tenants = true ∧
    (getView cancelBench.s (.scratch 0 0)).map ViewSt.dirty = some true ∧
    (∃ z ∈ cancelBench.s.creds, z.copy.view = some (.scratch 0 0) ∧ z.outcome = none) ∧
    (∃ z ∈ cancelBench.s.creds, z.copy.view = some (.scratch 0 0) ∧ z.outcome = some .complete ∧ z.copy.ap = true ∧ z.copy.phase ≠ .published) ∧
    ((findCopy cancelBench.s 0 7).map (fun r => (r.view, r.kind, r.phase)) = some (some (.scratch 0 0), .bufLd, .published) ∧
      ∀ q ∈ (getCore cancelBench.s 0).copyQ, q.id = 7 → some q = findCopy cancelBench.s 0 7) ∧
    ((findCopy cancelBench.s 0 8).map (fun r => (r.phase, copyFinished cancelBench.s 0 r, r.sb)) = some (.running, false, some 1) ∧
      (getTok cancelBench.w 1).req = 8 ∧ tokBusy 0 (getTok cancelBench.w 1) = true ∧ tabWf {} cancelBench.w.toks = true) := by decide +kernel

def matTeam : Bench :=
  { state := fun s => { s with cores := [(0, { mat := { holder := some 0, rampL := 4 } })] }, unit := fun w => { w with role := .matrix } }

/-- A team with a scratchpad view over entry 6, and one with a port and a group of collectives. -/
def viewTeam : Bench := { team := fun T => { T with views := [⟨6, 0, 64, { count := 1 }⟩] } }

def linked : Bench :=
  { state := fun s => { s with tenants := s.tenants.map (fun x => (x.1, { x.2 with cfg := { x.2.cfg with ports := [3], groups := [(2, 4)] } })) } }

/-- The window copies of the accumulator with and without its engine; the scale-out copies with and without the port; CRED of an
installed group and of another; TOKQ of each kind of token. -/
theorem wit_OtherCopyWords :
    (let p : FmtE := { plainE with imm32 := 0x1F0000 }
     CopyTurn matTeam.s matTeam.i .cpyaccOut wordCtl p 0 ⟨0, 0, 0⟩ ∧ (getCore matTeam.s 0).mat.holder = some matTeam.i.t ∧
     0 + 512 * 32 ≤ matTeam.i.T.spBytes ∧ (∀ k ∈ (getCore matTeam.s 0).mat.chains, chainTouches k 0 32 = false) ∧
     CopyTurn atZero.s atZero.i .cpyaccIn wordCtl p 0 ⟨0, 0, 0⟩ ∧ (getCore atZero.s 0).mat.holder ≠ some atZero.i.t) ∧
    (let p : FmtE := { plainE with imm32 := BitVec.ofNat 32 (3 * 2 ^ 27 + 16) }
     CopyTurn linked.s linked.i .cpyrGet wordCtl p 0 ⟨0, 0, 0⟩ ∧ readEntry linked.s linked.i.T 0 = .ok (entryOf 0) ∧
     (getTenant linked.s 1).cfg.ports.contains 3 = true ∧
     CopyTurn atZero.s atZero.i .cpyrPut wordCtl p 0 ⟨0, 0, 0⟩ ∧ (getTenant atZero.s 1).cfg.ports.contains 3 = false ∧
     (entryOf 0).kind = .buffer ∧ (entryOf 0).sp = false) ∧
    (let p : FmtE := { plainE with imm32 := BitVec.ofNat 32 (2 * 2 ^ 24) }
     CopyTurn linked.s linked.i .cred wordCtl p 0 ⟨0, 0, 0⟩ ∧ (getTenant linked.s 1).cfg.groups.any (fun y => y.1 == 2) = true ∧
     CopyTurn atZero.s atZero.i .cred wordCtl p 0 ⟨0, 0, 0⟩ ∧ (getTenant atZero.s 1).cfg.groups.any (fun y => y.1 == 2) = false) ∧
    Turn atZero.s atZero.i .tokq { wordCtl with ty := .b128 } (.e plainE) :=
  ⟨⟨matTeam.copy (by decide +kernel) rfl (by decide +kernel), by decide +kernel, by decide +kernel, by decide +kernel,
      atZero.copy (by decide +kernel) rfl (by decide +kernel), by decide +kernel⟩,
    ⟨linked.copy (by decide +kernel) rfl (by decide +kernel), by decide +kernel, by decide +kernel,
      atZero.copy (by decide +kernel) rfl (by decide +kernel), by decide +kernel, by decide +kernel, by decide +kernel⟩,
    ⟨linked.copy (by decide +kernel) rfl (by decide +kernel), by decide +kernel,
      atZero.copy (by decide +kernel) rfl (by decide +kernel), by decide +kernel⟩, atZero.turn (by decide +kernel)⟩

/-- A team one of whose barriers has had an arrival in this cycle, and a request of it with NB. -/
def arrivedTeam (f : Team → Team) : Bench := { team := fun T => { f T with bars := [(3, { arrivedAt := 1 })] } }

theorem arrived_now (f : Team → Team) : ArrivedNow (arrivedTeam f).s 0 3 := ⟨_, rfl, rfl⟩

/-- A CRED of a group that is not installed, with NB at that barrier, and a CPYCAN of a view that owes it bytes; and a CPYCAN and a CRED
with nothing to take. -/
theorem wit_OtherCopyWords_late :
    (let p : FmtE := { plainE with mode := 4, aux8 := 0x30, imm32 := BitVec.ofNat 32 (2 * 2 ^ 24) }
     let b := arrivedTeam id
     CopyTurn b.s b.i .cred wordCtl p 0 ⟨0, 0, 0⟩ ∧ (getTenant b.s 1).cfg.groups.any (fun y => y.1 == 2) = false ∧
     BytesLate b.s (request b.i wordCtl p .cred (entryOf 0))) ∧
    ¬BytesLate atZero.s (request atZero.i wordCtl plainE .cred (entryOf 0)) ∧
    (let b := arrivedTeam (fun T => { T with views := [⟨6, 0, 64, { unpub := [(0, 3, 16)] }⟩] })
     CopyTurn b.s b.i .cpycan wordCtl { plainE with ridx := 6 } 0 ⟨0, 0, 0⟩ ∧
     ((namedView true b.s b.i { plainE with ridx := 6 }).toOption.map Prod.snd) = some (.scratch 0 0) ∧ CancelLate b.s (.scratch 0 0)) ∧
    ¬CancelLate viewTeam.s (.scratch 0 0) := by
  refine ⟨⟨Bench.copy _ (by decide +kernel) rfl (by decide +kernel), by decide +kernel, 3, by decide +kernel, arrived_now id⟩, ?_,
    ⟨Bench.copy _ (by decide +kernel) rfl (by decide +kernel), by decide +kernel,
      .inr ⟨_, rfl, (0, 3, 16), List.mem_singleton.mpr rfl, arrived_now _⟩⟩, ?_⟩
  · rintro ⟨b, h, -⟩
    exact absurd h (by simp [request, plainE])
  · rintro (⟨core, r, h, -⟩ | ⟨x, h, y, hy, -⟩)
    · have h0 : cancelled viewTeam.s (.scratch 0 0) = [] := by decide +kernel
      rw [h0] at h; exact List.not_mem_nil h
    · have h0 : (getView viewTeam.s (.scratch 0 0)).map ViewSt.unpub = some [] := by decide +kernel
      rw [h] at h0
      simp only [Option.map_some, Option.some.injEq] at h0
      rw [h0] at hy; exact List.not_mem_nil hy

/-- PUBL and CPYCAN of a view that counts a request. -/
theorem wit_OtherCopyWords_views :
    CopyTurn viewTeam.s viewTeam.i .publ wordCtl { plainE with ridx := 6 } 0 ⟨0, 0, 0⟩ ∧ CopyTurn viewTeam.s viewTeam.i .cpycan wordCtl { plainE with ridx := 6 } 0 ⟨0, 0, 0⟩ ∧
    (∀ b, (namedView b viewTeam.s viewTeam.i { plainE with ridx := 6 }).toOption.isSome = true) :=
  ⟨viewTeam.copy (by decide +kernel) rfl (by decide +kernel), viewTeam.copy (by decide +kernel) rfl (by decide +kernel), by decide +kernel⟩

theorem wit_CopyAcceptance : issCtx atZero.s = some atZero.i ∧ tabWf {} atZero.s.cores = true ∧
    (let r := request atZero.i { wordCtl with sbset := 9 } plainE .bufLd {}
     r.team = atZero.i.t ∧ r.unit = atZero.i.u ∧ r.sb = some 1) ∧ tabWf {} atZero.i.w.toks = true ∧
    (let r := { (request viewTeam.i { wordCtl with sbset := 9 } plainE .bufLd {}) with sh := true, view := some (.scratch 0 0) }
     r.sh = true ∧ r.view = some (.scratch 0 0) ∧ (getView viewTeam.s (.scratch 0 0)).map ViewSt.count = some 1) := by
  exact ⟨atZero.ctx, by decide +kernel, by decide +kernel, by decide +kernel, by decide +kernel⟩

end Sys2Proof.Tests
end

