-- ==== Sys2Proof/Tests/Witness3.lean ====
section
/-! SUPPORT. Witnesses for the statements about matrix, grid, stream, synchronisation and system words. -/

namespace Sys2Proof.Tests

set_option Elab.async false

open Sys2Proof Sys2Proof.Machine Sys2Proof.Claims

/-! ## Matrix words -/

/-- A team that holds the matrix engine: tile 0 loaded, one open chain at row 0 of 16 × 16 that unit 0 owns. -/
def chained : Bench :=
  { state := fun s => { s with cores := [(0, { mat := { holder := some 0, tiles := [(0, { issued := true, efmt := .f32, k := 16, n := 16 })], chains := [{ base := 0, m := 16, n := 16, slot := 0, owner := 0 }] } })] } }

/-- A predicate that a null operand leaves unmet. -/
def ifTrueCtl : Ctl := { wordCtl with pm := .ifTrue }

def chainedI8 : Bench := { chained with team := fun T => { T with lrec := { T.lrec with slots := [{ efmt := .s8 }] } } }

def rowsAt (n : Nat) : FmtE := { plainE with ridx := 2, imm32 := BitVec.ofNat 32 n }

/-- The resource entry of a number is a shape entry, and is this one. -/
def readsShape (s : State) (i : Iss) (idx : Nat) (e : ResEntry) : Bool :=
  match shapeRes s i idx with
  | .ok e' => decide (e' = e)
  | .error _ => false

theorem shape_read {s : State} {i : Iss} {idx : Nat} {e : ResEntry} : readsShape s i idx e = true → shapeRes s i idx = .ok e := by
  unfold readsShape
  split <;> simp_all

/-- CHB beside the open chain, over it, out of place, and with another format; CHE of the owner's chain and of none; ACCZ of
free rows and past the last row. -/
theorem wit_ChainWords :
    MatTurn chained.s chained.i .chb wordCtl (rowsAt 64) 0 ⟨0, 0, 0⟩ ∧ (issSlot chained.i 0).efmt = .f32 ∧
    (rowField (rowsAt 64) % (4 * extent (rowsAt 64) 9) = 0 ∧ rowField (rowsAt 64) + 4 * extent (rowsAt 64) 9 ≤ 512) ∧
    (getMat chained.s 0).chains.length < 4 ∧ NoChainAt (getMat chained.s 0) 64 64 ∧
    MatTurn chained.s chained.i .chb wordCtl (rowsAt 0) 0 ⟨0, 0, 0⟩ ∧ ¬NoChainAt (getMat chained.s 0) 0 64 ∧
    MatTurn chained.s chained.i .chb wordCtl (rowsAt 32) 0 ⟨0, 0, 0⟩ ∧ 32 % 64 ≠ 0 ∧
    MatTurn chainedI8.s chainedI8.i .chb wordCtl (rowsAt 64) 0 ⟨0, 0, 0⟩ ∧ (issSlot chainedI8.i 0).efmt = .s8 ∧
    MatTurn chained.s chained.i .che wordCtl (rowsAt 0) 0 ⟨0, 0, 0⟩ ∧ (ownChain chained.s chained.i 0).isSome = true ∧
    ownChain chained.s chained.i 64 = none ∧
    MatTurn chained.s chained.i .accz wordCtl (rowsAt (64 + 2 ^ 16)) 0 ⟨0, 0, 0⟩ ∧ NoChainAt (getMat chained.s 0) 64 2 ∧
    64 + countField (rowsAt (64 + 2 ^ 16)) ≤ 512 ∧ 512 < 511 + countField (rowsAt (511 + 2 ^ 16)) :=
  ⟨chained.mat (by decide +kernel) (by decide +kernel), by decide +kernel, by decide +kernel, by decide +kernel, by unfold NoChainAt; decide +kernel,
    chained.mat (by decide +kernel) (by decide +kernel), by unfold NoChainAt; decide +kernel, chained.mat (by decide +kernel) (by decide +kernel),
    by decide, chainedI8.mat (by decide +kernel) (by decide +kernel), by decide +kernel,
    chained.mat (by decide +kernel) (by decide +kernel), by decide +kernel, by decide +kernel,
    chained.mat (by decide +kernel) (by decide +kernel), by unfold NoChainAt; decide +kernel, by decide +kernel, by decide +kernel⟩

/-- The engine with a full queue, whose entries touch rows 64 to 67, and with one chain open at row 0. -/
def busyRows : Bench :=
  { state := fun s => { s with cores := [(0, { mat := { holder := some 0, chains := [{ base := 0, m := 16, n := 16, slot := 0, owner := 0 }], queue := (List.range 4).map (fun n => { id := n, team := 0, unit := 0, kind := .accz, sb := none, slot := {}, row := 16 * n, rows := 66 }) } })] } }

def nulledMat : Bench := { chained with flight := nulled.flight }

/-- Queued words without a leader and at a full queue. -/
theorem wit_ChainWords_waits :
    (∀ o ∈ [Op.chb, .che, .mma, .wbld, .wbldT, .accz, .drain], Turn nulledMat.s nulledMat.i o ifTrueCtl (.e (rowsAt 0)) ∧
      atLanes nulledMat.i o ifTrueCtl (.e (rowsAt 0)) = []) ∧
    (∀ o ∈ [Op.chb, .che, .mma, .wbld, .wbldT, .accz, .drain], Turn busyRows.s busyRows.i o wordCtl (.e (rowsAt 0)) ∧
      atLanes busyRows.i o wordCtl (.e (rowsAt 0)) ≠ []) ∧ 4 ≤ (getMat busyRows.s 0).queue.length := by
  refine ⟨fun o ho => ?_, fun o ho => ?_, by decide +kernel⟩ <;>
    simp only [List.mem_cons, List.not_mem_nil, or_false] at ho <;>
    rcases ho with rfl | rfl | rfl | rfl | rfl | rfl | rfl <;>
    exact ⟨Bench.turn _ (by decide +kernel), by decide +kernel⟩

/-- Accumulator words without a leader, and on rows that queued instructions touch. -/
theorem wit_AccumulatorWords_waits :
    (∀ o ∈ [Op.accrd, .accwr, .accwrd, .accwwr], Turn nulledMat.s nulledMat.i o ifTrueCtl (.e (rowsAt 64)) ∧
      atLanes nulledMat.i o ifTrueCtl (.e (rowsAt 64)) = []) ∧
    (Turn busyRows.s busyRows.i .accrd n32 (.e (rowsAt 64)) ∧ NoChainAt (getMat busyRows.s 0) 64 1 ∧ rowsFree (getCore busyRows.s 0) 64 1 = false) ∧
    (Turn busyRows.s busyRows.i .accwwr wordCtl (.e (rowsAt 0)) ∧ (ownChain busyRows.s busyRows.i 0).map Chain.m = some 16 ∧
      rowsFree (getCore busyRows.s 0) 0 64 = false) := by
  refine ⟨fun o ho => ?_, ⟨Bench.turn _ (by decide +kernel), by unfold NoChainAt; decide +kernel, by decide +kernel⟩,
    Bench.turn _ (by decide +kernel), by decide +kernel, by decide +kernel⟩
  simp only [List.mem_cons, List.not_mem_nil, or_false] at ho
  rcases ho with rfl | rfl | rfl | rfl <;> exact ⟨Bench.turn _ (by decide +kernel), by decide +kernel⟩

def shape2 : ResEntry := (shapeRes chained.s chained.i 2).toOption.getD {}

/-- MMA on the open chain and without one; WBLD of a tile that fits and one past the buffer; DRAIN of rows at rest. -/
theorem wit_MatrixMultiplyAndTiles :
    MatTurn chained.s chained.i .mma wordCtl (rowsAt 0) 0 ⟨0, 0, 0⟩ ∧ shapeRes chained.s chained.i 2 = .ok shape2 ∧
    elemFmt .f32 = true ∧ (tabGet {} (getMat chained.s 0).tiles 0).issued = true ∧
    (ownChain chained.s chained.i 0).map (fun k => (k.n, k.m, k.mmas)) = some (16, 16, 0) ∧
    shapeFaults chained.i.T shape2 0 (elemSize .f32) 16 16 = [] ∧
    MatTurn chained.s chained.i .mma wordCtl (rowsAt 64) 0 ⟨0, 0, 0⟩ ∧ ownChain chained.s chained.i 64 = none ∧
    MatTurn chained.s chained.i .mma wordCtl { rowsAt 0 with aux8 := 1 } 0 ⟨0, 0, 0⟩ ∧
    (tabGet {} (getMat chained.s 0).tiles 1).issued = false ∧
    MatTurn chained.s chained.i .wbld wordCtl (rowsAt 0) 0 ⟨0, 0, 0⟩ ∧ MatTurn chained.s chained.i .wbldT wordCtl (rowsAt 4095) 0 ⟨0, 0, 0⟩ ∧
    (16 * 16 * elemSize .f32 + 16 * 16 / 8 + 63) / 64 = 17 ∧
    MatTurn chained.s chained.i .drain wordCtl (rowsAt 64) 0 ⟨0, 0, 0⟩ ∧ drainFmt .f32 = true ∧ NoChainAt (getMat chained.s 0) 64 16 :=
  ⟨chained.mat (by decide +kernel) (by decide +kernel), shape_read (by decide +kernel), by decide, by decide +kernel, by decide +kernel,
    by decide +kernel, chained.mat (by decide +kernel) (by decide +kernel), by decide +kernel,
    chained.mat (by decide +kernel) (by decide +kernel), by decide +kernel, chained.mat (by decide +kernel) (by decide +kernel),
    chained.mat (by decide +kernel) (by decide +kernel), by decide, chained.mat (by decide +kernel) (by decide +kernel), by decide,
    by unfold NoChainAt; decide +kernel⟩

/-- A DRAIN with a residual input. -/
theorem wit_MatrixMultiplyAndTiles_residual :
    (let p : FmtE := { rowsAt (64 + 2 * 2 ^ 16) with mode := 16 }
     MatTurn chained.s chained.i .drain wordCtl p 0 ⟨0, 0, 0⟩ ∧ p.mode.getLsbD 4 = true ∧ p.imm32.toNat / 2 ^ 16 = 2 ∧
     shapeRes chained.s chained.i 2 = .ok shape2 ∧ rowField p = 64 ∧ shapeFaults chained.i.T shape2 0 (elemSize .f32) 16 16 = []) :=
  ⟨chained.mat (by decide +kernel) (by decide +kernel), by decide, by decide, shape_read (by decide +kernel), by decide +kernel,
    by decide +kernel⟩

/-- The accumulator words: a row at rest, a row of the chain, a row past the store; wide rows in and past the chain. -/
theorem wit_AccumulatorWords :
    (Turn chained.s chained.i .accrd n32 (.e (rowsAt 64)) ∧ ∃ rest, atLanes chained.i .accrd n32 (.e (rowsAt 64)) = (0, ⟨0, 0, 0⟩) :: rest) ∧
    NoChainAt (getMat chained.s 0) 64 1 ∧ rowsFree (getCore chained.s 0) 64 1 = true ∧ ¬NoChainAt (getMat chained.s 0) 3 1 ∧
    (let p := { rowsAt 511 with mode := 2 }; 511 < rowField p + loOf p ⟨1, 0, 0⟩) ∧
    (Turn chained.s chained.i .accwr n32 (.e (rowsAt 64)) ∧ ∃ rest, atLanes chained.i .accwr n32 (.e (rowsAt 64)) = (0, ⟨0, 0, 0⟩) :: rest) ∧
    (Turn chained.s chained.i .accwrd wordCtl (.e (rowsAt 0)) ∧ ∃ rest, atLanes chained.i .accwrd wordCtl (.e (rowsAt 0)) = (0, ⟨0, 0, 0⟩) :: rest) ∧
    (Turn chained.s chained.i .accwwr wordCtl (.e (rowsAt 0)) ∧ ∃ rest, atLanes chained.i .accwwr wordCtl (.e (rowsAt 0)) = (0, ⟨0, 0, 0⟩) :: rest) ∧
    (ownChain chained.s chained.i 0).map Chain.m = some 16 ∧ rowsFree (getCore chained.s 0) 0 64 = true ∧
    16 ≤ ((rowsAt (16 * 2 ^ 16)).imm32.extractLsb' 16 7).toNat :=
  ⟨chained.lead (by decide +kernel), by unfold NoChainAt; decide +kernel, by decide +kernel, by unfold NoChainAt; decide +kernel, by decide +kernel,
    chained.lead (by decide +kernel), chained.lead (by decide +kernel), chained.lead (by decide +kernel), by decide +kernel,
    by decide +kernel, by decide +kernel⟩

/-- Two products into one element in both orders. -/
theorem wit_ChainSumsAreOrderFree :
    tabWf 0 ({} : Matrix).acc = true ∧ [(0, 127, some (5 : Int)), (0, 127, none)].Perm [(0, 127, none), (0, 127, some 5)] ∧
    (∀ y ∈ [(0, 127, some (5 : Int)), (0, 127, none)], y.1 % 4 = 0 ∧ y.2.1 < 128) :=
  ⟨by decide, List.Perm.swap _ _ _, by decide⟩

/-! ## Grid and stream words -/

def gridTeam (g : Grid) : Bench :=
  { state := fun s => { s with cores := [(0, { grid := { g with holder := some 0 } })] }, unit := fun w => { w with role := .grid } }

def image1 : GridImage := ⟨1, 0, 1, [⟨0, 0, 0, 0, 1⟩], [], [], {}, 0, none⟩
def idle : Bench := gridTeam {}
def active : Bench := gridTeam { gen := 1, active := some image1 }
def staged : Bench := gridTeam { gen := 1, staged := some image1 }
def fullEng : Bench := gridTeam { engs := [(0, { cmds := (List.range 16).map (fun n => ⟨n, 0, .close, none, 0, 0, 0⟩) })] }

/-- GCFG with nothing staged and with a staged image; the commands with the generation active, staged and none. -/
theorem wit_GridWords :
    (∀ b ∈ [idle, staged], GridTurn b.s b.i .gcfg wordCtl { plainE with ridx := 5 } 0 ⟨0, 0, 0⟩) ∧
    (readEntry idle.s idle.i.T 5).toOption.map ResEntry.kind = some .gridimg ∧
    (getGrid idle.s 0).staged = none ∧ (getGrid idle.s 0).staging = none ∧ (getGrid staged.s 0).staged ≠ none ∧
    (∀ b ∈ [idle, active, staged], ∀ o ∈ [Op.grun, .gframe, .lctx, .gstop, .gwait, .gqry], GridTurn b.s b.i o wordCtl plainE 0 ⟨0, 0, 0⟩) ∧
    (getGrid active.s 0).active.map GridImage.gen = some (getGrid active.s 0).gen ∧ (getGrid active.s 0).gen ≠ 0 ∧
    (getGrid staged.s 0).staged.map GridImage.gen = some (getGrid staged.s 0).gen ∧ (getGrid idle.s 0).active = none := by
  refine ⟨fun b hb => ?_, by decide +kernel, by decide +kernel, by decide +kernel, by decide +kernel, fun b hb o ho => ?_,
    by decide +kernel, by decide +kernel, by decide +kernel, by decide +kernel⟩
  · simp only [List.mem_cons, List.not_mem_nil, or_false] at hb
    rcases hb with rfl | rfl <;> exact Bench.grid _ 0 (by decide +kernel) (by decide +kernel)
  · simp only [List.mem_cons, List.not_mem_nil, or_false] at hb ho
    rcases hb with rfl | rfl | rfl <;> rcases ho with rfl | rfl | rfl | rfl | rfl | rfl <;>
      exact Bench.grid _ 0 (by decide +kernel) (by decide +kernel)

/-- The stream words with room in the engine's queue, and with a full one. -/
theorem wit_StreamWords :
    (∀ b ∈ [idle, fullEng], ∀ o ∈ [Op.strmo, .strma, .strmb, .strmc, .strmq], GridTurn b.s b.i o wordCtl plainE 0 ⟨0, 0, 0⟩) ∧
    (readEntry idle.s idle.i.T 0).toOption.map ResEntry.kind = some .buffer ∧
    (getEng (getGrid idle.s 0) 0).cmds.length < 16 ∧ 16 ≤ (getEng (getGrid fullEng.s 0) 0).cmds.length := by
  refine ⟨fun b hb o ho => ?_, by decide +kernel, by decide +kernel, by decide +kernel⟩
  simp only [List.mem_cons, List.not_mem_nil, or_false] at hb ho
  rcases hb with rfl | rfl <;> rcases ho with rfl | rfl | rfl | rfl | rfl <;>
    exact Bench.grid _ 0 (by decide +kernel) (by decide +kernel)

/-- LCTX on a context that no region of the active image uses; a list of two grid contexts. -/
theorem wit_RegionsAndGridOperations :
    tabWf {} (getGrid active.s 0).ctxs = true ∧
    (∀ a, (getGrid active.s 0).active = some a → ∀ d ∈ a.regions, 4 * d.page + d.ctx ≠ 5) := by
  refine ⟨by decide +kernel, fun a ha => ?_⟩
  have : a = image1 := by
    have : (getGrid active.s 0).active = some image1 := by decide +kernel
    rw [this] at ha
    exact (Option.some.inj ha).symm
  subst this
  decide

/-- LCTX on the context of the active image's region: completed with iterations left, still running, and stopped. -/
def withCtx (c : LoopCtx) (stop : Bool) : Grid := { gen := 1, active := some image1, ctxs := [(0, c)], stopped := stop }

theorem wit_RegionsAndGridOperations_used :
    image1.regions = [] ++ ⟨0, 0, 0, 0, 1⟩ :: [] ∧ 4 * (⟨0, 0, 0, 0, 1⟩ : RegDesc).page + (⟨0, 0, 0, 0, 1⟩ : RegDesc).ctx = 0 ∧
    (∀ c stop, (c, stop) ∈ [(({ completed := true } : LoopCtx), false), ({ remaining := 1 }, false), ({ completed := true }, true)] →
      (withCtx c stop).active = some image1 ∧ tabWf {} (withCtx c stop).ctxs = true ∧
      tabGet {} (withCtx c stop).ctxs 0 = c ∧ (withCtx c stop).stopped = stop) ∧
    min (2 ^ 32 - 1) (0 + 5) ≠ 0 := by
  refine ⟨by decide, by decide, fun c stop h => ?_, by decide⟩
  simp only [List.mem_cons, List.not_mem_nil, or_false] at h
  rcases h with ⟨rfl, rfl⟩ | ⟨rfl, rfl⟩ | ⟨rfl, rfl⟩ <;> decide +kernel

/-- Groups of four lanes, an accumulator in each state, and lanes of each kind: a term, a NaR and a zero. -/
theorem wit_GridValues :
    ([1, 2, 3, 4] : Group).length = 4 ∧ ([0, 1, BitVec.ofNat 64 (2 ^ 63), 3] : List Word64).length = 4 ∧
    (BitVec.ofNat 64 (2 ^ 63)).toNat = 2 ^ 63 ∧ (3 : Word64).toNat ≠ 2 ^ 63 ∧
    lgUnword 0 = .val false 0 4 ∧ lgUnword (2 ^ 29) = .nar ∧ lgUnword (2 ^ 30) = .zero ∧
    (∃ e, fIn fmt32 false 0x3F800000 = .fin false (2 ^ 23) e) :=
  ⟨rfl, rfl, by decide, by decide, by decide +kernel, by decide +kernel, by decide +kernel, -23, by decide +kernel⟩

/-! ## Synchronisation words -/

def plainS : FmtS := ⟨.warp, 0, 0, 0⟩
def arrived : Bench :=
  { unit := fun w => { w with arrivals := [(0, ⟨true, 0, false⟩)] }, team := fun T => { T with bars := [(0, ⟨0, true, 2, 1, 0, 0, 0⟩)], lrec := { T.lrec with warps := 2 } } }

/-- An arrival that is the unit's second of a generation, one whose count disagrees, and one that completes it. -/
theorem wit_BarrierArrival :
    tabWf {} arrived.T.bars = true ∧ tabWf {} arrived.w.arrivals = true ∧ tabFind arrived.T.units 0 = some arrived.w ∧
    ((tabGet {} arrived.w.arrivals 0).flag = true ∧ (tabGet {} arrived.w.arrivals 0).gen = (getBar arrived.T 0).g) ∧
    ¬((tabGet {} atZero.w.arrivals 0).flag = true ∧ (tabGet {} atZero.w.arrivals 0).gen = (getBar arrived.T 0).g) ∧
    (getBar arrived.T 0).cv = true ∧ 3 ≠ (getBar arrived.T 0).c ∧ 2 = (getBar arrived.T 0).c ∧ (getBar arrived.T 0).a + 1 = 2 := by
  decide +kernel

/-- The barrier words: a count of two in a team of one, a byte count past 2^40, a release part that still waits, an arrival
that joins, and an open generation. -/
theorem wit_BarrierWords :
    (∀ o ∈ [Op.bar, .bara, .barx, .barw], SyncTurn arrived.s arrived.i o wordCtl plainS 0 ⟨0, 0, 0⟩) ∧
    participants arrived.i.T < countOf arrived.i.T { plainS with imm40 := 3 } ∧ countOf arrived.i.T plainS ≤ participants arrived.i.T ∧
    (let b : Bench := { l := 2 ^ 40 }
     SyncTurn b.s b.i .barx wordCtl { plainS with sub := 1 } 0 ⟨2 ^ 40, 0, 0⟩ ∧ 2 ^ 40 ≤ w64 (2 ^ 40)) ∧
    releaseDone busyAtomic.s 0 0 busyAtomic.T busyAtomic.w 1 = false ∧ releaseDone arrived.s 0 0 arrived.T arrived.w (scopeCode .warp) = true ∧
    (barArrive arrived.T 0 0 2 0 0).isSome = true ∧ (barArrive arrived.T 0 1 1 0 0).isSome = true ∧ barArrive { arrived.T with units := [(0, {})] } 0 0 1 0 0 = none := by
  refine ⟨fun o ho => ?_, by decide +kernel, by decide +kernel, ⟨Bench.sync _ (by decide +kernel), by decide +kernel⟩, by decide +kernel,
    by decide +kernel, by decide +kernel, by decide +kernel, by decide +kernel⟩
  simp only [List.mem_cons, List.not_mem_nil, or_false] at ho
  rcases ho with rfl | rfl | rfl | rfl <;> exact Bench.sync _ (by decide +kernel)

/-- Two warps of a team at a BAR of barrier 4: the lower one's arrival comes first. -/
def arriveWord : IWord := 0x88000000000080102100000000000004
def arriveBench : Bench := { word := arriveWord, unit := fun w => { w with toks := [] }, team := fun T => { T with lrec := { T.lrec with warps := 2 } } }
def pairT : Team := { arriveBench.T with units := [(0, arriveBench.w), (1, arriveBench.w)] }
def pairS : State := { arriveBench.s with teams := [(0, pairT)], issuer := (0, 1) }
def pairI : Iss := ⟨0, 1, pairT, arriveBench.w, arriveBench.f⟩

theorem wit_BarrierWords_lower :
    issCtx pairS = some pairI ∧ (∃ o c q, wordOf pairI = some (o, c, .s q) ∧ o = .bar ∧ LowerArrives pairS pairI q.id.toNat) ∧
    ¬LowerArrives arrived.s arrived.i 0 := by
  refine ⟨rfl, ?_, ?_⟩
  · exact ⟨.bar, wordCtl, ⟨.team, 1, 0, 4⟩, by decide +kernel, rfl, 0, arriveBench.w, arriveBench.f, .bar,
      wordCtl, ⟨.team, 1, 0, 4⟩, by decide, by decide +kernel, rfl, by decide +kernel, .inl rfl, rfl,
      by decide +kernel, by decide +kernel, by decide +kernel⟩
  · rintro ⟨u, -, -, -, -, -, h, -⟩
    exact absurd h (Nat.not_lt_zero u)

/-- A warp behind one of a higher number that has arrived in this cycle, and one that follows a lower one. -/
def afterUnit (u : Nat) : Bench := { team := fun T => { T with bars := [(0, { arrivedAt := 1, arrivedBy := u })], lrec := { T.lrec with warps := 8 } } }

theorem wit_BarrierWords_higher :
    SyncTurn (afterUnit 3).s (afterUnit 3).i .bar wordCtl plainS 0 ⟨0, 0, 0⟩ ∧ HigherArrived (afterUnit 3).s (afterUnit 3).i 0 ∧
    ¬HigherArrived (afterUnit 0).s (afterUnit 0).i 0 :=
  ⟨Bench.sync _ (by decide +kernel), ⟨by decide +kernel, by decide +kernel⟩, fun h => absurd h.2 (by decide +kernel)⟩

/-- A warp that a save interrupted in an earlier generation joins it. -/
theorem wit_BarrierArrival_rejoins :
    (let w : WUnit := { arrived.w with arrivals := [(0, ⟨true, 5, true⟩)] }
     tabWf {} w.arrivals = true ∧ (tabGet {} w.arrivals 0).flag = true ∧ (tabGet {} w.arrivals 0).rejoin = true ∧
     (tabGet {} w.arrivals 0).gen ≠ (getBar arrived.T 0).g) := by decide +kernel

def tok (k : SbTok) : Bench := { unit := fun w => { w with toks := [(0, k)] }, state := fun s => { s with ptc := 8 } }
def pendingTok : Bench := tok { state := .pending, copy := true, promise := 100 }
def lateTok : Bench := tok { state := .pending, copy := true, promise := 3 }
def failedTok : Bench := tok { state := .failed, copy := true, code := some .align }

/-- The waits: their turns, a token in each state, a target behind and ahead of the clock, and a REALIGN on time. -/
theorem wit_WaitWords :
    (∀ o ∈ [Op.stgfill, .stgfree, .stgwait, .sleept, .tokw, .tokwF, .realign], SyncTurn pendingTok.s pendingTok.i o wordCtl { plainS with imm40 := 1 } 0 ⟨0, 0, 0⟩) ∧
    tokWait 8 (reqDone atZero.s 0) (getTok atZero.w 0) = .go ∧ tokWait 8 (reqDone pendingTok.s 0) (getTok pendingTok.w 0) = .wait ∧
    tokWait 8 (reqDone lateTok.s 0) (getTok lateTok.w 0) = .late ∧ tokWait 8 (reqDone failedTok.s 0) (getTok failedTok.w 0) = .failed ∧
    SyncTurn lateTok.s lateTok.i .tokw wordCtl { plainS with imm40 := 1 } 0 ⟨0, 0, 0⟩ ∧
    SyncTurn failedTok.s failedTok.i .tokw wordCtl { plainS with imm40 := 1 } 0 ⟨0, 0, 0⟩ ∧
    SyncTurn failedTok.s failedTok.i .tokwF wordCtl { plainS with imm40 := 1 } 0 ⟨0, 0, 0⟩ ∧
    tokBusy 8 (getTok pendingTok.w 0) = true ∧ tokBusy 8 (getTok failedTok.w 0) = false ∧ tabWf {} failedTok.w.toks = true ∧
    (List.range 8).filter (fun b => Nat.testBit 1 b) = [] ++ 0 :: [] ∧
    (max 8 pendingTok.s.ptc + 7) / 8 * 8 = pendingTok.s.ptc ∧ pendingTok.s.ptc < (max 9 pendingTok.s.ptc + 7) / 8 * 8 := by
  refine ⟨fun o ho => ?_, by decide +kernel, by decide +kernel, by decide +kernel, by decide +kernel, Bench.sync _ (by decide +kernel),
    Bench.sync _ (by decide +kernel), Bench.sync _ (by decide +kernel), by decide +kernel, by decide +kernel, by decide +kernel,
    by decide +kernel, by decide +kernel, by decide +kernel⟩
  simp only [List.mem_cons, List.not_mem_nil, or_false] at ho
  rcases ho with rfl | rfl | rfl | rfl | rfl | rfl | rfl <;> exact Bench.sync _ (by decide +kernel)

/-- A promise that has passed while the request is complete: it has landed, or its auto-publish into a view of the window is due; and a
word that waits for a token not named first. -/
def landedTok (q : CopyReq → CopyReq) : Bench :=
  { tok { state := .pending, copy := true, promise := 3, req := 7 } with
    team := fun T => { T with views := [⟨6, 0, 64, {}⟩] }
    state := fun s => { s with
      ptc := 8, cores := [(0, { copyQ := [q { request atZero.i wordCtl plainE .bufLd {} with id := 7, phase := .landed }] })] } }

theorem wit_WaitWords_complete :
    (∀ q ∈ [id, fun r => { r with ap := true, view := some (.scratch 0 0) }], reqDone (landedTok q).s 0 7 = true ∧
      tokWait 8 (reqDone (landedTok q).s 0) (getTok (landedTok q).w 0) = .wait) ∧
    reqDone (landedTok (fun r => { r with phase := .running })).s 0 7 = false ∧
    (∀ b ∈ [1], ¬(tokWait 8 (reqDone pendingTok.s 0) (getTok pendingTok.w b) = .late ∨
      tokWait 8 (reqDone pendingTok.s 0) (getTok pendingTok.w b) = .failed)) := by
  refine ⟨fun q hq => ?_, by decide +kernel, by decide +kernel⟩
  simp only [List.mem_cons, List.not_mem_nil, or_false] at hq
  rcases hq with rfl | rfl <;> exact ⟨by decide +kernel, by decide +kernel⟩

/-- WAITX on a mapped word and on an unmapped one. -/
theorem wit_ExternalWait :
    SyncTurn atZero.s atZero.i .waitx wordCtl plainS 0 ⟨0, 0, 0⟩ ∧ (checkAccess atZero.s 0 1 0 4 .rd true).2.toOption.map List.length = some 1 ∧
    SyncTurn outside.s outside.i .waitx wordCtl plainS 0 ⟨0x20000, 0, 0⟩ ∧ (checkAccess outside.s 0 1 0x20000 4 .rd true).2.toOption = none :=
  ⟨Bench.sync _ (by decide +kernel), by decide +kernel, Bench.sync _ (by decide +kernel), by decide +kernel⟩

def unpaged : Bench := { team := fun T => { T with pages := [] } }
def ifTrue : Ctl := { wordCtl with pm := .ifTrue }

/-- Words that no lane fires, words of chapter 9 without a page, and GCFG on an entry of another kind or past the team's
pages. -/
theorem wit_IdleWords :
    (∀ o ∈ [Op.grun, .gcfg, .strmo], Turn nulled.s nulled.i o ifTrue (.e { plainE with ridx := 5 }) ∧ atLanes nulled.i o ifTrue (.e { plainE with ridx := 5 }) = []) ∧
    (∀ o ∈ [Op.grun, .gqry, .strmq], Turn unpaged.s unpaged.i o wordCtl (.e plainE) ∧ atLanes unpaged.i o wordCtl (.e plainE) ≠ []) ∧
    (Turn idle.s idle.i .gcfg wordCtl (.e plainE) ∧ (entryOf 0).kind ≠ .gridimg ∧ Turn unpaged.s unpaged.i .gcfg wordCtl (.e { plainE with ridx := 5 }) ∧
      (entryOf 5).kind = .gridimg ∧ unpaged.i.T.pages.length ≤ 0) ∧
    (∀ o ∈ [Op.bar, .realign, .trap, .bkpt, .swr], Turn nulled.s nulled.i o ifTrue (.s plainS) ∧ atLanes nulled.i o ifTrue (.s plainS) = []) ∧
    (∀ o ∈ [Op.yield, .nopb], Turn nulled.s nulled.i o ifTrue .n ∧ atLanes nulled.i o ifTrue .n = []) := by
  refine ⟨fun o ho => ?_, fun o ho => ?_, ⟨Bench.turn _ (by decide +kernel), by decide +kernel, Bench.turn _ (by decide +kernel),
    by decide +kernel, by decide +kernel⟩, fun o ho => ?_, fun o ho => ?_⟩ <;>
    simp only [List.mem_cons, List.not_mem_nil, or_false] at ho <;>
    rcases ho with rfl | rfl | rfl | rfl | rfl <;>
    exact ⟨Bench.turn _ (by decide +kernel), by decide +kernel⟩

/-- SPAWN of a record at a misaligned address, on an unmapped page, and on a mapped one; the slots that a core's warps leave to
others; a frame with a code. -/
theorem wit_SystemWords_more :
    (let b : Bench := { l := 32 }; Turn b.s b.i .spawn wordCtl (.e plainE) ∧ w64 32 % 64 ≠ 0) ∧
    (Turn outside.s outside.i .spawn wordCtl (.e plainE) ∧ w64 0x20000 % 64 = 0 ∧
      (checkOne outside.s 0 1 0x20000 256 64 .rd).2.toOption = none) ∧
    (checkOne atZero.s 0 1 0x40 256 64 .rd).2.toOption.map List.length = some 1 ∧
    (let s : State := { atZero.s with cores := [(0, { yields := [(0, 5), (33, 1)] })] }
     tabWf {} s.cores = true ∧ tabWf 0 (getCore s 0).yields = true) ∧
    ({ atZero.w with frame := { atZero.w.frame with code := some .align } } : WUnit).frame.code = some .align :=
  ⟨⟨Bench.turn _ (by decide +kernel), by decide⟩, ⟨outside.turn (by decide +kernel), by decide, by decide +kernel⟩, by decide +kernel,
    by decide +kernel, rfl⟩

/-- Each system word with a lane that fires. -/
theorem wit_SystemWords :
    (∀ o ∈ [Op.trap, .bkpt, .swr, .srd, .perfrd], Turn atZero.s atZero.i o wordCtl (.s plainS) ∧
      ∃ rest, atLanes atZero.i o wordCtl (.s plainS) = (0, ⟨0, 0, 0⟩) :: rest) ∧
    (∀ o ∈ [Op.tret, .yield, .nopb], Turn atZero.s atZero.i o wordCtl .n ∧ ∃ rest, atLanes atZero.i o wordCtl .n = (0, ⟨0, 0, 0⟩) :: rest) ∧
    (Turn atZero.s atZero.i .spawn wordCtl (.e plainE) ∧ ∃ rest, atLanes atZero.i .spawn wordCtl (.e plainE) = (0, ⟨0, 0, 0⟩) :: rest) := by
  refine ⟨fun o ho => ?_, fun o ho => ?_, Bench.lead _ (by decide +kernel)⟩ <;>
    simp only [List.mem_cons, List.not_mem_nil, or_false] at ho <;>
    rcases ho with rfl | rfl | rfl | rfl | rfl <;>
    exact Bench.lead _ (by decide +kernel)

end Sys2Proof.Tests
end

