-- ==== Sys2Proof/Tests/Witness4.lean ====
section
/-! SUPPORT. Witnesses for the statements about blocks, traps, memory and the copy engine's steps. -/

namespace Sys2Proof.Tests

set_option Elab.async false

open Sys2Proof Sys2Proof.Machine Sys2Proof.Claims

/-- One team of one unit on the bench's memory, with what differs. -/
def plainT (w : WUnit) : Team := { ({} : Bench).T with units := [(0, w)] }
def stand (T : Team) (f : State → State) : State := { f ({} : Bench).s with teams := [(0, T)] }

/-! ## Blocks and traps -/

def root : SplitEntry := { live := true, mask := 1, block := 0x2000 }
def atBoundary : WUnit := { splits := [(0, root)] }

/-- A header of one instruction and EXIT, in the block cache. -/
def exitBlock : List IWord := [0xF0000000000000000000000000000000, 0x07000000000000000000000000000000]
def badBlock : List IWord := [0xF0000000000000000000000000000000, 0]
/-- A block that a vector warp may not enter, in the cache. -/
def gridBlock : List IWord := [0xF0000000000000000000000000000000, (encode (.grun wordCtl plainE)).getD 0]
/-- The bad block in memory, and no block there. -/
def inMemory : State := stand (plainT atBoundary) (fun s => { s with mem := memSetNum s.mem 0x102000 16 0xF0000000000000000000000000000000 })
def cached (ws : List IWord) : State :=
  stand (plainT atBoundary) (fun s => { s with cores := [(0, { blocks := [⟨0x2000, false, ws⟩] })] })

def fetched (s : State) (T : Team) : Option (List IWord × Bool) :=
  match (fetchBlock s T 0 0 0x2000 false).2 with
  | .ok ws h => some (ws, h)
  | _ => none

theorem fetched_ok {s : State} {T : Team} {ws : List IWord} {h : Bool} (e : fetched s T = some (ws, h)) :
    (fetchBlock s T 0 0 0x2000 false).2 = .ok ws h := by
  unfold fetched at e
  split at e
  · rename_i h1
    obtain ⟨rfl, rfl⟩ := by simpa using e
    exact h1
  · cases e

def checked (ws : List IWord) (hit : Bool) : Option (TrapCode × Nat) :=
  match checkBlock .vector false false hit 16 ws with
  | .ok _ => none
  | .error e => some e

/-- A block that passes its check and one that does not, with no header reads. -/
theorem wit_BlockEntry :
    Enters (cached exitBlock) 0 0 (plainT atBoundary) atBoundary 0 ∧ (fetchBlock (cached exitBlock) (plainT atBoundary) 0 0 0x2000 false).2 = .ok exitBlock true ∧
    classOf atBoundary 0 0 = false ∧ (getSplit atBoundary 0).block = 0x2000 ∧ checked exitBlock true = none ∧
    Enters inMemory 0 0 (plainT atBoundary) atBoundary 0 ∧ (fetchBlock inMemory (plainT atBoundary) 0 0 0x2000 false).2 = .ok badBlock false ∧
    checked badBlock false = some (.badHeader, 1) ∧
    (fetchBlock (cached gridBlock) (plainT atBoundary) 0 0 0x2000 false).2 = .ok gridBlock true ∧ checked gridBlock true = some (.engineRole, 1) ∧
    atBoundary.tm = false ∧ tabWf {} atBoundary.splits = true :=
  ⟨⟨⟨rfl, rfl⟩, rfl, by decide +kernel, by decide +kernel⟩, fetched_ok (by decide +kernel), by decide +kernel, rfl, by decide +kernel,
    ⟨⟨rfl, rfl⟩, rfl, by decide +kernel, by decide +kernel⟩, fetched_ok (by decide +kernel), by decide +kernel, fetched_ok (by decide +kernel),
    by decide +kernel, rfl, by decide +kernel⟩

/-- Page 0x10, which die 1 releases, is in transition. -/
def transit (s : State) : State :=
  { s with
    nextId := 1, claims := [⟨1, 1, 0x10⟩]
    reqs := [{ id := 0, vf := 1, team := 0, unit := 0, die := 1, core := 0, t := 0, kind := .claim true, va := 0, pa := 0, n := 0x10000
               data := 0, cmp := 0, pages := [0x10] }] }

/-- What a fetch that gives no words ends in: 0 for a page in transition, else the trap's code. -/
def stopOf (s : State) (w : WUnit) : Option Nat :=
  match (fetchBlock s (plainT w) 0 0 (getSplit w 0).block false).2 with
  | .moving => some 0
  | .trap c _ _ => some (trapNum c)
  | _ => none

def away (w : WUnit) : WUnit := { w with splits := [(0, { root with block := 0x20000, handler := w.tm })] }
def handling : WUnit := { splits := [(0, { root with handler := true })], tm := true }

/-- Fetches from a page in transition and from an unmapped one, by a plain warp and in a handler, and a bad block in a handler. -/
theorem wit_BlockEntry_stops :
    (Enters (stand (plainT atBoundary) transit) 0 0 (plainT atBoundary) atBoundary 0 ∧ stopOf (stand (plainT atBoundary) transit) atBoundary = some 0) ∧
    (Enters (stand (plainT (away {})) id) 0 0 (plainT (away {})) (away {}) 0 ∧ stopOf (stand (plainT (away {})) id) (away {}) = some (trapNum .xlateNotMapped) ∧
      (away {}).tm = false) ∧
    (let w := away { tm := true }
     Enters (stand (plainT w) id) 0 0 (plainT w) w 0 ∧ stopOf (stand (plainT w) id) w = some (trapNum .xlateNotMapped) ∧ w.tm = true ∧
     (getSplit w 0).handler = true ∧ isPending .xlateNotMapped = false ∧ tabWf {} w.splits = true) ∧
    (let s := stand (plainT handling) (fun s => { s with cores := [(0, { blocks := [⟨0x2000, false, gridBlock⟩] })] })
     Enters s 0 0 (plainT handling) handling 0 ∧ (fetchBlock s (plainT handling) 0 0 0x2000 false).2 = .ok gridBlock true ∧
     checked gridBlock true = some (.engineRole, 1) ∧ handling.tm = true ∧ (getSplit handling 0).handler = true ∧ isPending .engineRole = false) :=
  ⟨⟨⟨⟨rfl, rfl⟩, rfl, by decide +kernel, by decide +kernel⟩, by decide +kernel⟩,
    ⟨⟨⟨rfl, rfl⟩, rfl, by decide +kernel, by decide +kernel⟩, by decide +kernel, rfl⟩,
    ⟨⟨⟨rfl, rfl⟩, rfl, by decide +kernel, by decide +kernel⟩, by decide +kernel, rfl, rfl, by decide, by decide +kernel⟩,
    ⟨⟨rfl, rfl⟩, rfl, by decide +kernel, by decide +kernel⟩, fetched_ok (by decide +kernel), by decide +kernel, rfl, rfl, by decide⟩

def entering : WUnit :=
  { splits := [(0, { root with state := .inFlight })]
    flight := some { frag := 0, addr := 0x2000, words := [0x07000000000000000000000000000000], entered := false
                     hdr := ⟨1, 1, 0, false, false, 0, [0], [], [], some ⟨0, 0, 1, 64⟩⟩ } }
def prefetching : State := stand (plainT entering) id

def prefetchOk (s : State) (T : Team) (w : WUnit) : Option ResEntry :=
  match w.flight.bind (fun f => f.hdr.prefetch.map (fun p => prefetchCheck s T w f p)) with
  | some (.ok e) => some e
  | _ => none

def page0 : CodePage := { vpage := 0, ppage := 0x10, hash := 0 }
def unverified : State :=
  stand (plainT atBoundary) (fun s => { s with tenants := s.tenants.map (fun x => (x.1, { x.2 with objs := [⟨1, 0, 0x10000, [(0, 0x10000)], [page0], false⟩] })) })

def notVerified (s : State) (T : Team) : Option (Nat × Nat) :=
  match (fetchBlock s T 0 0 0x2000 false).2 with
  | .unverified vp pp => some (vp, pp)
  | _ => none

/-- A header prefetch of 64 bytes of the buffer, and a code page whose hash is still to be checked. -/
theorem wit_PrefetchAndCodeHash :
    At prefetching 0 0 (plainT entering) entering ∧ (entering.flight.bind (fun f => f.hdr.prefetch)).isSome = true ∧
    (prefetchOk prefetching (plainT entering) entering).map ResEntry.kind = some .buffer ∧
    (getTok entering 1).state ≠ .failed ∧ tokBusy 0 (getTok entering 1) = false ∧
    Enters unverified 0 0 (plainT atBoundary) atBoundary 0 ∧ notVerified unverified (plainT atBoundary) = some (0, 0x10) ∧
    (walk unverified 1 0).toOption.map TlbEnt.ppage = some 0x10 ∧ (codePageAt unverified 1 0x10).map Prod.snd = some page0 :=
  ⟨⟨rfl, rfl⟩, by decide +kernel, by decide +kernel, by decide +kernel, by decide +kernel, ⟨⟨rfl, rfl⟩, rfl, by decide +kernel, by decide +kernel⟩,
    by decide +kernel, by decide +kernel, by decide +kernel⟩

/-- The object of that page and one that is revoked; a launch that enters at the page. -/
def enteredState : State :=
  { unverified with tenants := unverified.tenants.map (fun x => (x.1, { x.2 with ready := [⟨0, { entry := 0x2000 }, 0, 0, [], 0, 0, 0, 0⟩] })) }

theorem wit_PrefetchAndCodeHash_revoked :
    (let o : CodeObj := ⟨1, 0, 0x10000, [(0, 0x10000)], [page0], false⟩
     o.revoked = false ∧ { o with revoked := true }.revoked = true ∧
     ∃ l ∈ (getTenant enteredState 1).ready, l.status = 0 ∧ entersObj enteredState 1 o l.lrec = true) := by decide +kernel

def exiting (t : Term) : WUnit :=
  { splits := [(0, { root with state := .inFlight })]
    flight := some { frag := 0, addr := 0x2000, words := [0x07000000000000000000000000000000], idx := 1, term := some t
                     hdr := ⟨1, 1, 1, false, false, 0, [0, 4], [], [], none⟩ } }

def fullTable : WUnit :=
  { splits := (List.range 32).map (fun n => (n, { live := true, mask := if n = 0 then 3 else BitVec.ofNat 128 (2 ^ (n + 2)), state := if n = 0 then .inFlight else .ready }))
    flight := (exiting (.lanes [0, 1])).flight }

def readyToCommit (w : WUnit) : Bool :=
  match w.flight with
  | some f => commitReady (stand (plainT w) (fun s => { s with ptc := 100 })) 0 0 f
  | none => false

def storing : WUnit := { exiting .exit with flight := (exiting .exit).flight.map (fun f => { f with stores := [⟨0, 0, 0, true, .store, 0, 0, 4, 7, 0, []⟩] }) }

/-- A block at its commit, one with an STS to sound bytes, one whose split has no room, and a unit with a CINV 24 cycles old. -/
theorem wit_BlockCommit :
    (readyToCommit storing = true ∧ ∀ h ∈ (storing.flight.map Flight.stores).getD [], h.scratch = true ∧ atomHeld h = false ∧
      spDrops (stand (plainT storing) id) 0 (fun i => spAddr (plainT storing) (h.va + i)) h.n = false) ∧
    readyToCommit (exiting .exit) = true ∧ ((exiting .exit).flight.bind (fun f => f.csys)).isNone = true ∧
    ((exiting .exit).flight.map (fun f => (decideSuccs (exiting .exit) f .exit 0).isSome)) = some true ∧
    readyToCommit fullTable = true ∧ (fullTable.flight.map (fun f => (decideSuccs fullTable f (.lanes [0, 1]) 0).isNone)) = some true ∧
    (let w : WUnit := { atBoundary with cinvs := [(0, 64, 0)] }
     w.cinvs ≠ [] ∧ ∀ c ∈ w.cinvs, c.2.2 + 24 ≤ (stand (plainT w) (fun s => { s with ptc := 24 })).ptc) :=
  ⟨by decide +kernel, by decide +kernel, by decide +kernel, by decide +kernel, by decide +kernel, by decide +kernel, by decide, by decide +kernel⟩

/-- A block that commits a trap, and one that returns from a handler whose SWR moved the frame's block. -/
def committing (g : Flight → Flight) (f : WUnit → WUnit) : WUnit :=
  f { exiting (.lanes [0]) with flight := (exiting (.lanes [0])).flight.map g }
def sysUnit : WUnit := committing (fun f => { f with csys := some (⟨.swTrap, .engine, 5, 0x2000⟩, 0) }) id
def tretUnit : WUnit :=
  committing (fun f => { f with tret := true, swrs := [(17, 0x3000), (19, 0xFF)] }) (fun w => { w with tm := true, frame := { w.frame with blk := 0x2000 } })

theorem sys_next : ∃ w2, sysUnit.flight.bind (fun f => decideSuccs sysUnit f (.lanes [0]) 100) = some w2 ∧
    ∀ j, ((getSplit w2 j).live = true ∧ (getSplit w2 j).mask.getLsbD 0 = true) ↔ j = 0 := by
  have h : (sysUnit.flight.bind (fun f => decideSuccs sysUnit f (.lanes [0]) 100)).map WUnit.splits = some [(0, root)] := by decide +kernel
  obtain ⟨w2, h1, h2⟩ := Option.map_eq_some_iff.mp h
  refine ⟨w2, h1, fun j => ?_⟩
  simp only [getSplit, h2, tabGet]
  by_cases hj : j = 0
  · subst hj; decide
  · simp [hj]

theorem wit_BlockCommit_system :
    (readyToCommit sysUnit = true ∧ ((sysUnit.flight.bind (fun f => f.csys)).map Prod.snd = some 0) ∧ sysUnit.tm = false ∧
      sysUnit.flight.map Flight.tret = some false ∧ tabWf {} sysUnit.splits = true) ∧
    (readyToCommit tretUnit = true ∧ tretUnit.flight.map Flight.tret = some true ∧ ((tretUnit.flight.bind (fun f => f.csys)).isNone = true) ∧
      tretUnit.frame.blk < 2 ^ 64 ∧ tabWf {} tretUnit.splits = true ∧
      (tretUnit.flight.map (fun f => (decideSuccs tretUnit f (.lanes [0]) 100).isSome)) = some true) ∧
    (let s := stand (plainT storing) id
     tabWf {} s.cores = true ∧ tabWf 0 (getCore s 0).scratch = true ∧ tabWf false (getCore s 0).spPoison = true) := by decide +kernel

/-- Write entries of v, k and q from results of 32 and 128 bits, with a value in lane 0 and null in lane 1, and with no value. -/
theorem wit_CommittedRegisters :
    (tabWf 0 atBoundary.v = true ∧ tabWf 0 atBoundary.k = true ∧ tabWf false atBoundary.q = true) ∧
    resWidth .add Ty.n32 = 32 ∧ kWidth .add Ty.n32 = 32 ∧ resWidth .tokq Ty.b128 = 128 ∧ kWidth .tokq Ty.b128 = 128 ∧ vRegs 128 = 4 ∧
    (resSigned .s32 = true ∧ resSigned .n32 = false) ∧
    tabFind [(0, (⟨[some 7, none], 0⟩ : Tok))] 0 = some ⟨[some 7, none], 0⟩ ∧
    (∃ j, (1 : BitVec 128).getLsbD j = true ∧ [some (7 : Val), none][j]? = some (some 7)) ∧
    ((3 : BitVec 128).getLsbD 1 = true ∧ [some (7 : Val), none][1]? = some none) ∧
    (∀ e ∈ [(⟨0, 3, 0⟩ : WriteEntry), ⟨1, 4, 0⟩, ⟨2, 5, 0⟩], [e] = [e] ∧ e.prod = 0) ∧ (3 ≤ 6 ∧ 6 < 3 + vRegs 128) := by
  refine ⟨by decide, by decide +kernel, by decide +kernel, by decide +kernel, by decide +kernel, by decide, by decide, by decide,
    ⟨0, by decide, rfl⟩, by decide, by decide, by decide⟩

/-- A split of two lanes. -/
theorem wit_SuccessorsPartitionLanes :
    let w : WUnit := { exiting (.lanes [0, 1]) with splits := [(0, { root with mask := 3, state := .inFlight })] }
    tabWf {} w.splits = true ∧ (getSplit w 0).live = true ∧ (w.flight.map (fun f => (decideSuccs w f (.lanes [0, 1]) 0).isSome)) = some true ∧
    (∀ l, l < 4 → ∀ k, laneSucc (.lanes [0, 1]) l = some k → k < 4) := by decide +kernel

def parkedPair : WUnit :=
  { splits := [(0, { live := true, mask := 1, block := 0x2000, group := some 2, state := .parked }),
      (1, { live := true, mask := 2, block := 0x2000, group := some 2, state := .parked }), (2, { record := some ⟨0x2000, 0, none⟩ })] }

def trapped (c : TrapCode) : WUnit := { splits := [(0, { root with state := .trapPending, traps := [⟨c, .engine, 5, 0x2000⟩] })] }
def trapT (c : TrapCode) : Team := { plainT (trapped c) with htab := 0x6000 }
def handled (c : TrapCode) : State := stand (trapT c) (fun s => { s with mem := memSetNum s.mem 0x106130 8 0x3000 })

/-- Two parked members of a group; a trap with a handler entry, and a notice without one. -/
theorem wit_FusionAndTrapDelivery :
    tabWf {} parkedPair.splits = true ∧ mayFuse parkedPair 2 = true ∧ (getSplit parkedPair 2).record = some ⟨0x2000, 0, none⟩ ∧
    (keeper (members parkedPair 2)).isSome = true ∧
    At (handled .swTrap) 0 0 (trapT .swTrap) (trapped .swTrap) ∧ nextTrapped (trapT .swTrap) (trapped .swTrap) = some 0 ∧
    handlerEntry (handled .swTrap) 1 0x6000 .swTrap = some 0x3000 ∧
    At (handled .preemptNotice) 0 0 (trapT .preemptNotice) (trapped .preemptNotice) ∧
    handlerEntry (handled .preemptNotice) 1 0x6000 .preemptNotice = none ∧ (trapT .swTrap).term = none ∧ (trapT .swTrap).retired = false :=
  ⟨by decide +kernel, by decide +kernel, by decide +kernel, by decide +kernel, ⟨rfl, rfl⟩, by decide +kernel, by decide +kernel, ⟨rfl, rfl⟩,
    by decide +kernel, rfl, rfl⟩

/-- Traps that escalate at delivery: CODE_INTEGRITY, and one whose handler entry is empty; a unit in a handler; traps that arise on its
fragment and on others. -/
theorem wit_FusionAndTrapDelivery_escalates :
    (At (handled .codeIntegrity) 0 0 (trapT .codeIntegrity) (trapped .codeIntegrity) ∧
      nextTrapped (trapT .codeIntegrity) (trapped .codeIntegrity) = some 0) ∧
    (At (stand (trapT .swTrap) id) 0 0 (trapT .swTrap) (trapped .swTrap) ∧ handlerEntry (stand (trapT .swTrap) id) 1 0x6000 .swTrap = none ∧
      TrapCode.swTrap ≠ .preemptNotice) ∧
    (At (stand (plainT handling) id) 0 0 (plainT handling) handling ∧ handling.tm = true ∧ (getSplit handling 0).handler = true) ∧
    (isPending .swTrap = false ∧ isPending .stream = true) ∧
    ((getSplit atBoundary 0).state = .ready ∧ (getSplit parkedPair 0).state = .parked ∧ (getSplit entering 0).state = .inFlight ∧
      (getSplit handling 0).state = .ready) ∧
    (getTeam enteredState 0 = some (plainT atBoundary) ∧ (plainT atBoundary).retired = false ∧ (plainT atBoundary).term = none ∧
      ∃ l ∈ (getTenant enteredState (plainT atBoundary).vf).ready, l.seq = (plainT atBoundary).seq ∧ l.status = 0) :=
  ⟨⟨⟨rfl, rfl⟩, by decide +kernel⟩, ⟨⟨rfl, rfl⟩, by decide +kernel, by decide⟩, ⟨⟨rfl, rfl⟩, rfl, rfl⟩, by decide,
    ⟨rfl, rfl, rfl, rfl⟩, rfl, rfl, rfl, by decide +kernel⟩

/-! ## Memory -/

def req (k : ReqKind) (ph : ReqPhase) (pa : Nat) : MemReq :=
  { id := 5, vf := 1, team := 0, unit := 0, die := 0, core := 0, t := 0, kind := k, va := pa % 0x10000, pa := pa, n := 4, data := 7, cmp := 0, phase := ph }
def sent (r : MemReq) : State := stand (plainT atBoundary) (fun s => { s with ptc := 24, reqs := [r] })
def poisonedAt (s : State) (g : Nat) : State := { s with memPoison := [(g, true)] }

/-- The pieces of one store, in the order of their release. -/
def pieceOf (id : Nat) : MemReq := { req .store .forwarded 0x104000 with id := id, order := some (0, 0) }
def twoPieces : State := stand (plainT atBoundary) (fun s => { s with reqs := [pieceOf 5, pieceOf 6] })

/-- A store 24 cycles after its commit; one at its home, on sound and on poisoned memory; one to host memory; a piece behind
another of its store; a tenant with no view in global memory. -/
theorem wit_StoresReachTheirHome :
    (findReq (sent (req .store .released 0x104000)) 5 = some (req .store .released 0x104000) ∧ (req .store .released 0x104000).t + 24 ≤ 24) ∧
    AtHome (sent (req .store .forwarded 0x104000)) 5 (req .store .forwarded 0x104000) ∧ Memory.wf (sent (req .store .forwarded 0x104000)).mem = true ∧
    accessDrops (sent (req .store .forwarded 0x104000)) 1 0x4000 0x104000 4 = false ∧
    (accessDrops (poisonedAt (sent (req .store .forwarded 0x104000)) 0x8200) 1 0x4000 0x104000 4 = true ∧
      (getTenant (sent (req .store .forwarded 0x104000)) 1).frctl.getLsbD 4 = false) ∧
    AtHome (poisonedAt (sent (req .store .forwarded 0x104000)) 0x8200) 5 (req .store .forwarded 0x104000) ∧
    paKind (sent (req .store .forwarded 0x100000000000000)) 0x100000000000000 = .host ∧
    WholeGranules (sent (req .store .forwarded 0x100000000000000)) (cellOf 0x100000000000000) 4 ∧
    orderHeld (sent (req .store .forwarded 0x100000000000000)) (req .store .forwarded 0x100000000000000) = false ∧
    (∃ q ∈ twoPieces.reqs, ∃ r, findReq twoPieces 6 = some r ∧ r.order ≠ none ∧ q.order = r.order ∧ q.team = r.team ∧ q.unit = r.unit ∧
      q.core = r.core ∧ q.id < r.id ∧ q.phase ≠ .applied) ∧
    (getTenant (sent (req .store .forwarded 0x104000)) 1).gviews = [] := by
  refine ⟨⟨by decide +kernel, by decide⟩, ⟨by decide +kernel, rfl, by decide +kernel, by decide +kernel, rfl, by decide⟩, by decide +kernel, by decide +kernel, by decide +kernel,
    ⟨by decide +kernel, rfl, by decide +kernel, by decide +kernel, rfl, by decide⟩, by decide +kernel, ?_, by decide +kernel,
    ⟨pieceOf 5, by decide +kernel, pieceOf 6, by decide +kernel⟩, by decide +kernel⟩
  unfold WholeGranules
  decide +kernel

/-- A store behind a SPAWN of its unit; the two pieces of one event, with a store of its die before them or not; and addresses of host memory
by either I/O die. -/
def behindSpawn : State := stand (plainT atBoundary) (fun s => { s with reqs := [{ req .spawn .forwarded 0x104000 with id := 4 }, req .store .forwarded 0x104000] })
def eventPiece (id pa : Nat) : MemReq := { req .store .forwarded pa with id := id, event := some 9 }
def eventState (l : List MemReq) : State :=
  stand (plainT atBoundary) (fun s => { s with reqs := l ++ [eventPiece 5 0x10FFFC, eventPiece 6 0x110000] })

theorem wit_StoresReachTheirHome_events :
    (∃ q ∈ behindSpawn.reqs, ∃ r, findReq behindSpawn 5 = some r ∧ q.team = r.team ∧ q.unit = r.unit ∧ q.core = r.core ∧ q.id < r.id ∧
      q.phase ≠ .applied ∧ q.event = none ∧ q.kind = .spawn ∧ r.kind ≠ .spawn) ∧
    (findReq (eventState []) 5 = some (eventPiece 5 0x10FFFC) ∧ (eventPiece 5 0x10FFFC).kind = .store ∧
      paKind (eventState []) 0x10FFFC = .tier1 ∧
      (∀ q ∈ (eventState []).reqs, arrives (eventState []) q = true ∧ paKind (eventState []) q.pa ≠ .device)) ∧
    (let s := eventState [{ req .store .forwarded 0x104000 with id := 1 }]
     ∃ q ∈ s.reqs, q.event = some 9 ∧ paKind s q.pa ≠ .host ∧ arrives s q = false) ∧
    (hostIo (2 ^ 56) ≠ hostIo (2 ^ 56 + 2 ^ 55)) ∧ (2 ^ 56 ≤ 2 ^ 57 - 1 ∧ 2 ^ 57 - 1 < 2 ^ 57 ∧ ¬(2 ^ 57 < 2 ^ 57)) := by
  refine ⟨⟨{ req .spawn .forwarded 0x104000 with id := 4 }, by decide +kernel, req .store .forwarded 0x104000, by decide +kernel⟩,
    by decide +kernel, ⟨eventPiece 5 0x10FFFC, by decide +kernel⟩, by decide, by decide⟩

def load5 : LoadReq := { id := 5, vf := 1, team := 0, unit := 0, die := 0, core := 0, issued := 0, idx := 0, lane := 0, off := 0, va := 0x4000, pa := 0x104000, n := 4, cached := true }
def loading : WUnit := { atBoundary with flight := (exiting .exit).flight }
def loadAt (ptc : Nat) (l : List LoadReq) : State := stand (plainT loading) (fun s => { s with ptc := ptc, loads := l })
def loadSent : State := loadAt 880 [load5]
def inTransit : State := { loadSent with reqs := [{ req (.claim false) .forwarded 0x100000 with id := 4, n := 0x10000, pages := [0x10] }] }
def deviceLoad : LoadReq := { load5 with pa := 0x40000000000500 }

/-- No entry of the place table lies there, wherever the table is (log 40). -/
theorem device_unknown (s : State) : deviceRead s deviceLoad.pa 4 = none := by
  have h1 : inTable tzTable 176 deviceLoad.pa 4 = none := by decide +kernel
  have h2 : inTable placeTable 1152 deviceLoad.pa 4 = none := by
    unfold inTable placeTable deviceLoad
    simp only [Bool.and_eq_true, decide_eq_true_eq, ite_eq_right_iff, reduceCtorEq, imp_false]
    omega
  simp [deviceRead, h1, h2]


/-- A load at its home in its planned cycle, on sound and on poisoned memory; three loads that wait; a line in the hub, one in tier
1 and one in tier 2; a load of a device register; the copy that a die then holds, or does not while the page is in transition. -/
theorem wit_LoadsAtTheirHome :
    (loadSent.loads.find? (fun q => q.id == 5) = some load5 ∧ At loadSent 0 0 (plainT loading) loading ∧
      loading.flight.map Flight.fault = some none ∧ homedPa loadSent 0x104000 = true ∧ loadHeld loadSent load5 = false) ∧
    accessPoisoned loadSent 1 0x4000 0x104000 4 = false ∧ accessPoisoned (poisonedAt loadSent 0x8200) 1 0x4000 0x104000 4 = true ∧
    earlierLoad (grantCopy { (fillHub (poisonedAt loadSent 0x8200) (0x104000 / 128)) with loads := [] } load5 64) 0 0 0 0 = false ∧
    (let l : LoadReq := { load5 with id := 6, off := 4, va := 0x4004, pa := 0x104004 }
     (loadAt 880 [load5, l]).loads.find? (fun q => q.id == 6) = some l ∧ l.unit ≠ noUnit ∧ l.idx = load5.idx ∧ load5.id < l.id) ∧
    moving inTransit 5 0x104000 = true ∧ (loadAt 879 [load5]).ptc < load5.issued + 8 * homeSlots (loadAt 879 [load5]) 0x104000 ∧
    (homedPa loadSent 0x104000 = true ∧ 0x104000 / 128 ∈ (fillHub loadSent (0x104000 / 128)).hub ∧ 0x104000 / 128 ∉ loadSent.hub ∧
      paKind loadSent 0x104000 = .tier1 ∧
      paKind { loadSent with boot := { loadSent.boot with t2 := 3 } } 0x20000000000 = .tier2) ∧
    (let s := loadAt 0 [deviceLoad]
     s.loads.find? (fun q => q.id == 5) = some deviceLoad ∧ loadHeld s deviceLoad = false ∧ deviceLoad.unit ≠ gridUnit ∧
     paKind s deviceLoad.pa = .device) ∧ deviceRead (loadAt 0 [deviceLoad]) deviceLoad.pa 4 = none ∧
    tabWf {} loadSent.dies = true ∧ load5.cached = true ∧ claimedBy loadSent load5.pa ≠ some load5.die ∧
    moving loadSent loadSent.nextId 0x104000 = false ∧ moving { inTransit with nextId := 6 } 6 0x104000 = true ∧
    claimedBy inTransit 0x104000 ≠ some 0 :=
  ⟨⟨by decide +kernel, ⟨rfl, rfl⟩, by decide +kernel, by decide +kernel, by decide +kernel⟩, by decide +kernel, by decide +kernel, by decide +kernel,
    by decide +kernel, by decide +kernel, by decide +kernel, by decide +kernel, by decide +kernel, device_unknown _, by decide +kernel, by decide +kernel,
    by decide +kernel, by decide +kernel, by decide +kernel, by decide +kernel⟩

/-- A die whose copy of a line has run out, and one whose copy has not; a load that is not cached; a load behind another of its thread to
the same host bytes by the other I/O die. -/
def leased (expiry : Nat) : State :=
  stand (plainT loading) (fun s => { s with ptc := 880, cores := [(0, { l1 := [0x2080] })], dies := [(0, { copies := [⟨0x2080, [], expiry⟩] })] })

theorem wit_LoadsAtTheirHome_copies :
    (∀ e ∈ [100, 2000], tabWf {} (leased e).dies = true ∧ tabWf {} (leased e).cores = true) ∧
    (∃ c ∈ (getDie (leased 100) 0).copies, c.line = 0x2080 ∧ c.expiry ≤ diePtc (leased 100) 0) ∧
    (¬∃ c ∈ (getDie (leased 2000) 0).copies, c.line = 0x2080 ∧ c.expiry ≤ diePtc (leased 2000) 0) ∧
    ({ load5 with cached := false }.cached ≠ true ∧ homedPa (leased 100) load5.pa = true ∧ claimedBy (leased 100) load5.pa ≠ some load5.die) ∧
    (let q : LoadReq := { load5 with pa := 2 ^ 56 }
     let l : LoadReq := { load5 with id := 6, idx := 1, pa := 2 ^ 56 + 2 ^ 55 }
     (loadAt 880 [q, l]).loads.find? (fun x => x.id == 6) = some l ∧ q.id < l.id ∧ q.event = none ∧ q.unit ≠ noUnit ∧
     cellOf q.pa < cellOf l.pa + l.n ∧ cellOf l.pa < cellOf q.pa + q.n) ∧
    (load5.event = none ∧ tabWf {} loadSent.cores = true) := by decide +kernel

def atomAt (k : ReqKind) (ph : ReqPhase) : MemReq := { req k ph 0x104000 with dests := [⟨1, 0, 0, 32, false⟩] }
def satomState : State :=
  stand (plainT atBoundary) (fun s => { s with cores := [(0, { satoms := [⟨5, 0, 0, .add, .n32, 0, 4, 7, [], none⟩] })] })

/-- An atomic at its home on sound and on poisoned memory, one applied, and one on the scratchpad. -/
theorem wit_Atomics :
    AtHome (sent (atomAt (.atom .add .n32) .forwarded)) 5 (atomAt (.atom .add .n32) .forwarded) ∧ isAtomKind (.atom .add .n32) = true ∧
    accessPoisoned (sent (atomAt (.atom .add .n32) .forwarded)) 1 0x4000 0x104000 4 = false ∧
    accessPoisoned (poisonedAt (sent (atomAt (.atom .add .n32) .forwarded)) 0x8200) 1 0x4000 0x104000 4 = true ∧
    (findReq (sent (atomAt (.atom .add .n32) .applied)) 5 = some (atomAt (.atom .add .n32) .applied) ∧
      At (sent (atomAt (.atom .add .n32) .applied)) 0 0 (plainT atBoundary) atBoundary) ∧
    ((getCore satomState 0).satoms.find? (fun q => q.id == 5)).isSome = true ∧ tabWf 0 (getCore satomState 0).scratch = true ∧
    (∀ q ∈ (getCore satomState 0).satoms, q.id < 5 → q.addr / 8 ≠ 0) ∧
    (∀ b ∈ (List.range 4).map (fun i => (0 + i) / 4 % 32), windowFree satomState 0 b = true) ∧
    windowFree (stand (plainT atBoundary) (fun s => { s with cores := [(0, { satoms := [⟨5, 0, 0, .add, .n32, 0, 4, 7, [], none⟩], grid := { bankUse := [(s.ptc + 1, 0, 0, 0)] } })] })) 0 0 = false ∧
    (getTenant satomState 1).frctl.getLsbD 4 = false ∧ tabGet false (getCore satomState 0).spPoison 0 = false :=
  ⟨⟨by decide +kernel, rfl, by decide +kernel, by decide +kernel, rfl, by decide⟩, rfl, by decide +kernel, by decide +kernel, ⟨by decide +kernel, rfl, rfl⟩, by decide +kernel,
    by decide +kernel, by decide +kernel, by decide +kernel, by decide +kernel, by decide +kernel, by decide +kernel⟩

/-- Responses of atomics whose word sets a token: the last of them, and one behind which another is out. -/
def tokAtom (id : Nat) : MemReq := { atomAt (.atom .add .n32) .applied with id := id, sb := some 1 }
def tokUnit : WUnit := { atBoundary with toks := [(1, { state := .pending })] }

/-- An atomic of the scratchpad behind an earlier one on its word, and one in a view that stands on its upper half; operands of the other
forms. -/
theorem wit_Atomics_more :
    ((tokAtom 5).sb = some 1 ∧ tabWf {} tokUnit.toks = true ∧
      (∀ q ∈ (sent (tokAtom 5)).reqs, q.id ≠ 5 → q.sb ≠ some 1) ∧ (∀ c ∈ (sent (tokAtom 5)).cores, ∀ q ∈ c.2.satoms, q.sb ≠ some 1) ∧
      (∃ q ∈ { sent (tokAtom 5) with reqs := [tokAtom 5, tokAtom 6] }.reqs, q.id ≠ 5 ∧ q.team = 0 ∧ q.unit = 0 ∧ q.sb = some 1)) ∧
    (let s := stand (plainT atBoundary) (fun s => { s with
       cores := [(0, { satoms := [⟨4, 0, 0, .add, .n32, 4, 4, 7, [], none⟩, ⟨5, 0, 0, .add, .n32, 0, 4, 7, [], none⟩] })] })
     ∃ q ∈ (getCore s 0).satoms, q.id < 5 ∧ ∃ i j, i < q.n ∧ j < 4 ∧ satomAddr s q i / 8 = spAddr (plainT atBoundary) (0 + j) / 8) ∧
    (let T : Team := { plainT atBoundary with views := [⟨6, 0, 64, { bit := true }⟩] }
     spAddr T 0 = 64 ∧ ∀ i ∈ List.range 4, ∀ j ∈ List.range 4, i < j → spAddr T j ≠ spAddr T i) ∧
    ((0x104000 : Nat) % 2 ^ 16 + 4 ≤ 2 ^ 16) ∧ (tyWidth .n32 = 8 * 4 ∧ (7 : Nat) < 256 ^ 4) ∧ Ty.n32 ≠ .f32 ∧
    (∀ n ∈ [8, 16], n ∈ [8, 16, 32, 64] ∧ n ≤ 16 ∧ (2 ^ 64 - 1 : Nat) < 256 ^ n) ∧ (64 ∈ [8, 16, 32, 64] ∧ (0 : Nat) < 256 ^ 64) := by
  refine ⟨⟨rfl, by decide, by decide +kernel, by decide +kernel, tokAtom 6, by decide +kernel⟩,
    ⟨⟨4, 0, 0, .add, .n32, 4, 4, 7, [], none⟩, by decide +kernel, by decide, 0, 0, by decide, by decide, by decide +kernel⟩,
    by decide +kernel, by decide, by decide, by decide, by decide, by decide⟩

def claimReq (rel : Bool) : MemReq := { req (.claim rel) .forwarded 0x100000 with va := 0, n := 0x10000, pages := [0x10] }

/-- A posted write that may land, one that its I/O die holds, one to a hole and one to host memory; a claim of a free page, one
that waits for a load, one of no pages, one of a page another die has, and its release; a store to a page in transition; a mark. -/
theorem wit_PostedWritesClaimsAndMarks :
    (let s := sent (req .store .released 0x104000)
     tabGet 0 s.ioLast 3 < diePtc s 9 ∧ tabGet 0 s.ioLast 7 < diePtc s 10 ∧ homedPa s 0x104000 = true ∧ paKind s (0x104000 + 1 - 1) ≠ .hole ∧
     paKind s (2 ^ 39) = .hole ∧ paKind s (2 ^ 56) = .host ∧ WholeGranules s 0x104000 1 ∧ tabWf 0 s.ioLast = true ∧
     diePtc { s with ioLast := [(3, 1000)] } 9 ≤ tabGet 0 { s with ioLast := [(3, 1000)] }.ioLast 3) ∧
    (let s := sent (claimReq false)
     findReq s 5 = some (claimReq false) ∧ claimStatus s 0 [0x10] = 0 ∧ claimQuiet s (claimReq false) [0x10] = true ∧
     claimQuiet { s with loads := [{ load5 with id := 4 }] } (claimReq false) [0x10] = false ∧
     claimStatus { s with claims := [⟨1, 1, 0x10⟩] } 0 [0x10] ≠ 0) ∧
    (let r : MemReq := { claimReq false with n := 0, pages := [] }
     findReq (sent r) 5 = some r ∧ claimQuiet (sent r) r [] = true) ∧
    (let s := { sent (claimReq true) with claims := [⟨0, 1, 0x10⟩] }
     findReq s 5 = some (claimReq true) ∧ claimQuiet s (claimReq true) ((claimReq true).pages.filter (fun p => s.claims.any (fun c => c.page == p && c.die == 0))) = true) ∧
    (let r : MemReq := { req .store .forwarded 0x104000 with id := 6 }
     let s : State := { sent (claimReq false) with reqs := [claimReq false, r] }
     findReq s 6 = some r ∧ moving s 6 0x104000 = true ∧ paKind s 0x104000 ≠ .host ∧ r.kind ≠ .spawn) ∧
    homedPa (sent (claimReq true)) (32 * 0x8200) = true ∧ tabWf false (sent (claimReq true)).memPoison = true := by
  refine ⟨⟨by decide +kernel, by decide +kernel, by decide +kernel, by decide +kernel, by decide +kernel, by decide +kernel, ?_, by decide +kernel, by decide +kernel⟩,
    by decide +kernel, by decide +kernel, by decide +kernel, by decide +kernel, by decide +kernel, by decide +kernel⟩
  unfold WholeGranules
  decide +kernel

/-- Sources whose links are up and down, and a range that reaches a page in transition. -/
def linksUp (s : State) : State := { s with boot := { s.boot with mode := .full }, hostLanes := [(0, 16)], ports := [(3, 8)] }

theorem wit_PostedWritesClaimsAndMarks_links :
    (let s := linksUp (sent (req .store .released 0x104000))
     LinkUp s 3 ∧ LinkUp s 16 ∧ ¬LinkUp s 4 ∧ ¬LinkUp s 17 ∧ rangeMoves s 0x104000 1 = false ∧ homedPa s 0x104000 = true) ∧
    ¬LinkUp { linksUp (sent (req .store .released 0x104000)) with boot := { State.reset.boot with mode := .halter } } 3 ∧
    (let s := transit (linksUp (sent (req .store .released 0x104000)))
     rangeMoves s 0xFFFFF 2 = true ∧ rangeMoves s 0x10FFFF 1 = true ∧ rangeMoves s 0x110000 1 = false) := by
  refine ⟨⟨?_, ?_, ?_, ?_, by decide +kernel, by decide +kernel⟩, ?_, by decide +kernel⟩ <;> simp only [LinkUp] <;> decide +kernel

/-! ## The copy engine's steps -/

def bufEntry : ResEntry := { kind := .buffer, base := 0x4000, size := 4096 }
def copyReq (ph : CopyPhase) : CopyReq := { id := 5, vf := 1, team := 0, unit := 0, kind := .bufLd, sb := some 1, ap := false, sh := false, bv := none, res := bufEntry, ridx := 0, count := 64, phase := ph }
def copyTok : SbTok := { state := .pending, copy := true, promise := 100, req := 5 }
def copyUnit : WUnit := { atBoundary with toks := [(1, copyTok)] }
def copying (r : CopyReq) : State := stand (plainT copyUnit) (fun s => { s with ptc := 200, cores := [(0, { copyQ := [r] })] })

def accessOk (s : State) : Option (List Piece) := (checkAccess s 0 1 0x4000 16 .rd false).2.toOption

/-- A tile's element in range and out of it; a block copy's first 16 bytes. -/
theorem wit_CopyFormulas :
    (let e := entryOf 1; 3 < boxAt e 0 ∧ 3 < boxAt e 1 ∧ 0 < boxAt e 2 ∧ 0 < boxAt e 3) ∧
    ((copyReq .running).kind = .bufLd ∧ (copyReq .running).res.sp = false ∧ (plainT copyUnit).views = [] ∧ 16 ≤ (copyReq .running).res.size) ∧
    ((accessOk (copying (copyReq .running))).map (List.map Piece.n) = some [16] ∧ tabWf {} (copying (copyReq .running)).cores = true ∧
      inTransition (copying (copyReq .running)) 0x104000 = false) ∧
    (∀ x ∈ [16, 17], ({ copyReq .running with kind := .get, target := x, remote := 0x1000 } : CopyReq).remote + 16 * 3 < 2 ^ 55) :=
  ⟨by decide +kernel, by decide +kernel, by decide +kernel, by decide +kernel⟩

def viewT : Team := { plainT atBoundary with views := [⟨6, 0, 64, { dirty := true }⟩] }
def publState : State :=
  stand viewT (fun s => { s with cores := [(0, { copyQ := [{ copyReq .landed with kind := .publ, ap := true, view := some (.scratch 0 0) }] })] })

def waitTok : WUnit :=
  { copyUnit with flight := (exiting .exit).flight.map (fun f => { f with idx := 0, wait := some (.tokens 2 false) }) }

def moves (s : State) (k : Nat) : Bool :=
  match findCopy s 0 5, getTeam s 0 with
  | some r, some T => let q := readEntries s 0 T r; pieceReady s 0 T q k && (match movePiece s 0 q T k with | .ok _ => true | .error _ => false)
  | _, _ => false

def faultCopy : CopyReq := { copyReq .running with res := { bufEntry with base := 0x20000 } }
def credReq : CopyReq := { copyReq .running with kind := .cred, remote := 2, count := 2 }
def faultCred : CopyReq := { credReq with res := { bufEntry with base := 0x20000 } }

/-- The grid of a core whose scratchpad banks 0 and 1 lie in a window now. -/
def held (s : State) : State := { s with cores := s.cores.map (fun c => (c.1, { c.2 with grid := { bankUse := [(s.ptc, 0, 0, 0), (s.ptc, 1, 0, 0)] } })) }

def gviewState : State :=
  let s := stand (plainT atBoundary) (fun s => { s with cores := [(0, { copyQ := [{ copyReq .landed with kind := .publ, ap := true, view := some (.global 1 0x4000) }] })] })
  { s with tenants := s.tenants.map (fun x => (x.1, { x.2 with gviews := [⟨0x4000, 64, 0x5000, { dirty := true }⟩] })) }

def shadowCred : CopyReq := { credReq with sh := true, view := some (.global 1 0x4000) }

/-- A piece that may move, and one whose banks are held; requests that complete, or do not yet; views that may be published; a
promise that has passed; a request whose page is missing, and one in the firmware's hands; a collective that runs, one that the
firmware has, whose buffer is there or is missing, a shadowed one, and a saved team's. -/
theorem wit_CopySteps :
    (moves (copying (copyReq .running)) 0 = true ∧
      banksFree (copying (copyReq .running)) 0 (pieceBanks (plainT copyUnit) (copyReq .running) 0) = true ∧
      pieceReady (held (copying (copyReq .running))) 0 (plainT copyUnit) (copyReq .running) 0 = false ∧
      banksFree (held (copying (copyReq .running))) 0 (pieceBanks (plainT copyUnit) (copyReq .running) 0) = false) ∧
    findCopy (copying (copyReq .landed)) 0 5 = some (copyReq .landed) ∧
    (findCopy (copying (copyReq .running)) 0 5 = some (copyReq .running) ∧ copyFinished (copying (copyReq .running)) 0 (copyReq .running) = false) ∧
    ((getView publState (.scratch 0 0)).map ViewSt.count = some 0 ∧ publishing publState (.scratch 0 0) ≠ []) ∧
    ((getView gviewState (.global 1 0x4000)).map ViewSt.count = some 0 ∧ publishing gviewState (.global 1 0x4000) ≠ [] ∧
      tabWf {} gviewState.tenants = true) ∧
    (firstWait 200 (reqDone (copying (copyReq .running)) 0) waitTok 2 = some (1, .late) ∧ (waitTok.flight.bind (fun f => f.wait)) = some (.tokens 2 false) ∧
      waitTok.flight.map Flight.entered = some true) ∧
    (let s := copying faultCopy
     findCopy s 0 5 = some faultCopy ∧ priorStores s faultCopy = false ∧ copyBlocked s 0 faultCopy = false ∧
     matrixBefore (getCore s 0) faultCopy = false ∧
     (firstStop s 0 (readEntries s 0 (plainT copyUnit) faultCopy) (plainT copyUnit)).isSome = true) ∧
    findCopy (copying (copyReq .slow)) 0 5 = some (copyReq .slow) ∧
    (let r : CopyReq := { credReq with phase := .slow }
     findCopy (copying r) 0 5 = some r ∧ credMeets (copying r) 0 r = none ∧ (credValues (copying r) 0 r).toOption.isSome = true ∧
     (credWrite (copying r) 0 r none (List.replicate 2 0)).toOption.isSome = true ∧ oldestCred (copying r) 1 2 = some (0, r)) ∧
    (let r : CopyReq := { faultCred with phase := .slow }
     findCopy (copying r) 0 5 = some r ∧ (credMeets (copying r) 0 r).isSome = true) ∧
    (let s := copying credReq
     oldestCred s 1 2 = some (0, credReq) ∧ priorStores s credReq = false ∧ copyBlocked s 0 credReq = false ∧ s.creds = [] ∧
     credReq.view = none ∧ credReq.sh = false ∧ (credValues s 0 credReq).toOption.isSome = true ∧
     (credWrite (credTouch s 0 credReq (anyTeam s 0)) 0 credReq (anyTeam s 0) [4, 6]).toOption.isSome = true) ∧
    (shadowCred.view = some (.global 1 0x4000) ∧ shadowCred.sh = true) ∧
    (let s := copying faultCred
     oldestCred s 1 2 = some (0, faultCred) ∧ priorStores s faultCred = false ∧ copyBlocked s 0 faultCred = false ∧ s.creds = [] ∧
     (credValues s 0 faultCred).toOption.isSome = false) ∧
    (let x : CredInst := { core := 0, copy := faultCred }
     let s := { copying faultCred with creds := [x] }
     x ∈ s.creds ∧ (anyTeam s 0).isSome = true) := by decide +kernel

/-- A gather whose list lies at bank 0, where it may be read and where a window holds the bank, and one that read its entry before; a
request and a publish whose bytes an arrival of the cycle holds back; a collective with a link up, and one of a saved team into a view. -/
def gatherReq : CopyReq := { copyReq .running with kind := .gather, res := entryOf 1, count := 1 }
def lateT : Team := { plainT copyUnit with bars := [(3, { arrivedAt := 201 })], views := [⟨6, 0, 64, { unpub := [(0, 3, 16)], dirty := true }⟩] }
def lateReq : CopyReq := { copyReq .landed with bv := some 3 }
def lateState (r : CopyReq) : State := { copying r with teams := [(0, lateT)] }

theorem late_now (r : CopyReq) : ArrivedNow (lateState r) 0 3 := ⟨lateT, rfl, rfl⟩

theorem wit_CopySteps_more :
    (wantsList gatherReq = true ∧ (copying gatherReq).cores.length = 1 ∧
      (∀ k, k < gatherReq.count → banksFree (copying gatherReq) 0 (entryBanks (plainT copyUnit) gatherReq k) = true) ∧
      (∃ k, k < gatherReq.count ∧ tabFind gatherReq.got k = none ∧ banksFree (held (copying gatherReq)) 0 (entryBanks (plainT copyUnit) gatherReq k) = false) ∧
      (tabFind { gatherReq with got := [(0, 1)] }.got 0).isSome = true) ∧
    (findCopy (lateState lateReq) 0 5 = some lateReq ∧ BytesLate (lateState lateReq) lateReq) ∧ ¬BytesLate (copying (copyReq .landed)) (copyReq .landed) ∧
    (findCopy (lateState { lateReq with phase := .running }) 0 5 = some { lateReq with phase := .running } ∧
      BytesLate (lateState { lateReq with phase := .running }) { lateReq with phase := .running }) ∧
    (PublishLate (lateState (copyReq .landed)) (.scratch 0 0) ∧ ¬PublishLate publState (.scratch 0 0) ∧ ¬PublishLate gviewState (.global 1 0x4000)) ∧
    (let s := linksUp (copying credReq)
     scaleOut s = true ∧ oldestCred s 1 2 = some (0, credReq) ∧ priorStores s credReq = false ∧ copyBlocked s 0 credReq = false ∧
     (credValues s 0 credReq).toOption.isSome = true ∧
     (credWrite (credTouch s 0 credReq (anyTeam s 0)) 0 credReq (anyTeam s 0) [4, 6]).toOption.isSome = true) ∧
    scaleOut (copying credReq) = false ∧
    (let s := linksUp (copying faultCred)
     scaleOut s = true ∧ oldestCred s 1 2 = some (0, faultCred) ∧ (credValues s 0 faultCred).toOption.isSome = false) ∧
    (let x : CredInst := { core := 0, copy := shadowCred }
     let s := { gviewState with creds := [x] }
     (∃ y ∈ s.creds, y.copy.id = shadowCred.id) ∧ (getView s (.global 1 0x4000)).isSome = true ∧ tabWf {} s.tenants = true) := by
  have none_late : ∀ (s : State) (v : ViewRef), (publishing s v).all (fun x => x.2.bv.isNone) = true →
      (getView s v).all (fun x => x.unpub.isEmpty) = true → ¬PublishLate s v := by
    rintro s v h1 h2 (⟨core, r, hr, b, hb, -⟩ | ⟨x, hx, y, hy, -⟩)
    · have h := List.all_eq_true.mp h1 _ hr
      simp [hb] at h
    · rw [hx] at h2
      simp only [Option.all_some, List.isEmpty_iff] at h2
      rw [h2] at hy; exact List.not_mem_nil hy
  refine ⟨⟨by decide, by decide, by decide +kernel, ⟨0, by decide +kernel⟩, by decide⟩, ⟨by decide +kernel, 3, rfl, late_now _⟩, ?_,
    ⟨by decide +kernel, 3, rfl, late_now _⟩,
    ⟨.inr ⟨_, rfl, (0, 3, 16), List.mem_singleton.mpr rfl, late_now _⟩, none_late _ _ (by decide +kernel) (by decide +kernel),
      none_late _ _ (by decide +kernel) (by decide +kernel)⟩, by decide +kernel, by decide +kernel, by decide +kernel, by decide +kernel⟩
  rintro ⟨b, h, -⟩
  cases h

end Sys2Proof.Tests
end

