-- ==== Sys2Proof/Tests/Witness5.lean ====
section
/-! SUPPORT. Witnesses for the statements about the matrix engine's and the grid's steps, waits, launches and tenancy. -/

namespace Sys2Proof.Tests

set_option Elab.async false

open Sys2Proof Sys2Proof.Machine Sys2Proof.Claims

/-- Tables that map the first GiB one to one, by a leaf of that size (R142). -/
def flatMem : List Host.Cell :=
  [(0x10000, 8, 0x20001), (0x20000, 8, 0x30001), (0x30000, 8, 0x3D)].foldl (fun m x => memSetNum m x.1 x.2.1 x.2.2) []

/-! ## The matrix engine's and the grid's steps -/

def matOp (k : MatKind) : MatOp :=
  { id := 5, team := 0, unit := 0, kind := k, sb := none, slot := { efmt := .s8 }, shape := shape2, rows := 64, m := 16, n := 16, k := 16, started := true, ready := 8 }
def matState (o : MatOp) : State :=
  stand (plainT atBoundary) (fun s => { s with ptc := 64, cores := [(0, { mat := { holder := some 0, queue := [o], bubbleRun := 64 } })] })

/-- A queued instruction that may start; each kind when its time has come; a window of the limiter, and its bubbles. -/
theorem wit_MatrixSteps :
    (let o := { matOp .accz with started := false }
     findOp (matState o) 0 5 = some o ∧ mayStart (getCore (matState o) 0) o = true) ∧
    (∀ k ∈ [MatKind.accz, .chb false, .che, .mma false false false 0, .wbld false 0, .drain false false false],
      MatDue (matState (matOp k)) 0 5 (matOp k) (plainT atBoundary)) ∧
    (let s := matState (matOp .accz)
     (getMat s 0).windowAt + 32 ≤ s.ptc ∧ 64 ≤ (getMat s 0).bubbleRun ∧ tabWf {} s.cores = true) ∧
    (matOp .che).slot.efmt = .s8 ∧ (0 : Int) + 0 = 0 := by
  refine ⟨⟨by decide +kernel, by decide +kernel⟩, fun k hk => ?_, ⟨by decide +kernel, by decide +kernel, by decide +kernel⟩, rfl, rfl⟩
  simp only [List.mem_cons, List.not_mem_nil, or_false] at hk
  rcases hk with rfl | rfl | rfl | rfl | rfl | rfl <;>
    exact ⟨by decide +kernel, rfl, rfl, rfl, by decide +kernel, by decide +kernel, by decide +kernel, by decide +kernel⟩

def mma8 : MatOp := matOp (.mma false false false 0)
def heldPieces (k : MatKind) : MatOp :=
  let o := matOp k
  { o with slot := { o.slot with sexp := 0 }, bsexp := 0, w := 0, old := shapePieces (matState o) (plainT atBoundary) o.shape o.lo .s8 16 16 }
def feedState (f : State → State) : State :=
  f (stand (plainT atBoundary) (fun s => { s with ptc := 8, cores := [(0, { mat := { holder := some 0, queue := [{ mma8 with feed := 8 }] } })] }))
def bankWindow (s : State) : State := { s with cores := s.cores.map (fun c => (c.1, { c.2 with grid := { bankUse := (List.range 32).map (fun b => (s.ptc, b, 0, 0)) } })) }

/-- A WBLD whose banks are held; an MMA and a WBLD with the pieces that they read; marks and values at rest; a feed whose rows' banks
are free or held, with room under the limiter and without. -/
theorem wit_MatrixSteps_feeds :
    (let s := bankWindow (matState (matOp (.wbld false 0)))
     findOp s 0 5 = some (matOp (.wbld false 0)) ∧ (getTeam s 0).isSome = true ∧
     banksReached s 0 0 (opBanks (plainT atBoundary) (matOp (.wbld false 0))) = false) ∧
    (∀ k ∈ [MatKind.mma false false false 0, .wbld false 0],
      MatDue (matState (heldPieces k)) 0 5 (heldPieces k) (plainT atBoundary) ∧ (heldPieces k).slot.efmt = .s8 ∧
      (heldPieces k).slot.sexp + (heldPieces k).bsexp = (heldPieces k).w ∧
      (heldPieces k).old = shapePieces (matState (heldPieces k)) (plainT atBoundary) (heldPieces k).shape (heldPieces k).lo .s8 16 16) ∧
    ((getCore (matState (matOp (.drain false false false))) 0).spPoison = [] ∧ [(3 : Word), 4] ≠ []) ∧
    (let o := { matOp .che with slot := { efmt := .s32, wexp := 0 } }
     o.slot.efmt = .s32 ∧ o.slot.wexp = 0 ∧ tabGet false ({ marks := [(markKey (o.row + 4 * 0) 0, true)] } : Matrix).marks (markKey (o.row + 4 * 0) 0) = true ∧
     tabGet false ({} : Matrix).marks (markKey (o.row + 4 * 0) 0) = false) ∧
    (let m := getMat (feedState id) 0
     feeding m = some { mma8 with feed := 8 } ∧ (feedState id).ptc < m.windowAt + 32 ∧ m.bubbleRun < 64 ∧ 4 ≤ m.rampL ∧ m.used < m.rampL ∧
     feedReady (feedState id) 0 { mma8 with feed := 8 } = true ∧ feedReady (feedState bankWindow) 0 { mma8 with feed := 8 } = false ∧
     tabWf {} (feedState id).cores = true) := by
  refine ⟨by decide +kernel, fun k hk => ?_, by decide +kernel, by decide +kernel, by decide +kernel⟩
  simp only [List.mem_cons, List.not_mem_nil, or_false] at hk
  rcases hk with rfl | rfl <;>
    exact ⟨⟨by decide +kernel, rfl, rfl, rfl, by decide +kernel, by decide +kernel, by decide +kernel, by decide +kernel, by decide +kernel⟩,
      by decide +kernel, by decide +kernel, by decide +kernel⟩

/-- The interval that ends an idle time; the limiter under the current clamp; an element of the window inside its shape and one outside. -/
theorem wit_MatrixSteps_idle :
    ((getMat (feedState id) 0).idle = true ∧
      (let s := feedState (fun s => { s with cores := s.cores.map (fun c => (c.1, { c.2 with mat := { c.2.mat with idle := false } })) })
       (getMat s 0).idle = false ∧ (getMat s 0).used < min (getMat s 0).rampL 32)) ∧
    (let s : State := { matState (matOp .accz) with currentCap := true }
     s.currentCap = true ∧ (getMat s 0).windowAt + 32 ≤ s.ptc) ∧
    (0 < shape2.rows ∧ 0 < shape2.cols ∧ ¬(shape2.rows < shape2.rows)) ∧ getUnit (matState (matOp .che)) 0 0 = some atBoundary := by decide +kernel

/-- Products on the grid of 2^0 and one past its top; a DRAIN of four s8 elements whose banks are free, and one at a bank that is held,
before its first element and after it. -/
def drainOp : MatOp := { matOp (.drain false false false) with m := 2, n := 2, shape := { shape2 with rows := 2, cols := 2, rstride := 16, estride := 1 } }
def drainHeld (n : Nat) : State := bankWindow (matState { drainOp with written := n })

theorem wit_MatrixValues :
    (((2 : ℚ) ^ ((0 : Int) + 110) ≤ |(2 : ℚ) ^ 110|) ∧ |(3 : ℚ)| < (2 : ℚ) ^ ((0 : Int) + 110)) ∧
    (drainOp.slot.sexp = 0 ∧ drainOp.slot.efmt = .s8 ∧ drainOp.slot.dkeep = 0 ∧ (1 : Nat) ≠ 0 ∧ dropKeep 0 0 0 0 = false ∧ dropKeep 0 0 0 65535 = true) ∧
    (MatDue (matState drainOp) 0 5 drainOp (plainT atBoundary) ∧ (plainT atBoundary).core = 0 ∧ (plainT atBoundary).views = [] ∧
      (getCore (matState drainOp) 0).spPoison = [] ∧ tabWf 0 (getCore (matState drainOp) 0).scratch = true ∧ drainOp.written = 0 ∧
      (∀ i ∈ List.range 2, ∀ j ∈ List.range 2, banksFree (matState drainOp) 0 (drainBanks (plainT atBoundary) drainOp i j) = true ∧
        inShape drainOp.shape i j = true ∧ ∀ i' ∈ List.range 2, ∀ j' ∈ List.range 2, (i, j) ≠ (i', j') →
          drainByte (plainT atBoundary) drainOp i j 0 ≠ drainByte (plainT atBoundary) drainOp i' j' 0) ∧ elemSize .s8 = 1) ∧
    (∀ n ∈ [0, 1], MatDue (drainHeld n) 0 5 { drainOp with written := n } (plainT atBoundary) ∧ n < 2 * 2 ∧
      banksFree (drainHeld n) 0 (drainBanks (plainT atBoundary) drainOp (n / 2) (n % 2)) = false) ∧
    (∃ e, fDecode fmt32 0x3F800000 = .fin false (2 ^ 23) e) ∧ fDecode fmt32 0x7FC00000 = .nan false ∧
    (fvAdd false (fDecode fmt32 0x3F800000) (fIn fmt32 false 0)).2 = 0 ∧ (fvMul (fDecode fmt32 0x3F800000) (fDecode fmt32 0x40000000)).2 = 0 := by
  refine ⟨⟨?_, ?_⟩, by decide +kernel, ⟨?_, rfl, rfl, by decide +kernel, by decide +kernel, rfl, by decide +kernel, by decide +kernel⟩,
    fun n hn => ?_, ⟨-23, by decide +kernel⟩, by decide +kernel, by decide +kernel, by decide +kernel⟩
  · norm_num
  · norm_num
  · exact ⟨by decide +kernel, rfl, rfl, rfl, by decide +kernel, by decide +kernel, by decide +kernel, by decide +kernel, by decide +kernel⟩
  · simp only [List.mem_cons, List.not_mem_nil, or_false] at hn
    rcases hn with rfl | rfl <;>
      exact ⟨⟨by decide +kernel, rfl, rfl, rfl, by decide +kernel, by decide +kernel, by decide +kernel, by decide +kernel, by decide +kernel⟩,
        by decide, by decide +kernel⟩

def region0 : RegDesc := ⟨0, 0, 0, 0, 2⟩
/-- Tile 0 adds its latch to itself in slot 0; `GADD` with an input that is empty freezes. -/
def gridImg (w : Word) : GridImage := ⟨1, 0, 1, [region0], [⟨.cp, 0, [0, 0, 0, 0], [w]⟩], [], {}, 0, none⟩
def gridRun (w : Word) (slot : Nat) : State :=
  stand (plainT atBoundary) (fun s => { s with ptc := 8, cores := [(0, { grid := { holder := some 0, gen := 1, active := some (gridImg w), ctxs := [(0, { slot := slot, valid := 1, remaining := 3, running := true, begun := true })] } })] })

def gaddW : Word := 0x10004400
def gaddEmpty : Word := 0x10004680

/-- A region in its first slot, in its last, and with an operation that waits for an input. -/
theorem wit_GridCycles :
    OneRegion (gridRun gaddW 0) 0 (gridImg gaddW) region0 ∧ OneRegion (gridRun gaddW 1) 0 (gridImg gaddW) region0 ∧
    OneRegion (gridRun gaddEmpty 0) 0 (gridImg gaddEmpty) region0 ∧
    (dueOps (gridImg gaddW) 0 (getCtx (getGrid (gridRun gaddW 0) 0) region0)).any (fun y => opFreezes 8 (getGrid (gridRun gaddW 0) 0) y.1 y.2) = false ∧
    (dueOps (gridImg gaddEmpty) 0 (getCtx (getGrid (gridRun gaddEmpty 0) 0) region0)).any (fun y => opFreezes 8 (getGrid (gridRun gaddEmpty 0) 0) y.1 y.2) = true ∧
    (getGrid (stand (plainT atBoundary) id) 0).active = none ∧ (let o := gop gaddW.toNat; 1 ≤ o.op ∧ o.op ≤ 10 ∧ o.dst < 16) := by
  refine ⟨?_, ?_, ?_, by decide +kernel, by decide +kernel, by decide +kernel, by decide +kernel⟩ <;>
    exact ⟨by decide +kernel, rfl, by decide +kernel, by decide +kernel, by decide +kernel, by decide +kernel, by decide +kernel, by decide +kernel,
      by decide +kernel, by decide +kernel, by decide +kernel⟩

/-- A grid that GFRAME has halted, and one that has stopped. -/
def restingGrid (halt stop : Bool) : State :=
  { gridRun gaddW 0 with cores := (gridRun gaddW 0).cores.map (fun c => (c.1, { c.2 with grid := { c.2.grid with halted := halt, stopped := stop } })) }

theorem wit_GridCycles_rests :
    ∀ x ∈ [(true, false), (false, true)],
      let s := restingGrid x.1 x.2
      tabWf {} s.cores = true ∧ (getGrid s 0).active = some (gridImg gaddW) ∧ (getGrid s 0).lastCycle ≤ s.ptc ∧ gridStalled s 0 = false ∧
        ((getGrid s 0).halted = true ∨ (getGrid s 0).stopped = true) := by decide +kernel

def engState (e : StreamEng) (g : Grid) : State :=
  stand (plainT atBoundary) (fun s => { s with ptc := 8, cores := [(0, { grid := { g with holder := some 0, engs := [(0, e)] } })] })

def group5 : StreamGroup := { id := 5, cmd := 1, gen := 0, byTile := false, store := false, sp := false, rpl := some (0, 1), data := [1, 2, 3, 4], missing := 0, reqs := [], entered := 2 }
def opened : StreamOpen := { store := false, w := 4, res := bufEntry, req := none, rpl := some (0, 1), gen := 0 }
def cmdOf (k : StreamCmdKind) (left : Nat) : StreamCmd := { id := 7, gen := 0, kind := k, sb := none, left := left }

/-- An image of one page with one region, at 0x4000. -/
def imgMem : List Host.Cell :=
  [(0x4000, 4, 0x47534731), (0x4004, 2, 0x0101), (0x4008, 4, 1616), (0x4040, 2, 1)].foldl (fun m x => memSetNum m x.1 x.2.1 x.2.2) flatMem
def stagingOf (n : Nat) : Staging := { gen := 1, res := { bufEntry with base := 0x4000 + n, kind := .gridimg }, p0 := 0, slot := {}, id := 0, sb := none }
def imgState (n : Nat) : State :=
  stand (plainT atBoundary) (fun s => { s with mem := imgMem, cores := [(0, { grid := { holder := some 0, gen := 1, staging := some (stagingOf n) } })] })

/-- A load group that lands; an STRMB with a group to issue; an image that passes and one that is out of place; a staged
image on an idle grid; a command that opens, closes or has nothing left. -/
theorem wit_GridSteps :
    ((getEng (getGrid (engState { groups := [group5] } {}) 0) 0).groups.find? (fun q => !q.store) = some group5 ∧
      genLive (getGrid (engState { groups := [group5] } {}) 0) 0 = true) ∧
    (let s := engState { cmds := [cmdOf (.drive 0 4) 2], opened := some opened } {}
     (getEng (getGrid s 0) 0).cmds.head? = some (cmdOf (.drive 0 4) 2) ∧ gridStalled s 0 = false ∧ genLive (getGrid s 0) 0 = true ∧
     (getEng (getGrid s 0) 0).opened = some opened ∧ (outGroups 8 (getEng (getGrid s 0) 0)).length < 64) ∧
    (∀ n ∈ [0, 8], (getGrid (imgState n) 0).staging = some (stagingOf n) ∧ ((getGrid (imgState n) 0).holder.bind (getTeam (imgState n))) = some (plainT atBoundary)) ∧
    (checkImage (imgState 0) 1 4 (stagingOf 0) trapNum).toOption.isSome = true ∧ (checkImage (imgState 8) 1 4 (stagingOf 8) trapNum).toOption = none ∧
    (let s := engState {} { gen := 1, staged := some image1 }
     (getGrid s 0).staged = some image1 ∧ (getGrid s 0).cmds = [] ∧ (getGrid s 0).active = none) ∧
    (let s := engState { cmds := [cmdOf (.open false 4 bufEntry none none) 0] } {}
     genState (getGrid s 0) 0 ≠ .staged ∧ openFails (getGrid s 0) 0 none none = false) ∧
    (let s := engState { cmds := [cmdOf .close 0] } {}
     (getEng (getGrid s 0) 0).cmds.head? = some (cmdOf .close 0) ∧ genState (getGrid s 0) 0 ≠ .staged ∧ genLive (getGrid s 0) 0 = true ∧ gridStalled s 0 = false) ∧
    (let s := engState { cmds := [cmdOf (.drive 0 4) 0] } {}
     (getEng (getGrid s 0) 0).cmds.head? = some (cmdOf (.drive 0 4) 0) ∧ genState (getGrid s 0) 0 ≠ .staged ∧ genLive (getGrid s 0) 0 = true ∧
     (∀ y ∈ outGroups s.ptc (getEng (getGrid s 0) 0), y.cmd ≠ 7) ∧ (cmdOf (.drive 0 4) 0).gwct = 0 ∧ tabWf {} (getGrid s 0).engs = true) ∧
    (∀ n ∈ [0, 8], gridStalled (imgState n) 0 = false) ∧ opened.res.sp = false := by
  refine ⟨by decide +kernel, by decide +kernel, fun n hn => ?_, by decide +kernel, by decide +kernel, by decide +kernel, by decide +kernel, by decide +kernel, by decide +kernel, by decide +kernel, rfl⟩
  simp only [List.mem_cons, List.not_mem_nil, or_false] at hn
  rcases hn with rfl | rfl <;> exact ⟨by decide +kernel, by decide +kernel⟩

/-! ## Waits that end, the watchdog and the time zones -/

/-- A unit whose block stands at a word of chapter 10 and waits. -/
def waitUnit (word : IWord) (x : Wait) (k : WaitKind) : WUnit :=
  { splits := [(0, { root with state := .inFlight })]
    flight := some { frag := 0, addr := 0x2000, words := [word], hdr := ⟨1, 1, 0, false, false, 0, [0], [], [], none⟩, wait := some x, waitKind := k } }
def waitState (word : IWord) (x : Wait) (k : WaitKind) : State := stand (plainT (waitUnit word x k)) (fun s => { s with ptc := 200 })
def waitIss (word : IWord) (x : Wait) (k : WaitKind) : Iss :=
  ⟨0, 0, plainT (waitUnit word x k), waitUnit word x k, ((waitUnit word x k).flight).getD { frag := 0, addr := 0, words := [], hdr := ⟨1, 1, 0, false, false, 0, [0], [], [], none⟩ }⟩

def barWord : IWord := 0x88000000000080102100000000000004
def realignWord : IWord := 0x8F000000030080100000000000000000
def waitxWord : IWord := 0x8E000000030080106000000000000000

/-- The unit stands at a word of mnemonic `o` and waits with `x`, in the words of `WaitsAt`. -/
def StandsAt (word : IWord) (x : Wait) (k : WaitKind) (o : Op) : Prop :=
  issOf (waitState word x k) 0 0 = some (waitIss word x k) ∧ (waitIss word x k).f.fault = none ∧ (waitIss word x k).f.wait = some x ∧
    (wordOf (waitIss word x k)).map (fun v => v.1) = some o

/-- The unit of `waitUnit` with token 1 as given: what a wait on mask 2 finds. -/
def tokenWait (k : SbTok) : Option (Nat × TokWait) :=
  firstWait 200 (reqDone (waitState barWord (.tokens 2 false) .token) 0) { waitUnit barWord (.tokens 2 false) .token with toks := [(1, k)] } 2

/-- The other waits: of a ring's phase, a sleep, the grid, tokens to their end, and tokens complete, pending, late and failed; a WAITX
that sleeps, one woken, one past its deadline, and one at poisoned bytes. -/
theorem wit_WaitsEnd_kinds :
    (∀ x ∈ [Wait.ring 1 2 false true, .sleep 100, .grid 0 0, .tokens 2 true, .tokens 2 false], StandsAt barWord x .barrier .bar) ∧
    (tokenWait {} = none ∧ tokenWait { state := .pending, copy := true, promise := 300 } = some (1, .wait) ∧
      tokenWait { state := .pending, copy := true, promise := 100 } = some (1, .late) ∧ tokenWait { state := .failed, copy := true } = some (1, .failed)) ∧
    StandsAt waitxWord (.word 0x4000 0x104000 false true 1 0 none 200 false) .external .waitx ∧
    StandsAt waitxWord (.word 0x4000 0x104000 false true 0 0 none 5000 true) .external .waitx ∧
    StandsAt waitxWord (.word 0x4000 0x104000 false true 1 0 (some 100) 8 false) .external .waitx ∧
    (let s := waitState waitxWord (.word 0x4000 0x104000 false true 0 0 none 0 false) .external
     rangePoisoned { s with memPoison := [(0x8200, true)] } (homeAddr s 1 0x4000 0x104000) 4 = true ∧ (200 : Nat) ≤ s.ptc ∧ 100 ≤ diePtc s 0) := by
  refine ⟨fun x hx => ?_, by decide +kernel, ⟨rfl, rfl, rfl, by decide +kernel⟩, ⟨rfl, rfl, rfl, by decide +kernel⟩, ⟨rfl, rfl, rfl, by decide +kernel⟩,
    by decide +kernel⟩
  simp only [List.mem_cons, List.not_mem_nil, or_false] at hx
  rcases hx with rfl | rfl | rfl | rfl | rfl <;> exact ⟨rfl, rfl, rfl, by decide +kernel⟩

/-- A barrier wait, a REALIGN, and a WAITX whose first read is due. -/
theorem wit_WaitsEnd :
    StandsAt barWord (.barrier 0) .barrier .bar ∧ StandsAt realignWord (.realign 5 3) .external .realign ∧
    StandsAt waitxWord (.word 0x4000 0x104000 false true 0 0 none 0 false) .external .waitx ∧
    (let s := waitState waitxWord (.word 0x4000 0x104000 false true 0 0 none 0 false) .external
     rangePoisoned s (homeAddr s 1 0x4000 0x104000) 4 = false ∧ paKind s 0x104000 ≠ .device ∧ memNum s.mem (homeAddr s 1 0x4000 0x104000) 4 = 0) :=
  ⟨⟨rfl, rfl, rfl, by decide +kernel⟩, ⟨rfl, rfl, rfl, by decide +kernel⟩, ⟨rfl, rfl, rfl, by decide +kernel⟩,
    ⟨by decide +kernel, by decide +kernel, by decide +kernel⟩⟩

/-- A WAITX whose page is in transition, and one whose page is not. -/
theorem wit_WaitsEnd_transition :
    (let s := waitState waitxWord (.word 0x4000 0x104000 false true 0 0 none 0 false) .external
     inTransition s 0x104000 = false ∧ inTransition (transit s) 0x104000 = true) ∧
    issOf (transit (waitState waitxWord (.word 0x4000 0x104000 false true 0 0 none 0 false) .external)) 0 0 =
      some (waitIss waitxWord (.word 0x4000 0x104000 false true 0 0 none 0 false) .external) := ⟨by decide +kernel, rfl⟩

def flipUnit : WUnit := { atBoundary with flips := [⟨1, 2, false, 1⟩] }
def stuckT : Team := { plainT (waitUnit barWord (.barrier 0) .barrier) with wd := 2 ^ 26, bars := [(0, ⟨0, true, 2, 1, 0, 0, 0⟩)] }

/-- A recorded flip whose release part is over; a team at the watchdog's interval, and one below it. -/
theorem wit_FlipsWatchdogAndReroute :
    (let s := stand (plainT flipUnit) (fun s => { s with ptc := 8 })
     At s 0 0 (plainT flipUnit) flipUnit ∧ flipUnit.flips = [⟨1, 2, false, 1⟩] ∧ flipUnit.atomics = 0 ∧ releaseDone s 0 0 (plainT flipUnit) flipUnit 1 = true) ∧
    (2 ^ stuckT.wdog ≤ stuckT.wd ∧ tabSorted stuckT.units = true ∧ (∀ x ∈ stuckT.units, x.2.tm = false ∧ tabWf {} x.2.splits = true)) ∧
    (∀ x ∈ stuckT.units, x.2.done = false ∧ x.2.flight.isSome = true ∧ oldestFrag x.2 = some 0) ∧
    teamStuck (stand stuckT id) 0 stuckT = true ∧ (plainT atBoundary).wd < 2 ^ (plainT atBoundary).wdog ∧
    teamStuck (stand { plainT atBoundary with wd := 2 ^ 26 } id) 0 { plainT atBoundary with wd := 2 ^ 26 } = false ∧
    (let T := { plainT atBoundary with fph := [(10, true)] }; tabWf false T.fph = true ∧ tabWf false T.eph = true) ∧
    tabWf 0 State.reset.lat = true ∧ tabWf false State.reset.rr = true :=
  ⟨⟨⟨rfl, rfl⟩, rfl, rfl, by decide +kernel⟩, by decide +kernel, by decide +kernel, by decide +kernel, by decide +kernel, by decide +kernel, by decide +kernel,
    by decide +kernel, by decide +kernel⟩

/-- A team that a unit's issue of this cycle keeps from the count, and one that nothing does. -/
theorem wit_FlipsWatchdogAndReroute_counts :
    (let T : Team := { stuckT with units := stuckT.units.map (fun x => (x.1, { x.2 with issuedAt := 1 })) }
     teamStuck (stand T id) 0 T = false) ∧
    (stuckT.retired = false ∧ stuckT.term = none ∧ (∃ x ∈ stuckT.units, x.2.done = false) ∧
      (∀ x ∈ stuckT.units, ∃ f, x.2.flight = some f ∧ f.waitKind ≠ .none ∧ f.waitKind ≠ .external) ∧
      (∀ x ∈ stuckT.units, x.2.issuedAt ≠ (stand stuckT id).ptc + 1) ∧ (getCore (stand stuckT id) 0).copyQ = [] ∧
      (getMat (stand stuckT id) 0).queue = [] ∧ (getGrid (stand stuckT id) 0).holder ≠ some 0) := by
  refine ⟨by decide +kernel, rfl, rfl, by decide, fun x hx => ?_, by decide, by decide +kernel, by decide +kernel, by decide +kernel⟩
  obtain rfl := List.mem_singleton.mp hx
  exact ⟨_, rfl, by decide, by decide⟩

/-! ## Launches -/

/-- Region 3 at 0x7000 with a ring of four slots at 0x8000 that holds one record: one team of one warp of 16 registers. -/
def regionMem (ctl : Nat) : List Host.Cell :=
  [(0x7010, 8, 0x8000), (0x7018, 4, 4), (0x7020, 4, 1), (0x7024, 1, 8), (0x7027, 1, ctl), (0x7040, 8, 0x4000), (0x7050, 1, 26),
   (0x7052, 2, 3), (0x8000, 8, 0x2000), (0x8010, 4, 1), (0x8014, 1, 1), (0x8018, 2, 16), (0x801C, 1, 1), (0x8024, 4, 1),
   (0x8028, 8, 0x1000), (0x8030, 8, 0x7000), (0x8060, 8, 0x9000)].foldl (fun m x => memSetNum m x.1 x.2.1 x.2.2) flatMem

def cfg1 : TenantCfg := { vf := 1, part := 0, sliceMs := 100, leadMs := 0, root := 0x10000, regions := [(3, 0x7000)], ports := [], groups := [] }
def regionState (ctl : Nat) (V : Tenant) : State :=
  { State.reset with
    mem := regionMem ctl, boot := { mode := .full, t2 := 3 }, vfMse := true, hostLanes := [(0, 16)], place := [(0, 0x80E40000)]
    parts := [(0, { groups := [0], tier1 := [(0, 2 ^ 20)], current := some 1 })], tenants := [(1, { V with cfg := cfg1, bound := true, enabled := true })] }

/-- That record's 256 bytes, as they lie at 0x8000, and as `LaunchRec`. -/
def recBits : Nat :=
  [(0, 0x2000), (0x10, 1), (0x14, 1), (0x18, 16), (0x1C, 1), (0x24, 1), (0x28, 0x1000), (0x30, 0x7000), (0x60, 0x9000)].foldl
    (fun n x => n + x.2 * 256 ^ x.1) 0
def record : LaunchRec :=
  { entry := 0x2000, teams := 1, warps := 1, regs := 16, lastn := 1, rcount := 1, rtab := 0x1000, region := 0x7000, done := 0x9000
    slots := List.replicate 8 {} }

/-- The record with an EFMT of 255, and with 16 warps of 512 registers. -/
def badSlot : Nat := recBits + 255 * 256 ^ 128
def bigRegs : Nat := recBits + 15 * 256 ^ 20 + 496 * 256 ^ 24

/-- A record that passes, one whose fields fail, one with a bad slot, one with too many registers; the same record spawned from
its region and from another. -/
theorem wit_RecordsAndTheReadyStore :
    (checkRec (regionState 0 {}) 1 0x7000 recBits).toOption = some record ∧ recFieldsOk 0 = false ∧
    (recFieldsOk badSlot = true ∧ recSlotsOk badSlot = false ∧ recFieldsOk bigRegs = true ∧ recSlotsOk bigRegs = true ∧
     524288 < (recOf bigRegs).warps * (recOf bigRegs).regs * 512) ∧
    (homePieces (regionState 0 {}) 1 0x8000 16).toOption = some recBits ∧ tabWf {} (regionState 0 {}).tenants = true ∧
    under (regionState 0 {}) 1 0x7000 0x7000 = true ∧ under (regionState 0 {}) 1 0x7080 0x7000 = false ∧ storeFull (regionState 0 {}) 1 = false := by
  refine ⟨by decide +kernel, by decide +kernel, ⟨by decide +kernel, by decide +kernel, by decide +kernel, by decide +kernel, by decide +kernel⟩,
    by decide +kernel, by decide +kernel, by decide +kernel, by decide +kernel, by decide +kernel⟩

/-- A full ready store, whose record is refused on the bench; a spawn's record that passes with no ring and one that does not. -/
theorem wit_RecordsAndTheReadyStore_full :
    (let s := regionState 0 { ready := List.replicate 64 { seq := 0, lrec := record, rnum := 3 } }
     storeFull s 1 = true ∧ (getTenant s 1).ready.length ≤ 64) ∧
    (checkRec (regionState 0 {}) 1 0 (mixPieces [] recBits)).toOption.isSome = true ∧
    (checkRec (regionState 0 {}) 1 0 (mixPieces [] badSlot)).toOption = none ∧
    under (regionState 0 {}) 1 0x7000 (bytesOf (mixPieces [] recBits) 48 8) = true ∧
    (checkRec (regionState 0 {}) 1 0x7000 badSlot).toOption = none := by decide +kernel

/-- A function that can be woken, with an empty directory entry and with region 3; Halter mode; a scan of a plain and of a
conditional node. -/
theorem wit_WakesAndScans :
    (vfReached (regionState 0 {}) 1 = true ∧ regionAddr (regionState 0 {}) 1 3 ≠ 0 ∧ regionAddr (regionState 0 {}) 1 4 = 0) ∧
    pfReached { regionState 0 {} with boot := { mode := .halter } } = true ∧
    (let s := regionState 0 { scans := [{ rnum := 3 }] }
     (getTenant s 1).scans.find? (fun y => y.rnum == 3) = some { rnum := 3 } ∧ storeFull s 1 = false ∧
     (rcbAt s 1 (regionAddr s 1 3)).map (fun b => (ringUsable b, b.lhead, b.ltail, b.ctl)) = some (true, 0, 1, 0)) ∧
    (let s := regionState 1 { scans := [{ rnum := 3 }] }
     (rcbAt s 1 (regionAddr s 1 3)).map (fun b => (ringUsable b, decide (ringCount b.lhead b.ltail ≤ b.lrsize), b.ctl.testBit 0, drained s 1 b.after)) = some (true, true, true, true) ∧
     (homeRead s 1 0x4000 8).toOption = some 0) := by
  refine ⟨⟨by decide +kernel, by decide +kernel, by decide +kernel⟩, by decide +kernel, ⟨by decide +kernel, by decide +kernel, by decide +kernel⟩,
    ⟨by decide +kernel, by decide +kernel⟩⟩

/-- A scan that was cut short; one that met a full store, and is the next of those that wait; a store that is full now; a
conditional node whose gate region still has records. -/
theorem wit_WakesAndScans_full :
    (let s := regionState 0 { scans := [{ rnum := 3, upTo := some 1 }] }
     (getTenant s 1).scans.find? (fun y => y.rnum == 3) = some { rnum := 3, upTo := some 1 } ∧ scanTurn s 1 3 = some 65536) ∧
    (let s := regionState 0 { scans := [{ rnum := 3, upTo := some 1, hold := true }] }
     nextHeld s 1 = some 3 ∧ storeFull s 1 = false ∧ scanTurn s 1 3 = some 1) ∧
    (let s := regionState 0 { scans := [{ rnum := 3, upTo := some 1 }], ready := List.replicate 64 { seq := 0, lrec := record, rnum := 3 } }
     storeFull s 1 = true ∧ scanTurn s 1 3 = none) ∧
    (regionState 0 {}).boot.mode ≠ .halter ∧ (getTenant (regionState 0 {}) 1).resetting = false ∧
    (let s := { regionState 0 {} with tenants := [(1, { cfg := { cfg1 with regions := [(3, 2 ^ 35)] } })] }
     rcbAt s 1 (regionAddr s 1 3) = none) ∧
    (let s := regionState 1 { scans := [{ rnum := 3 }] }
     drained { s with mem := memSetNum s.mem 0x7038 8 0x7000 } 1 0x7000 = false) := by decide +kernel

/-- A ready store with room for one more, and a region that is woken while it is full. -/
theorem wit_RecordsWakesAndScans_room :
    (let V : Tenant := { ready := List.replicate 63 { seq := 0, lrec := record, rnum := 3 }, scans := [{ rnum := 3 }] }
     63 ≤ (getTenant (regionState 0 V) 1).ready.length ∧ (getTenant (regionState 0 V) 1).scans ≠ []) ∧
    (let V : Tenant := { ready := List.replicate 64 { seq := 0, lrec := record, rnum := 3 } }
     64 ≤ (getTenant (regionState 0 V) 1).ready.length ∧ vfReached (regionState 0 V) 1 = true) := by decide +kernel

def ready1 : Launch := { seq := 0, lrec := record, rnum := 3 }
def placeable : State := regionState 0 { ready := [ready1] }

/-- A launch whose first team fits on core 0. -/
theorem wit_TeamsArePlaced :
    (getPart placeable 0).map (fun P => (P.current, P.step)) = some (some 1, .slice) ∧ (levelHeads placeable 1).head? = some ready1 ∧
    nextTeamNum ready1 = some 0 ∧ (rcbChain placeable 1 ready1.lrec.region).map (fun c => (budgetOk c, gateOpen placeable (getTenant placeable 1) (effSlot c) 0 (effT1b c))) = some (true, true) ∧
    firstFit placeable { groups := [0], tier1 := [(0, 2 ^ 20)], current := some 1 } 1 ready1.lrec = some (0, 0, []) ∧
    fitOn placeable ready1.lrec 0 = some (0, []) := by decide +kernel

def doneUnit : WUnit := { atBoundary with done := true }
def retiredL : Launch := { ready1 with teams := [(0, .retired)], next := 1 }

/-- A team whose one warp has retired, one whose warp has not, and a launch whose team has retired. -/
theorem wit_TeamsAndLaunchesRetire :
    (let s := stand (plainT doneUnit) id
     getTeam s 0 = some (plainT doneUnit) ∧ (∀ x ∈ (plainT doneUnit).units, x.2.done = true) ∧ requestsEnded s 0 (plainT doneUnit) = true ∧
     s.ptc - (plainT doneUnit).since < 1051050 ∧ (getGrid s 0).holder ≠ some 0) ∧
    ((∃ x ∈ (plainT atBoundary).units, x.2.done = false) ∧ 1051050 ≤ (stand (plainT doneUnit) (fun s => { s with ptc := 1051050 })).ptc - (plainT doneUnit).since) ∧
    (let s := { regionState 0 { ready := [retiredL] } with ptc := 8 }
     (getTenant s 1).ready.find? (fun y => y.seq == 0) = some retiredL ∧ teamsRetired retiredL = true ∧ writesPassed s 1 retiredL = true ∧
     retiredL.lrec.done = 0x9000 ∧ (walk s 1 0x9000).toOption.map TlbEnt.wr = some true) :=
  ⟨⟨rfl, by decide +kernel, by decide +kernel, by decide +kernel, by decide +kernel⟩, ⟨⟨(0, atBoundary), by decide +kernel, rfl⟩, by decide +kernel⟩,
    ⟨by decide +kernel, by decide +kernel, by decide +kernel, by decide +kernel, by decide +kernel⟩⟩

/-- A done team that holds its core's grid; a done word that memory takes. -/
theorem wit_TeamsAndLaunchesRetire_grid :
    (let s := stand (plainT doneUnit) (fun s => { s with cores := [(0, { grid := { holder := some 0 } })] })
     requestsEnded s 0 (plainT doneUnit) = true ∧ (getGrid s 0).holder = some 0 ∧ tabWf {} s.cores = true ∧ tabWf {} s.tenants = true) ∧
    (let s := regionState 0 { ready := [retiredL] }
     accessDrops s 1 0x9000 0x9000 8 = false ∧ Memory.wf s.mem = true ∧ tabWf {} s.tenants = true) := by decide +kernel

/-! ## Tenancy -/

def sliced (P : Partition) (two : Bool) : State :=
  let s := regionState 0 { ready := [ready1] }
  { s with
    ptc := 200000000, parts := [(0, { P with groups := [0], current := if P.step == .slice && P.next.isSome then none else some 1 })]
    tenants := s.tenants ++ (if two then [(2, { cfg := { cfg1 with vf := 2 }, bound := true, enabled := true, ready := [ready1] })] else []) }

/-- The end of a slice with and without another tenant that has work; a lead time; the slice of the next tenant; a quiet
outgoing tenant; a team with core time to charge. -/
theorem wit_SlicesAndTheBurnisher :
    (nextTenant (sliced {} false) 0 1 = none ∧ nextTenant (sliced {} true) 0 1 = some 2) ∧
    (let s := sliced {} true
     (getPart s 0).map (fun P => (P.current, P.step, P.since)) = some (some 1, .slice, 0) ∧ 1050000 * max 100 (min 10000 (getTenant s 1).cfg.sliceMs) ≤ s.ptc) ∧
    (let s := sliced { step := .demote, next := some 2 } true
     (getPart s 0).map (fun P => (P.current, P.step, P.next)) = some (some 1, .demote, some 2) ∧ (getTenant s 1).resetting = false) ∧
    (let s := sliced { next := some 2 } true
     (getPart s 0).map (fun P => (P.current, P.step)) = some (none, .slice) ∧ (boundTenants s 0).find? (hasWork s) = some 1) ∧
    (let s := sliced { step := .preempt, next := some 2 } true
     (getPart s 0).map (fun P => (P.current, P.step, tenantQuiet s P 1)) = some (some 1, .preempt, true)) ∧
    (getTeam (stand (plainT atBoundary) (fun s => { s with ptc := 2100 })) 0 = some (plainT atBoundary) ∧ 0 < min 1000 ((2100 - (plainT atBoundary).since) / 1050)) := by
  refine ⟨⟨by decide +kernel, by decide +kernel⟩, ⟨by decide +kernel, by decide +kernel⟩, ⟨by decide +kernel, by decide +kernel⟩,
    ⟨by decide +kernel, by decide +kernel⟩, by decide +kernel, ⟨rfl, by decide⟩⟩

/-- A team of the outgoing tenant that is still there; a page of its own in tier 1; a team whose region takes the charge. -/
theorem wit_SlicesAndTheBurnisher_waits :
    (let s := { sliced { step := .preempt, next := some 2 } true with teams := [(0, plainT atBoundary)] }
     (getPart s 0).map (fun P => (P.step, P.current, tenantQuiet s P 1)) = some (.preempt, some 1, false) ∧ tabWf {} s.cores = true) ∧
    (let s := { sliced { step := .demote, next := some 2 } true with mem := benchMem }
     residentPages s 1 ≠ []) ∧
    residentPages { sliced { step := .demote, next := some 2 } true with mem := [] } 1 = [] ∧
    (let T := { plainT atBoundary with lrec := record }
     let s := { regionState 0 {} with ptc := 2100, teams := [(0, T)] }
     getTeam s 0 = some T ∧ ((rcbChain s 1 0x7000).map (List.map Rcb.addr)) = some [0x7000] ∧
     ((walk s 1 0x7030).toOption.map (fun e => leafPa e 0x7030)) = some 0x7030 ∧ accessDrops s 1 0x7030 0x7030 8 = false ∧
     Memory.wf s.mem = true) := by decide +kernel

/-- The last tenant with work, after which the turn comes to the lowest. -/
theorem wit_SlicesAndTheBurnisher_wraps :
    nextTenant (sliced {} true) 0 2 = some 1 ∧ tabSorted (sliced {} true).tenants = true ∧ boundTenants (sliced {} true) 0 = [1, 2] ∧
    (∀ c ∈ [1, 2], hasWork (sliced {} true) c = true) := by decide +kernel

/-- Core 0 moved to physical core 5, the rest as it is. -/
def layout5 : Layout :=
  { place := (0x80E40005 : BitVec 32) :: List.replicate 287 0, parts := [⟨0, [0], [(0, 2 ^ 20)]⟩], tenants := [cfg1] }
/-- A page table of one leaf: the page 0x10 at the addresses from 0. -/
def moveMem : List Host.Cell :=
  [(0x10000, 0x20001), (0x20000, 0x30001), (0x30000, 0x40001), (0x40000, 0x50001), (0x50000, 0x100039)].foldl (fun m x => memSetNum m x.1 8 x.2) []
def layState : State := { regionState 0 {} with staged := some layout5 }

/-- A layout that may be staged, and one that may not; a quiet tick, one that waits for a team, and one with a claim to return first;
a core in service with spares and without; a page that may move, and a slot that may take it into tier 1. -/
theorem wit_LayoutsAndPageMoves :
    (layoutOk (regionState 0 {}) layout5 = true ∧ layoutOk (regionState 0 {}) { layout5 with place := [] } = false) ∧
    (layoutQuiet layState layout5 = true ∧ layoutOk layState layout5 = true ∧ tabWf {} layState.cores = true ∧ tabWf {} layState.tenants = true ∧
      layState.claims = [] ∧ ∀ p ∈ layState.parts, ∀ a, p.2.current = some a → (getTenant layState a).roots = []) ∧
    (let s := { layState with teams := [(0, plainT atBoundary)] }; layoutOk s layout5 = true ∧ layoutQuiet s layout5 = false) ∧
    (let s := { layState with claims := [⟨1, 0, 0x10⟩] }; layoutQuiet s layout5 = true ∧ layoutOk s layout5 = true ∧ claimsMove s layout5 1 = true) ∧
    (tabGet 0 (regionState 0 {}).place 0).getLsbD 31 = true ∧
    (spares (regionState 0 {}) (currentLayout (regionState 0 {})) 0).length = 39 ∧
    spares { regionState 0 {} with retiredCores := List.range 40 } (currentLayout (regionState 0 {})) 0 = [] ∧
    (let s := { regionState 0 {} with mem := moveMem }
     (walk s 1 0x4000).toOption.map TlbEnt.ppage = some 0x10 ∧ leafSlot s 0x4000 4 0x10000 = some 0x50000 ∧ saddleTier s 0x10 = true ∧
     saddleTier s 0x2000000 = true ∧ paKind s (0x2000000 * 2 ^ 16) ≠ .tier1 ∧ paKind s (0x10 * 2 ^ 16) = .tier1 ∧ s.claims = []) ∧
    mayPromote (regionState 0 { older := [(0x10, true)] }) 1 0x10 0x20 = true ∧
    Memory.wf moveMem = true := by
  refine ⟨by decide +kernel, by decide +kernel, by decide +kernel, by decide +kernel, by decide +kernel, by decide +kernel, by decide +kernel,
    by decide +kernel, by decide +kernel, by decide +kernel⟩

def imagedState : State :=
  { regionState 0 {} with teams := [(0, { plainT atBoundary with image := some (0x20000000000, 0x1000) })] }

/-- A team on a core that a layout moves, and one on a core that it leaves; a retirement with nothing staged, with a layout staged that has
put a core in the place of a retired one, and of a core out of service; a page for a move, and one that a leaf maps. -/
theorem wit_LayoutsAndPageMoves_more :
    (let s := { regionState 0 {} with teams := [(0, plainT atBoundary)] }
     coreMoved s layout5 (plainT atBoundary) = true ∧ (plainT atBoundary).preempt = none ∧ (plainT atBoundary).retired = false ∧
     (plainT atBoundary).term = none ∧ tabSorted s.teams = true ∧ coreMoved s (currentLayout s) (plainT atBoundary) = false) ∧
    (let s := regionState 0 {}
     let e := tabGet 0 s.place 0
     e.getLsbD 31 = true ∧ placeRetired s e = false ∧ placeRetired { s with retiredCores := [placePhys e] } e = true ∧
     spares { s with retiredCores := [placePhys e] } (currentLayout s) (e.extractLsb' 24 3).toNat ≠ []) ∧
    (let s := { regionState 0 {} with retiredCores := [0], staged := some layout5 }
     placeRetired s (tabGet 0 s.place 0) = true ∧ layout5.place.getD 0 0 = 0x80E40005 ∧ placeRetired s (0x80E40005 : BitVec 32) = false) ∧
    (tabGet 0 (regionState 0 {}).place 1).getLsbD 31 = false :=
  ⟨by decide +kernel, by decide +kernel, by decide +kernel, by decide +kernel⟩

def sparePages : State := { regionState 0 {} with mem := moveMem }

theorem wit_LayoutsAndPageMoves_spare : pageSpare sparePages 0x2000000 = true := by decide +kernel
theorem wit_LayoutsAndPageMoves_used : pageSpare sparePages 0x10 = false := by decide +kernel

theorem wit_LayoutsAndPageMoves_image :
    imageSpans imagedState = [(0x20000000000, 0x1000)] ∧ spansMeet (0x2000000 * 2 ^ 16) (2 ^ 16) 0x20000000000 0x1000 = true :=
  ⟨by decide +kernel, by decide +kernel⟩

/-- The move of that page leaves the granules of its leaf whole. -/
theorem wit_leaf_granules : WholeGranules { regionState 0 {} with mem := moveMem } 0x50000 8 := by
  unfold WholeGranules
  decide +kernel

end Sys2Proof.Tests
end

