-- ==== Sys2Proof/Tests/Witness6.lean ====
section
/-! SUPPORT. Witnesses for the statements about pre-emption, the host's side, words and steps. -/

namespace Sys2Proof.Tests

set_option Elab.async false

open Sys2Proof Sys2Proof.Machine Sys2Proof.Claims

/-! ## Pre-emption, save, restore and resets -/

/-- A unit stopped at the bench's block, of a team that holds no register and no scratchpad page. -/
def smallT (f : Team → Team) : Team :=
  f { plainT atBoundary with lrec := { teams := 1, warps := 1, regs := 0, spad := 0, rcount := 8, rtab := 0x1000 }, spBytes := 0, pages := [] }
def saved0 : Team := smallT (fun T => { T with preempt := some (1, 0), saving := true })
def asked0 : Team := smallT (fun T => { T with preempt := some (1, 0) })
/-- A team of an idempotent launch that has stopped at a block with IDEM. -/
def idem0 : Team := smallT (fun T => { T with preempt := some (1, 0), saving := true, lrec := { T.lrec with idem := true } })
def waiting0 : Team := { asked0 with units := [(0, waitUnit barWord (.sleep 200000) .external)] }
def partly0 : Team := { waiting0 with bars := [(0, ⟨0, true, 2, 1, 0, 0, 0⟩)] }
def idemBlock : List Host.Cell := memSetNum benchMem 0x102000 16 0xF0000010000000000000000000000000

def imaged0 : Team := { saved0 with since := 104500, image := some (0x200000, 64) }
/-- A unit that waits for a queue, and one whose block waits for nothing. -/
def queued0 : Team := { asked0 with units := [(0, { waitUnit barWord (.sleep 200000) .queue with flight := (waitUnit barWord (.sleep 200000) .queue).flight.map (fun f => { f with wait := none }) })] }
def running0 : Team := { asked0 with units := [(0, { waitUnit barWord (.sleep 200000) .none with flight := (waitUnit barWord (.sleep 200000) .none).flight.map (fun f => { f with wait := none }) })] }

/-- A request that is due and one that is not; a stopped team to discard; one with a block that waits, with its barrier partly
arrived and not, within the limit and past it; one whose image may be written. -/
theorem wit_PreemptionAndSave :
    (let P : Partition := { groups := [0], step := .preempt, current := some 1 }
     let s := stand (smallT id) (fun s => { s with parts := [(0, P)] })
     getTeam s 0 = some (smallT id) ∧ preemptDue s (smallT id) 1 = true ∧ preemptDue s (smallT id) 2 = false ∧ oldestFrag atBoundary = some 0) ∧
    (let s := stand idem0 (fun s => { s with mem := idemBlock })
     Asked s 0 idem0 ∧ allStopped idem0 = true ∧ discardable s idem0 = true ∧ requestsEnded (dropEnginesOf s 0 0) 0 idem0 = true) ∧
    (let s := stand waiting0 (fun s => { s with ptc := 105000 })
     Asked s 0 waiting0 ∧ waiting0.image = none ∧ saveReady s 0 waiting0 = false ∧ partlyArrived waiting0 = false ∧
     (waiting0.units.map (fun x => x.2.flight.map (fun f => (f.wait.isSome, x.2.tm, waitOver s 0 0 f)))) = [some (true, false, false)]) ∧
    (Asked (stand partly0 id) 0 partly0 ∧ partly0.saving = false ∧ partlyArrived partly0 = true) ∧
    (let s := stand imaged0 (fun s => { s with ptc := 105000 })
     Asked s 0 imaged0 ∧ saveReady s 0 imaged0 = true ∧ (getCore s 0).copyQ = [] ∧ s.ptc - imaged0.since < 1050 ∧
     imaged0.image = some (0x200000, 64) ∧ rangePoisoned s 0x200000 (imageBytes s 0 imaged0 1).length = false) := by
  refine ⟨⟨rfl, by decide +kernel, by decide +kernel, by decide +kernel⟩, ⟨⟨rfl, rfl, rfl, rfl⟩, by decide +kernel, by decide +kernel, by decide +kernel⟩,
    ⟨⟨rfl, rfl, rfl, rfl⟩, rfl, by decide +kernel, by decide +kernel, by decide +kernel⟩, ⟨⟨rfl, rfl, rfl, rfl⟩, by decide +kernel, by decide +kernel⟩,
    ⟨⟨rfl, rfl, rfl, rfl⟩, by decide +kernel, by decide +kernel, by decide +kernel, rfl, by decide +kernel⟩⟩

/-- Tier 1 has room for an image at one place and not at another; blocks that wait for a queue and for nothing. -/
theorem wit_ImagePlace :
    (let s := stand saved0 (fun s => { s with boot := { mode := .full, piles := 8 }, parts := [(0, { groups := [0], tier1 := [(0, 2 ^ 20)], current := some 1 })] })
     imagePlace s 1 0x200000 (imageBytes s 0 saved0 1).length = true ∧ imagePlace s 1 0x100000 64 = false) ∧
    (queued0.units.map (fun x => x.2.flight.map (fun f => (decide (f.waitKind = .queue), waitOver (stand queued0 id) 0 0 f)))) = [some (true, false)] ∧
    (running0.units.map (fun x => x.2.flight.map (fun f => (f.wait.isNone, decide (f.waitKind = .queue))))) = [some (true, false)] ∧
    saveReady (stand queued0 id) 0 queued0 = false ∧ saveReady (stand running0 id) 0 running0 = false := by
  decide +kernel

theorem wit_image_granules : WholeGranules (stand saved0 id) 0x200000 64 := by
  unfold WholeGranules
  decide +kernel

/-- A request of a team that is not idempotent; a stopped idempotent team whose charge is behind and one with a request on its way; an
idempotent team with a block in flight at an idempotent block. -/
def idemBusy : State := stand idem0 (fun s => { s with mem := idemBlock, cores := [(0, { copyQ := [copyReq .landed] })] })
def idemFlying : Team := smallT (fun T =>
  { T with preempt := some (1, 0), lrec := { T.lrec with idem := true }, units := [(0, waitUnit barWord (.sleep 200000) .external)] })

theorem wit_DiscardAndSave :
    (Asked (stand asked0 id) 0 asked0 ∧ discardable (stand asked0 id) asked0 = false) ∧
    (let s := stand idem0 (fun s => { s with mem := idemBlock, ptc := 1051050 })
     Asked s 0 idem0 ∧ discardable s idem0 = true ∧ allStopped idem0 = true ∧ 1051050 ≤ s.ptc - idem0.since) ∧
    (Asked idemBusy 0 idem0 ∧ discardable idemBusy idem0 = true ∧ idemBusy.ptc - idem0.since < 1051050 ∧
     requestsEnded (dropEnginesOf idemBusy 0 idem0.core) 0 idem0 = false) ∧
    (let s := stand idemFlying (fun s => { s with mem := idemBlock })
     Asked s 0 idemFlying ∧ discardable s idemFlying = true ∧ allStopped idemFlying = false ∧ tabSorted idemFlying.units = true) := by
  refine ⟨⟨⟨rfl, rfl, rfl, rfl⟩, ?_⟩, ⟨⟨rfl, rfl, rfl, rfl⟩, ?_⟩, ⟨⟨rfl, rfl, rfl, rfl⟩, ?_⟩, ⟨rfl, rfl, rfl, rfl⟩, ?_⟩ <;> decide +kernel

/-- Saves that have not been let begin, one let begin, one within the limit and one at it; an image that begins at once. -/
def begun0 : State := stand saved0 (fun s => { s with
  boot := { mode := .full, piles := 8 }, ptc := 105000, parts := [(0, { groups := [0], tier1 := [(0, 2 ^ 20)], current := some 1 })] })

theorem wit_SaveBegins :
    (asked0.saving = true ∨ partly0.saving = false) ∧ (partly0.image = none ∧ partly0.preempt = some (1, 0)) ∧
    (Asked begun0 0 saved0 ∧ saved0.image = none ∧ saved0.saving = true ∧ saved0.preempt = some (1, 0) ∧ begun0.ptc = 0 + 1050 * 100) ∧
    ((getTeam (stopTeam begun0 0 true) 0).map (fun T1 =>
      (saveStopped (stopTeam begun0 0 true) T1, imagePlace begun0 1 0x200000 (imageBytes (stopTeam begun0 0 true) 0 T1 2).length))) = some (true, true) := by
  refine ⟨.inr (by decide +kernel), ⟨rfl, rfl⟩, ⟨⟨rfl, rfl, rfl, rfl⟩, rfl, rfl, rfl, by decide +kernel⟩, by decide +kernel⟩

/-- A registers' section of a warp with one register. -/
theorem wit_WarpSection : ((warpBytes 0 atBoundary 1).drop (7184 + 16)).take 4 = numBytes 4 (getV atBoundary 0 0).toNat := by decide +kernel

def savedTeam : SavedTeam := { addr := 0xA000, size := 64, id := 0, team := { plainT atBoundary with lrec := record }, mat := none, grid := none, publishes := [] }
def savedState (m : List Host.Cell) : State :=
  let s := regionState 0 { saved := [savedTeam] }
  { s with mem := memSetNum m 0xA004 1 1 }

/-- A saved team that fits with its image in place, and with an image that was marked abandoned; what a reset of the function
has to do; functions with and without a locked interface. -/
theorem wit_RestoreAndResets :
    (let s := savedState (regionMem 0)
     (getTenant s 1).saved[0]? = some savedTeam ∧ savedTeam.team.vf = 1 ∧ restoreFit s savedTeam = some (0, 0, []) ∧ tabWf {} s.tenants = true ∧
     rangePoisoned s savedTeam.addr savedTeam.size = false ∧ memNum s.mem (savedTeam.addr + 4) 1 = 1 ∧ s.creds = [] ∧ savedTeam.publishes = [] ∧ savedTeam.owed = [] ∧
     imageBad s savedTeam = none ∧ savedTeam.grid.isNone = true ∧ tabWf {} s.cores = true) ∧
    (let s := regionState 0 { saved := [savedTeam] }
     imageBad s savedTeam = some 0 ∧ tabWf {} s.tenants = true ∧ memNum s.mem (savedTeam.addr + 4) 1 ≠ 1 ∧
     rangePoisoned { s with memPoison := [(0xA000 / 32, true)] } savedTeam.addr savedTeam.size = true) ∧
    (let s := regionState 0 { saved := [savedTeam] }
     Memory.wf s.mem = true ∧ s.reqs = [] ∧ granulePoisoned s (0xA004 / 32) = false) ∧
    (∃ v ∈ (((regionState 0 { tdisp := .run }).tenants.map Prod.fst).filter (fun v => v != 0)), tdLocked (getTenant (regionState 0 { tdisp := .run }) v) = true) ∧
    (∀ v ∈ (((regionState 0 {}).tenants.map Prod.fst).filter (fun v => v != 0)), tdLocked (getTenant (regionState 0 {}) v) = false) :=
  ⟨⟨by decide +kernel, by decide +kernel, by decide +kernel, by decide +kernel, by decide +kernel, by decide +kernel, by decide +kernel, rfl, rfl,
      by decide +kernel, rfl, by decide +kernel⟩,
    by decide +kernel, by decide +kernel, by decide +kernel, by decide +kernel⟩

/-- A saved team with a matrix unit, a view, tokens and a scratchpad window; what its image's bytes say of them. -/
def fullSaved : SavedTeam :=
  { savedTeam with
    size := 400000, mat := some {}
    team := { savedTeam.team with spBytes := 16384, pages := [0], views := [{ ridx := 0, base := 0, size := 4096 }] } }

theorem wit_RestoredParts :
    (let s := let s := regionState 0 { saved := [fullSaved] }
       { s with mem := memSetNum s.mem 0xA004 1 1 }
     (getTenant s 1).saved[0]? = some fullSaved ∧ (restoreFit s fullSaved).isSome = true ∧ rangePoisoned s fullSaved.addr fullSaved.size = false ∧
     memNum s.mem (fullSaved.addr + 4) 1 = 1 ∧ fullSaved.mat = some {} ∧ fullSaved.team.views[0]? = some { ridx := 0, base := 0, size := 4096 } ∧
     tabFind fullSaved.team.units 0 = some atBoundary ∧ 0 < fullSaved.team.spBytes ∧ sectionAt s fullSaved.addr 1 0 (1040 + 35) 1 ≤ 16 ∧
     (sectionAt s fullSaved.addr 1 0 128 16).testBit 75 = false ∧ trapOfNum 4 = some .reservedBits) ∧
    (let s := { regionState 0 { saved := [savedTeam] } with memPoison := [(0xA000 / 32, true)] }
     imageBad s savedTeam = some 10) := by decide +kernel

/-- A function's reset with an image begun by a team, and with one of a saved team: the places of their STATE bytes. -/
theorem wit_ResetMarksImages :
    (let s := { stand imaged0 (fun s => { s with ptc := 105000 }) with reqs := [] }
     Memory.wf s.mem = true ∧ tabSorted s.teams = true ∧ getTeam s 0 = some imaged0 ∧ imaged0.vf = 1 ∧ s.ptc - imaged0.since < 1050 ∧
     imaged0.image = some (0x200000, 64) ∧ granulePoisoned s ((0x200000 + 4) / 32) = false) ∧
    (let s := regionState 0 { saved := [savedTeam] }
     savedTeam ∈ (getTenant s 1).saved ∧ granulePoisoned s ((savedTeam.addr + 4) / 32) = false ∧ s.teams = []) ∧
    (let s := stand (plainT atBoundary) id
     getTeam s 0 = some (plainT atBoundary) ∧ (plainT atBoundary).vf ≠ 2 ∧ tabSorted s.teams = true) := by decide +kernel

/-! ## The host's side -/

/-- A page that is reached, one of a locked interface and one that is not enabled; the mailbox of a PF that is reached; records
with room and with none. -/
theorem wit_HostRegisters :
    (let s := regionState 0 {}
     vfReached s 1 = true ∧ vfReached s 2 = false ∧ tdLocked (getTenant s 1) = false ∧ pfReached s = true ∧ s.boot.mode = .full ∧
     tabWf {} s.tenants = true ∧ tabWf 0 s.mbox.cmd = true ∧ (∀ V ∈ s.tenants, tdLocked V.2 = false)) ∧
    (let s := regionState 0 { tdisp := .run }
     vfReached s 1 = true ∧ tdLocked (getTenant s 1) = true) ∧
    (let V := getTenant (regionState 0 { frctl := 16, frhead := 0 }) 1
     V.frctl.getLsbD 4 = true ∧ (V.frhead - V.frtail).toNat ≠ 2 ^ (V.frctl.extractLsb' 0 4).toNat) ∧
    (let V := getTenant (regionState 0 { frctl := 16, frhead := 0, frtail := 0xFFFFFFFF }) 1
     V.frctl.getLsbD 4 = true ∧ (V.frhead - V.frtail).toNat = 2 ^ (V.frctl.extractLsb' 0 4).toNat) ∧
    paKind (regionState 0 {}) 0 = .tier1 ∧ Memory.wf (regionState 0 {}).mem = true ∧
    pfReached { regionState 0 {} with hostLanes := [] } = false ∧ State.reset.boot.mode ≠ .full ∧
    (∃ V ∈ (regionState 0 { tdisp := .run }).tenants, tdLocked V.2 = true) := by
  decide +kernel

theorem wit_record_granules : WholeGranules (regionState 0 { frctl := 16 }) 0 64 := by
  unfold WholeGranules
  decide +kernel

/-- Fault records that wait for their release: one whose release has ended, before one whose release has not; a mailbox page's
command bytes; an SR-IOV write by an SR-IOV item of each kind; a status that is cleared. -/
theorem wit_RecordsReleased :
    (let s := { regionState 0 { frctl := 16, frdue := [4, 40] } with ptc := 8 }
     (∀ d, d < 11 → 4 < diePtc s d) ∧ ¬(40 < diePtc s 0) ∧
     ((getTenant s 1).frhead + BitVec.ofNat 32 (getTenant s 1).frdue.length - (getTenant s 1).frtail).toNat ≠ 1 ∧ tabWf {} s.tenants = true) ∧
    (let V := getTenant (regionState 0 { frctl := 17, frdue := [4] }) 1
     V.frctl.getLsbD 4 = true ∧ (V.frhead + BitVec.ofNat 32 V.frdue.length - V.frtail).toNat ≠ 2 ^ (V.frctl.extractLsb' 0 4).toNat) ∧
    (let V := getTenant (regionState 0 { frctl := 17, frdue := [4, 40] }) 1
     V.frctl.getLsbD 4 = true ∧ (V.frhead + BitVec.ofNat 32 V.frdue.length - V.frtail).toNat = 2 ^ (V.frctl.extractLsb' 0 4).toNat) ∧
    (getTenant (regionState 0 {}) 1).frctl.getLsbD 4 = false := by decide +kernel

theorem wit_RegisterOffsets :
    (let s := regionState 0 {}
     pfReached s = true ∧ tabWf 0 s.mbox.cmd = true ∧ vfReached s 1 = true ∧ vfReached s 2 = false ∧
     (if (0 : Nat) = 0 then pfReached s else vfReached s 0) = true ∧ (if (1 : Nat) = 0 then pfReached s else vfReached s 1) = true ∧
     (∀ V ∈ s.tenants, tdLocked V.2 = false)) ∧
    (0x100 ≤ 0x13F ∧ 0x13F < 0x140) ∧ pfReached { regionState 0 {} with boot := { mode := .held } } = false := by decide +kernel

def mboxState (x : Nat) (busy : Bool) : State :=
  { regionState 0 {} with mbox := { cmd := tabSetNum [] 0 64 x, busy := busy } }

/-- A busy mailbox; each command's block with the fields it asks for: an id-key read, a key for slot 7 of tenant 1 and its removal,
and an update of 64 bytes. -/
theorem wit_MailboxCommands :
    (pfReached (mboxState 0 true) = true ∧ (mboxState 0 true).mbox.busy = true ∧ pfReached (mboxState 0 false) = true) ∧
    (let x := 0x9000
     command (mboxState x false) = x ∧ zeroBytes x 8 63 = true ∧ bytesOf x 0 8 % 16 = 0 ∧ mgmtReadable (mboxState x false) 0x9000 2048 = true) ∧
    (let x := 0x9000 + 2 ^ 64 + 7 * 2 ^ 72
     tenantExists (mboxState x false) (bytesOf x 8 1) = true ∧ bytesOf x 9 1 = 7 ∧ zeroBytes x 10 63 = true ∧
     mgmtReadable (mboxState x false) 0x9000 1793 = true) ∧
    (let x := 2 ^ 64
     tenantExists (mboxState x false) (bytesOf x 8 1) = true ∧ bytesOf x 9 1 < 8 ∧ zeroBytes x 10 63 = true ∧ zeroBytes x 0 7 = true) ∧
    (let x := 0x9000 + 64 * 2 ^ 64
     0 < bytesOf x 8 4 ∧ zeroBytes x 12 63 = true ∧ mgmtReadable (mboxState x false) 0x9000 64 = true) ∧
    (getTenant (mboxState 0 false) 1).nextObj < 2 ^ 32 ∧
    (let s := { mboxState 0 true with ptc := 8, mbox := { (mboxState 0 true).mbox with after := 4 } }
     s.mbox.busy = true ∧ ∀ d, d < 11 → s.mbox.after < diePtc s d) ∧
    (let s := { mboxState 0 true with mbox := { (mboxState 0 true).mbox with after := 4 } }
     ¬(s.mbox.after = 0 ∨ s.mbox.after < diePtc s 0)) ∧
    (¬ zeroBytes (2 ^ 100 : Nat) 10 63 = true ∧ mgmtReadable (mboxState 0 false) (2 ^ 52) 1793 = false) := by
  decide +kernel

/-- A file of one symbol of each kind (1 of a block, 2 of data, 3 of the resource table) in one section, and a header that follows
them; the place where it loads. -/
def relHdr : ObjHdr :=
  { level := 1, nsec := 1, nres := 0, nsym := 4, nrel := 1, pref := 0, img := 0, secoff := 0, symoff := 64, reloff := 0, resoff := 0, hashoff := 0
    sigoff := 0, siglen := 0 }
def relFile : FileRd := fun a _ => if a = 64 + 32 * 1 + 24 then 1 else if a = 64 + 32 * 2 + 24 then 2 else if a = 64 + 32 * 3 + 24 then 3 else 0
def relPlace : LoadAt := ⟨0x10000, 4, 16, 8⟩
def relOf (kind field sym bsym : Nat) (addend : Int) : ObjRel :=
  { kind := kind, sec := 0, field := field, zero := 0, offset := 0, sym := sym, bsym := bsym, addend := addend }

/-- A word of each kind of field with a record for it. -/
theorem wit_RelocationWords :
    ((objSym relFile relHdr 1).kind = 1 ∧ (objSym relFile relHdr 2).kind = 2 ∧ (objSym relFile relHdr 3).kind = 3) ∧
    ((0x22 * 2 ^ 120 : Nat) / 2 ^ 112 = 0x2200 ∧ tyWidth (tyOfCode ((0x22 * 2 ^ 120 : Nat) / 2 ^ 88 % 16)) = 32 ∧
     tyWidth (tyOfCode ((0x22 * 2 ^ 120 + 3 * 2 ^ 88 : Nat) / 2 ^ 88 % 16)) = 64) ∧
    (0x23 * 2 ^ 120 : Nat) / 2 ^ 112 = 0x2300 ∧ wordFmt (0x50 * 2 ^ 120) = some .m ∧ wordFmt (0x88 * 2 ^ 120) = some .s ∧
    wordFmt (0x60 * 2 ^ 120) = some .e ∧ wordFmt (0x10 * 2 ^ 120 + 2 ^ 56) = some .a ∧ (0x10 * 2 ^ 120 + 2 ^ 56 : Nat).testBit 56 = true ∧
    headerField (0xF0 * 2 ^ 120) 1 = some 48 ∧ headerField (0xF0 * 2 ^ 120) 4 = some 72 ∧ (0x04 * 2 ^ 120 : Nat) / 2 ^ 112 = 0x0400 ∧
    0 < blockWords (secNum relFile (objSec relFile relHdr 0) 0 16) := by decide +kernel

/-- The records' values, and one that overflows. -/
theorem wit_RelocationValues :
    relValue relFile relHdr relPlace (relOf 1 0 2 0 5) (0x22 * 2 ^ 120) = some (0, 32, some 0x10005) ∧
    relValue relFile relHdr relPlace (relOf 1 0 0 0 (-1)) (0x22 * 2 ^ 120) = some (0, 32, none) ∧
    relValue relFile relHdr relPlace (relOf 2 0 2 0 0x800) (0x23 * 2 ^ 120) = some (0, 20, some 0x11) ∧
    relValue relFile relHdr relPlace (relOf 3 0 2 0 0x800) (0x50 * 2 ^ 120) = some (0, 12, some 0x800) ∧
    relValue relFile relHdr relPlace (relOf 4 0 3 0 1) (0x50 * 2 ^ 120) = some (32, 16, some 5) ∧
    relValue relFile relHdr relPlace (relOf 4 0 3 0 12) (0x60 * 2 ^ 120) = some (48, 16, none) ∧
    relValue relFile relHdr relPlace (relOf 5 1 1 0 32) (0xF0 * 2 ^ 120) = some (48, 24, some 2) ∧
    relValue relFile relHdr relPlace (relOf 5 0 1 1 (-16)) (0x04 * 2 ^ 120) = some (0, 24, some 0xFFFFFF) ∧
    relValue relFile relHdr relPlace (relOf 6 0 0 0 3) (0x10 * 2 ^ 120 + 2 ^ 56) = some (24, 32, some 11) := by
  refine ⟨?_, ?_, ?_, ?_, ?_, ?_, ?_, ?_, ?_⟩ <;> decide +kernel

/-- A start with nothing wrong, with what differs. -/
def tests0 (f : StartTests → StartTests) : StartTests :=
  f { firmware := true, hub := true, hlinks := List.replicate 10 true, iolinks := List.replicate 8 true, ring := List.replicate 8 true
      piles := List.replicate 8 true, tier2 := 3, cxl := [], cxlUse := 0, ports := [16, 0], cxlPorts := [], trip := none }

/-- The device in a stage of a start. -/
def startAt (stage starts : Nat) (f : StartTests → StartTests) : State :=
  { State.reset with boot := { State.reset.boot with stage := stage, starts := starts, tests := some (tests0 f) } }

/-- What the machine answers to a step of the start: its stage, mode, reason and starts. -/
def startsTo (s : State) : Option (Nat × BootMode × Nat × Nat) :=
  match execDeviceStart (tests0 id) s with
  | .next s' => some (s'.boot.stage, s'.boot.mode, s'.boot.reason, s'.boot.starts)
  | _ => none

/-- Interfaces in every state, whose port has room for an IDE stream or not; a window of 64 bytes on a port that trained as CXL. -/
theorem wit_InterfacesAndTheWindow :
    (∀ t ∈ [TdState.configUnlocked, .configLocked, .run, .error],
      let s := regionState 0 { tdisp := t }
      (getTenant s 1).tdisp = t ∧ tabWf {} s.tenants = true ∧ pfReached s = true ∧ s.boot.mode = .full ∧
      (s.ide.filter (fun x => x.port == vfPort (getTenant s 1) 1)).length < 16) ∧
    (let s := { regionState 0 {} with ide := List.replicate 16 ⟨0, 2, 0⟩ }
     ¬((∃ x ∈ s.ide, x.vf = 1) ∨ (s.ide.filter (fun x => x.port == vfPort (getTenant s 1) 1)).length < 16)) ∧
    pfReached State.reset = false ∧ pfReached { regionState 0 {} with boot := { mode := .halter } } = true ∧
    (let s := { regionState 0 {} with cxlWindow := (0x9000, 64), hostCxl := [(0, true)] }
     cxlUp s = true ∧ s.cxlWindow.2 < 64 + ([1] : List Byte).length ∧ 63 + ([1] : List Byte).length ≤ s.cxlWindow.2 ∧
     rangePoisoned s 0x903F 1 = false ∧ Memory.wf s.mem = true) ∧
    cxlUp (regionState 0 {}) = false ∧ tabGet 0 (regionState 0 {}).hostLanes 0 = 16 ∧ tabGet 0 { regionState 0 {} with ports := [(3, 8)] }.ports 3 = 8 := by
  refine ⟨fun t ht => ?_, by decide +kernel, by decide +kernel, by decide +kernel, by decide +kernel, by decide +kernel, by decide +kernel, by decide +kernel⟩
  simp only [List.mem_cons, List.not_mem_nil, or_false] at ht
  rcases ht with rfl | rfl | rfl | rfl <;> exact ⟨by decide +kernel, by decide +kernel, by decide +kernel, by decide +kernel, by decide +kernel⟩

/-- A STOP_INTERFACE whose reset goes on, one whose reset is complete with requests behind it, and none; a function whose slice it is, and
one whose slice it is not; a window with a claim on its page, and a port with lanes to lose. -/
theorem wit_StopsAndPorts :
    (let s := { regionState 0 { tdisp := .run, resetting := true } with tdStop := some 1 }
     pfReached s = true ∧ s.tdStop ≠ none ∧ (getTenant s 1).resetting = true ∧ tabWf {} s.tenants = true) ∧
    (let s := { regionState 0 { tdisp := .run } with tdStop := some 1, tdWaiting := [.state 1, .lock 1 true] }
     s.tdStop = some 1 ∧ (getTenant s 1).resetting = false ∧ tabWf {} s.tenants = true) ∧
    (let s := regionState 0 { tdisp := .run }
     (getTenant s 1).tdisp ≠ .configUnlocked ∧ s.tdStop = none ∧
     (getPart s (getTenant s 1).cfg.part).map (fun P => decide (P.current = some 1)) = some true) ∧
    (let s := { regionState 0 { tdisp := .run } with parts := [(0, { groups := [0], current := none })] }
     (getPart s (getTenant s 1).cfg.part).map (fun P => decide (P.current = some 1)) = some false) ∧
    ([Instr.lockedItemWrite 1 0, .ideIntegrityFailure 1].length = 2 ∧ (4 ∈ [0, 2, 4]) ∧ 4 < tabGet 0 { regionState 0 {} with ports := [(3, 8)] }.ports 3 ∧
     4 < tabGet 0 (regionState 0 {}).hostLanes 0) ∧
    (let s := transit { regionState 0 {} with cxlWindow := (0x100000, 64), hostCxl := [(0, true)] }
     cxlUp s = true ∧ rangeMoves s (s.cxlWindow.1 + 0) 1 = true) := by decide +kernel

theorem wit_window_granules : WholeGranules (regionState 0 {}) 0x903F 1 := by
  unfold WholeGranules
  decide +kernel

/-- A start that begins, and one that is not under way. -/
theorem wit_StartBegins :
    State.reset.boot.mode = .booting ∧ State.reset.boot.holdUntil = none ∧ State.reset.boot.tests = none ∧
    (regionState 0 {}).boot.mode ≠ .booting ∧ tabWf {} State.reset.dies = true ∧ tabWf {} State.reset.cores = true ∧
    (let b : Boot := { mode := .halter, stage := 7, starts := 3, reason := 3 }
     b.reason < 256 ∧ b.starts < 16 ∧ b.stage < 16) := by decide +kernel

/-- R347: every stage passes where nothing is wrong. -/
theorem wit_StagesPass : ([1, 2, 3, 4, 5, 6].map (fun k => startsTo (startAt k 0 id))) =
    [some (2, .booting, 0, 0), some (3, .booting, 0, 0), some (4, .booting, 0, 0), some (5, .booting, 0, 0), some (6, .booting, 0, 0), some (7, .full, 0, 0)] := by
  decide +kernel

/-- R347: a stage fails with its reason, and a trip with its own. -/
theorem wit_StagesFail :
    ([startAt 1 0 (fun x => { x with firmware := false }), startAt 2 0 (fun x => { x with hub := false }),
      startAt 3 0 (fun x => { x with hlinks := [], iolinks := [] }), startAt 4 0 (fun x => { x with piles := List.replicate 7 true }),
      startAt 6 0 (fun x => { x with ports := [0, 0] }), startAt 5 0 (fun x => { x with trip := some 5 })].map startsTo) =
      [some (1, .booting, 1, 1), some (2, .booting, 5, 1), some (3, .booting, 2, 1), some (4, .booting, 3, 1), some (6, .booting, 4, 1),
       some (5, .booting, 6, 1)] := by decide +kernel

/-- What is left of a package in which C5, IO1 and the second pile work. -/
def one (x : StartTests) : StartTests :=
  { x with hlinks := [false, false, false, false, false, true, false, false, false, true], piles := [false, true], ports := [16, 4] }

/-- R348: the fourth start, into Halter mode, and held where a part that it requires is missing. -/
theorem wit_FourthStart :
    (halterPort (tests0 one) = some 1 ∧ halterDie (tests0 one) 1 = some 5) ∧
    ([3, 4, 5, 6].map (fun k => startsTo (startAt k 3 one))) =
      [some (4, .booting, 0, 3), some (5, .booting, 0, 3), some (6, .booting, 0, 3), some (7, .halter, 0, 3)] ∧
    ([startAt 3 3 (fun x => { x with hlinks := [] }), startAt 6 3 (fun x => { x with ports := [] }),
      startAt 3 3 (fun x => { x with iolinks := [] })].map startsTo) =
      [some (3, .held, 2, 3), some (6, .held, 4, 3), some (3, .held, 2, 3)] := by decide +kernel

/-! ## Words, turns, steps and invariants -/

def addWord : IWord := 0x10000000000000000000000000000000

/-- A word that goes past its opcode with a field at fault, of each kind that `WordFormats` names. -/
theorem wit_WordFormats :
    (PastMinor (addWord ||| 3 <<< 103) .add ∧ (addWord ||| 3 <<< 103 : IWord).extractLsb' 103 2 = 3) ∧
    (PastMinor (addWord ||| 1 <<< 105) .add ∧ (addWord ||| 1 <<< 105 : IWord).extractLsb' 103 8 ≠ 0) ∧
    (PastMinor 0x00000000000000000000000000000001 .nul ∧ (opInfo .nul).fmt = .n) ∧
    (PastMinor 0x23000000030000000000000000100000 .addhi ∧ (opInfo .addhi).fmt = .h) ∧
    (PastMinor 0x88000000000080109100000000000004 .bar ∧ (opInfo .bar).fmt = .s) ∧
    (PastMinor 0x50008200010000009100000000000010 .ld ∧ (opInfo .ld).fmt = .m) := by
  unfold PastMinor
  decide +kernel

/-- Product words of NaR, of zero and of a term, and a well-formed instruction with its word. -/
theorem wit_ProductWordsAndEncoding :
    (0x20000000 : Nat).testBit 29 = true ∧ (0x40000000 : Nat).testBit 29 = false ∧ (0x40000000 : Nat).testBit 30 = true ∧
    (0x90000006 : Nat).testBit 29 = false ∧ (0x90000006 : Nat).testBit 30 = false ∧
    (Instr.add wordCtl ⟨false, .rne, 0, true, 7, 0⟩).wf = true ∧ (encode (.add wordCtl ⟨false, .rne, 0, true, 7, 0⟩)).isSome = true ∧
    decode addWord = .ok (.add { wordCtl with stall := 0, wait := 0 } ⟨false, .rne, 0, false, 0, 0⟩) := by decide +kernel

/-- What a bench's word answers at its turn. -/
def stepLane0 (b : Bench) : Option State :=
  match (decode b.word).toOption with
  | some i => (match exec i { b.s with issuer := (0, 0) } with
    | .next s => some s
    | _ => none)
  | none => none

/-- A word at its turn, one of the machine's own steps at the head of the agenda, an empty agenda; a memory in canonical form and
one that is not. -/
theorem wit_StepRuns :
    (let s := State.reset.withFetchWord 128 addWord.toNat
     s.agenda = [.issue 0 0] ∧ nextWord s 0 0 = some addWord ∧ (decode addWord).toOption.isSome = true) ∧
    (Instr.view .startRetry = none ∧ State.reset.agenda = [] ∧ overdue State.reset = []) ∧
    (let b : Bench := { word := addWord, unit := fun w => { w with ageing := 60 } }
     overdue b.s = [(0, 0)] ∧ b.s.agenda = [] ∧ nextWord b.s 0 0 = some addWord ∧ (stepLane0 b).isSome = true ∧
     tabSorted b.s.teams = true ∧ ∀ y ∈ b.s.teams, tabSorted y.2.units = true) ∧
    { State.reset with agenda := [.readPiece 0 0 0] }.agenda = .readPiece 0 0 0 :: [] ∧
    Memory.wf benchMem = true ∧ Memory.wf [(1, 0)] = false ∧ Memory.wf [(2, 1), (1, 1)] = false := by decide +kernel

/-- A word with both operands at hand, whose turn is there, and one that waits for its L operand; a predicate of zero. -/
theorem wit_TurnOfAWord :
    (let b : Bench := { word := addWord }
     gate b.s b.i .add wordCtl (.a ⟨false, .rne, 0, false, 0, 0⟩) = none) ∧
    (let b : Bench := { word := addWord, flight := fun f => { f with toks := [] } }
     (gate b.s { b.i with f := { b.i.f with toks := [] } } .add wordCtl (.a ⟨false, .rne, 0, false, 0, 0⟩)).isSome = true) ∧
    laneOpnds .add { wordCtl with pm := .ifFalse } (.a ⟨false, .rne, 0, false, 0, 0⟩) (some 1) (some 2) (some 0) ≠ none ∧
    usesSlot .add wordCtl (.a ⟨false, .rne, 0, false, 0, 0⟩) .l = true ∧ slotWidth .add wordCtl.ty (.a ⟨false, .rne, 0, false, 0, 0⟩) .l ≠ 0 := by
  decide +kernel

/-- A word whose L operand holds a value narrower than the slot; a token that is awaited; a load of a table entry whose page is in
transition, with and without a lane. -/
theorem wit_TurnWaits :
    (let b : Bench := { word := addWord }
     slotVal .add wordCtl (.a ⟨false, .rne, 0, false, 0, 0⟩) .l (some 5) = some 5 ∧ ¬(b.s.ptc + 1 ≤ b.s.ptc)) ∧
    (let b : Bench := { word := addWord, flight := fun f => { f with turn := 1000 } }
     (gate b.s b.i .add wordCtl (.a ⟨false, .rne, 0, false, 0, 0⟩)).isSome = true) ∧
    (let b : Bench := { word := addWord, unit := fun w => { w with toks := [(0, { state := .pending, promise := 1000 })] } }
     (gate b.s b.i .add { wordCtl with wait := 1 } (.a ⟨false, .rne, 0, false, 0, 0⟩)).isSome = true) ∧
    (let b : Bench := { word := addWord }
     coreMoves (transit b.s) b.i.T.core b.i.T.vf (b.i.T.lrec.rtab + 64 * 0) 64 = true ∧ coreMoves b.s b.i.T.core b.i.T.vf (b.i.T.lrec.rtab + 64 * 0) 64 = false) := by decide +kernel

theorem wit_ResultDelivery : issCtx ({ word := addWord } : Bench).s = some ({ word := addWord } : Bench).i := Bench.ctx _

/-! ## One step -/

/-- The result that lane 0 has after one step of a word on the bench. -/
def stepLane (b : Bench) : Option Lane :=
  match step { b.s with agenda := [.issue 0 0] } with
  | .next s => (((getUnit s 0 0).bind WUnit.flight).bind (fun f => tabFind f.results 0)).map (fun k => k.lanes.getD 0 none)
  | _ => none

/-- R101: 7 × 3 wraps nothing; 0xFFFFFFFF + 1 wraps to 0; −1 is below 1 as an s32 and not as an n32. -/
theorem test_step_arithmetic :
    stepLane { word := 0x12000000000000000000000000000000, l := 7, r := 3 } = some (some 21) ∧
    stepLane { word := addWord, l := 0xFFFFFFFF, r := 1 } = some (some 0) ∧
    stepLane { word := 0x20020000000000000000000000000000, l := 0xFFFFFFFF, r := 1 } = some (some 1) ∧
    stepLane { word := 0x20020000010000000000000000000000, l := 0xFFFFFFFF, r := 1 } = some (some 0) := by decide +kernel

/-- R120: the f32 sum of 1.5 and 2.25 is 3.75. -/
theorem test_step_fadd :
    stepLane { word := 0x30000000040000000000000000000000, l := 0x3FC00000, r := 0x40100000 } = some (some 0x40700000) := by decide +kernel

end Sys2Proof.Tests
end

section
/-! The refusal of a word whose opcode passes: which checks of `decodeAs` a field at fault fails (R35, R46, R49, R51, R54). -/

namespace Sys2Proof

open Machine Claims

/-! ## Past the opcode, a failed check is RESERVED_BITS (R57) -/

theorem decode_of_opOf {w : IWord} {o : Op} (h : opOf (w.extractLsb' 120 8).toNat (w.extractLsb' 112 8).toNat = some o) :
    decode w = decodeAs o w := by
  simp only [decode, h]

theorem decodeAs_reservedBits {w : IWord} {o : Op} (hty : (opInfo o).tys.contains (ctlOf w).ty = true)
    (hform : badWidth (opInfo o).fmt (w.extractLsb' 0 64) = true ∨
      minorOk o (ctlOf w).ty (payloadOf (opInfo o).fmt (w.extractLsb' 0 64)) = true)
    (hbad : ctlOk w = false ∨ payloadOk (opInfo o).fmt (w.extractLsb' 0 64) = false ∨
      reservedOk o (ctlOf w) (payloadOf (opInfo o).fmt (w.extractLsb' 0 64)) = false) :
    decodeAs o w = .error .reservedBits := by
  unfold decodeAs
  rw [if_neg (by rcases hform with h | h <;> simp only [hty, h] <;> simp),
    if_pos (by rcases hbad with h | h | h <;> simp [h])]

theorem decode_reservedBits {w : IWord} {o : Op} (h : PastMinor w o)
    (hbad : ctlOk w = false ∨ payloadOk (opInfo o).fmt (w.extractLsb' 0 64) = false ∨
      reservedOk o (ctlOf w) (payloadOf (opInfo o).fmt (w.extractLsb' 0 64)) = false) :
    decode w = .error .reservedBits := by
  obtain ⟨hop, hty, hform⟩ := h
  rw [decode_of_opOf hop, decodeAs_reservedBits hty hform hbad]

/-! ## The common fields at fault (R35) -/

theorem targetOk_of_slot_three {b : BitVec 9} (h : b.extractLsb' 0 2 = 3) : targetOk b = false := by
  simp [targetOk, h]

theorem targetOk_of_invalid_nonzero {b : BitVec 9} (hv : b.getLsbD 8 = false) (h : b.extractLsb' 0 8 ≠ 0) :
    targetOk b = false := by
  have hb : b ≠ 0 := by
    rintro rfl
    exact h (by decide)
  simp only [targetOk, hv, beq_eq_false_iff_ne.mpr hb, Bool.or_false, Bool.and_false]

theorem ctlOk_of_target {w : IWord} (h : targetOk (w.extractLsb' 103 9) = false ∨ targetOk (w.extractLsb' 94 9) = false) :
    ctlOk w = false := by
  rcases h with h | h <;> simp [ctlOk, h]

theorem ctlOk_of_pm_three {w : IWord} (h : w.extractLsb' 92 2 = 3) : ctlOk w = false := by
  simp [ctlOk, h]

/-- A slot code of 0b11 in the target field at bit `k`. -/
theorem targetOk_extract_of_slot_three {w : IWord} {k : Nat} (h : w.extractLsb' k 2 = 3) :
    targetOk (w.extractLsb' k 9) = false :=
  targetOk_of_slot_three (by rw [extract_extract _ _ _ _ _ (by omega)]; exact h)

/-- A nonzero invalid target in the field at bit `k`. -/
theorem targetOk_extract_of_invalid_nonzero {w : IWord} {k : Nat} (hv : w.getLsbD (k + 8) = false)
    (h : w.extractLsb' k 8 ≠ 0) : targetOk (w.extractLsb' k 9) = false :=
  targetOk_of_invalid_nonzero (by simpa using hv) (by rw [extract_extract _ _ _ _ _ (by omega)]; exact h)

/-- The two codes that `pmOf` reads as no predicate: 0b00, and the reserved 0b11. -/
theorem pmOf_eq_none (b : BitVec 2) : pmOf b.toNat = .none → b = 0 ∨ b = 3 := by
  revert b
  decide

/-- R31, R35: no form whose P slot carries data admits a predicate. -/
theorem noPm_of_pData (o : Op) : (opInfo o).pData = true → (opInfo o).noPm = true := by
  cases o <;> decide

theorem reservedOk_of_pm {o : Op} {c : Ctl} {p : Payload} (hno : (opInfo o).noPm = true) (hpm : c.pm ≠ .none) :
    reservedOk o c p = false := by
  simp [reservedOk, hno, hpm]

theorem ctlOk_or_reservedOk_of_pm {w : IWord} {o : Op} (p : Payload) (hpm : w.extractLsb' 92 2 ≠ 0)
    (hd : (opInfo o).pData = true) : ctlOk w = false ∨ reservedOk o (ctlOf w) p = false := by
  by_cases h3 : w.extractLsb' 92 2 = 3
  · exact .inl (ctlOk_of_pm_three h3)
  · refine .inr (reservedOk_of_pm (noPm_of_pData o hd) fun hn => ?_)
    exact (pmOf_eq_none _ hn).elim hpm h3

/-! ## The payload at fault (R46, R49, R51, R54) -/

theorem payloadOk_n_of_nonzero {b : BitVec 64} (h : b ≠ 0) : payloadOk .n b = false := by
  simpa [payloadOk] using h

theorem payloadOk_h_of_zeroField {b : BitVec 64} (h : b.extractLsb' 20 43 ≠ 0) : payloadOk .h b = false := by
  simpa [payloadOk] using h

theorem payloadOk_s_of_zeroField {b : BitVec 64} (h : b.extractLsb' 40 12 ≠ 0) : payloadOk .s b = false := by
  simp only [payloadOk, beq_eq_false_iff_ne.mpr h, Bool.and_false]

theorem payloadOk_of_scope {f : Fmt} {b : BitVec 64} (hf : f = .s ∨ f = .m) (h : 9 ≤ (b.extractLsb' 60 4).toNat) :
    payloadOk f b = false := by
  have hsc : decide ((b.extractLsb' 60 4).toNat ≤ 8) = false := decide_eq_false (by omega)
  rcases hf with rfl | rfl <;> simp only [payloadOk, hsc, Bool.false_and]

/-- Settles O50: each field at fault fails one of the checks that follow the opcode, and the payload's fields are read where
`payloadOf` takes them. -/
theorem wordFormats : Obligations.WordFormats := by
  refine ⟨fun w o h => ?_, fun b => ⟨rfl, rfl, rfl⟩, rfl, rfl⟩
  have common (hc : ctlOk w = false) : decode w = .error .reservedBits := decode_reservedBits h (.inl hc)
  have payload (hp : payloadOk (opInfo o).fmt (w.extractLsb' 0 64) = false) : decode w = .error .reservedBits :=
    decode_reservedBits h (.inr (.inl hp))
  refine ⟨fun hr => ?_, fun hv hz => ?_, fun hv hz => ?_, fun hpm hd => ?_, fun hf hz => ?_, fun hf hz => ?_, fun hf hz => ?_,
    fun hf hs => ?_⟩
  · obtain h0 | h1 | hpm := hr
    · exact common (ctlOk_of_target (.inl (targetOk_extract_of_slot_three h0)))
    · exact common (ctlOk_of_target (.inr (targetOk_extract_of_slot_three h1)))
    · exact common (ctlOk_of_pm_three hpm)
  · exact common (ctlOk_of_target (.inl (targetOk_extract_of_invalid_nonzero hv hz)))
  · exact common (ctlOk_of_target (.inr (targetOk_extract_of_invalid_nonzero hv hz)))
  · exact decode_reservedBits h ((ctlOk_or_reservedOk_of_pm _ hpm hd).imp_right .inr)
  · exact payload (hf ▸ payloadOk_n_of_nonzero hz)
  · exact payload (hf ▸ payloadOk_h_of_zeroField hz)
  · exact payload (hf ▸ payloadOk_s_of_zeroField hz)
  · exact payload (payloadOk_of_scope hf hs)

end Sys2Proof
end

section
/-! What the model's integer functions (R101 to R103) compute in the vocabulary of bit vectors and integers, the slots an integer word
takes, and the statement on integer and logic words that follows. -/

namespace Sys2Proof

open Machine Claims

/-! ## A lane-wise word that raises no flag (R27, R32, R97) -/

/-- R27: the integer words have the opcodes below 0x30, so neither the conversions' sides nor the Bridle's f64 rule bear on them. -/
theorem latency_integer {o : Op} (h : (opInfo o).maj < 0x30) (c : Ctl) (pl : Payload) (u : Nat) :
    latency o c pl u = slotCycles u * slots (opInfo o).lat (opInfo o).lat64 c pl := by
  have hlong : longForm o c pl = (tyWidth c.ty == 64) := by
    unfold longForm
    split
    case h_4 => rfl
    all_goals exact absurd h (by decide)
  have hf64 : f64Form o c pl = false := by
    rw [f64Form, decide_eq_false (by omega), Bool.false_and, Bool.false_and]
  simp only [latency, slots, hlong, hf64, Bool.and_false, Bool.false_eq_true, if_false, Bool.not_eq_true', beq_eq_false_iff_ne,
    ne_eq, ite_not]

/-- R127: no lane raises a flag. -/
theorem laneFlags_zero (i : Iss) (o : Op) (c : Ctl) (pl : Payload) : laneFlags (fun _ => 0) i o c pl = 0 := by
  have hfold (l : List (Option Opnds)) :
      l.foldl (fun fl x => match x with | some _ => fl ||| 0 | none => fl) (0 : Flags) = 0 := by
    induction l with
    | nil => rfl
    | cons x l ih => cases x <;> exact ih
  unfold laneFlags
  split
  · cases uniOpnds i o c pl <;> rfl
  · exact hfold _

/-- A lane-wise word at its turn: the lanes and the flags of its function, in the latency of its row. -/
theorem execLanes_laneValues {s : State} {i : Iss} {o : Op} {c : Ctl} {pl : Payload} (f : Iss → Opnds → FRes)
    (ht : Turn s i o c pl) :
    execLanes o c pl f s = .next (finish s i o c pl (laneValues (fun x => (f i x).1) i o c pl) (latency o c pl i.u)
      (laneFlags (fun x => (f i x).2) i o c pl)) := by
  obtain ⟨hi, hg⟩ := ht
  rw [execLanes_go f hi hg]
  unfold laneValues laneFlags
  split
  · cases uniOpnds i o c pl <;> rfl
  · simp only [laneResults, List.map_map, List.foldl_map]
    congr 2
    · congr 1
      funext x
      cases x <;> rfl
    · congr 1
      funext fl x
      cases x <;> rfl

/-- An integer word computes its function, in the slots of its row. -/
theorem computes_of_execAlu {w : Instr} (o : Op) {c : Ctl} {pl : Payload} {a b : Nat} {f g : Opnds → Val}
    (hfg : ∀ x, f x = g x) (hv : w.view = some (o, c, pl) := by rfl)
    (hexec : ∀ s, exec w s = execAlu o c pl f s := by intro; rfl)
    (hrow : (opInfo o).maj < 0x30 ∧ (opInfo o).lat = a ∧ (opInfo o).lat64 = b := by decide) : Computes w a b g := by
  obtain rfl : f = g := funext hfg
  obtain ⟨hmaj, rfl, rfl⟩ := hrow
  intro s i o' c' pl' hv' ht
  obtain ⟨rfl, rfl, rfl⟩ : o = o' ∧ c = c' ∧ pl = pl' := by simpa [hv] using hv'
  rw [hexec, execAlu, execLanes_laneValues _ ht, latency_integer hmaj, laneFlags_zero]

/-! ## Values of a width -/

@[simp] theorem tyWidth_pos (ty : Ty) : 0 < tyWidth ty := by cases ty <;> decide

theorem zx_eq_toNat (w : Nat) (x : Val) : zx w x = (x.setWidth w).toNat := (BitVec.toNat_setWidth w x).symm

theorem sx_eq_toInt {w : Nat} (hw : 0 < w) (x : Val) : sx w x = (x.setWidth w).toInt := by
  obtain ⟨k, rfl⟩ : ∃ k, w = k + 1 := ⟨w - 1, by omega⟩
  have hiff : x.toNat % 2 ^ (k + 1) < 2 ^ k ↔ 2 * (x.toNat % 2 ^ (k + 1)) < 2 ^ (k + 1) := by
    rw [pow_succ']; omega
  simp only [sx, sxNat, BitVec.toInt_eq_toNat_cond, BitVec.toNat_setWidth, Nat.add_sub_cancel, hiff, Nat.cast_pow, Nat.cast_ofNat]

theorem ext_eq_asInt {w : Nat} (hw : 0 < w) (ty : Ty) (x : Val) : ext ty w x = asInt ty w x := by
  rw [ext, asInt, sx_eq_toInt hw, zx_eq_toNat]

theorem zx_eq_asInt (x : Val) : (zx 64 x : Int) = asInt .n64 64 x := congrArg Nat.cast (zx_eq_toNat 64 x)

theorem wrapN_eq_ofNat (w n : Nat) : wrapN w n = (BitVec.ofNat w n).setWidth 128 := by
  apply BitVec.eq_of_toNat_eq
  rw [wrapN, BitVec.toNat_ofNat, BitVec.toNat_setWidth, BitVec.toNat_ofNat]

theorem wrapN_toNat {w : Nat} (b : BitVec w) : wrapN w b.toNat = b.setWidth 128 := by
  rw [wrapN_eq_ofNat, BitVec.ofNat_toNat, BitVec.setWidth_eq]

theorem wrapI_eq_low (w : Nat) (z : Int) : wrapI w z = low w z := by
  apply BitVec.eq_of_toNat_eq
  rw [wrapI, low, BitVec.toNat_ofNat, BitVec.toNat_setWidth, BitVec.toNat_ofInt, Nat.cast_pow, Nat.cast_ofNat]

theorem maskW_eq_cut (w : Nat) (x : Val) : maskW w x = cut w x := by
  apply BitVec.eq_of_toNat_eq
  rw [maskW, wrapN, cut, BitVec.toNat_ofNat, BitVec.toNat_setWidth, BitVec.toNat_setWidth]

/-- All ones is −1, wrapped (R102). -/
theorem low_neg_one (w : Nat) : low w (-1) = low w (2 ^ w - 1) := by
  have h : BitVec.ofInt w (-1) = BitVec.ofInt w (2 ^ w - 1) := by
    apply BitVec.eq_of_toNat_eq
    rw [BitVec.toNat_ofInt, BitVec.toNat_ofInt, Nat.cast_pow, Nat.cast_ofNat, sub_eq_add_neg, Int.add_emod_left]
  rw [low, h, low]

/-! ## Arithmetic (R101, R102) -/

theorem fMulhi_eq_low (ty : Ty) (l r : Val) : fMulhi ty l r =
    low (tyWidth ty) (Int.fdiv (asInt ty (tyWidth ty) l * asInt ty (tyWidth ty) r) (2 ^ tyWidth ty)) := by
  rw [Int.fdiv_eq_ediv_of_nonneg _ (by positivity), fMulhi, wrapI_eq_low, ext_eq_asInt (tyWidth_pos ty), ext_eq_asInt (tyWidth_pos ty)]

theorem fIdiv_eq_low (ty : Ty) (l r : Val) : fIdiv ty l r =
    if asInt ty (tyWidth ty) r = 0 then low (tyWidth ty) (2 ^ tyWidth ty - 1)
    else low (tyWidth ty) (Int.tdiv (asInt ty (tyWidth ty) l) (asInt ty (tyWidth ty) r)) := by
  simp only [fIdiv, wrapI_eq_low, ext_eq_asInt (tyWidth_pos ty), low_neg_one]

/-- The remainder of a division that truncates towards zero (R102). -/
theorem sub_tdiv_mul_eq_tmod (a b : Int) : a - Int.tdiv a b * b = Int.tmod a b := by
  rw [Int.tmod_def, mul_comm]

theorem fIrem_eq_low (ty : Ty) (l r : Val) : fIrem ty l r =
    if asInt ty (tyWidth ty) r = 0 then low (tyWidth ty) (asInt ty (tyWidth ty) l)
    else low (tyWidth ty) (asInt ty (tyWidth ty) l -
      Int.tdiv (asInt ty (tyWidth ty) l) (asInt ty (tyWidth ty) r) * asInt ty (tyWidth ty) r) := by
  simp only [fIrem, wrapI_eq_low, ext_eq_asInt (tyWidth_pos ty), sub_tdiv_mul_eq_tmod]

theorem natAbs_sub_tdiv_mul_lt (a : Int) {b : Int} (hb : b ≠ 0) : (a - Int.tdiv a b * b).natAbs < b.natAbs := by
  rw [sub_tdiv_mul_eq_tmod, Int.natAbs_tmod]
  exact Nat.mod_lt _ (Int.natAbs_pos.mpr hb)

/-- The one signed overflow: −2^(w−1) is its own negation at width w. -/
theorem low_neg_neg_two_pow {w : Nat} (hw : 0 < w) : low w (- -(2 ^ (w - 1))) = low w (-(2 ^ (w - 1))) := by
  obtain ⟨k, rfl⟩ : ∃ k, w = k + 1 := ⟨w - 1, by omega⟩
  have h : (2 ^ k : Int) = 2 ^ (k + 1) + -(2 ^ k) := by rw [pow_succ]; ring
  have hmod : BitVec.ofInt (k + 1) (2 ^ k) = BitVec.ofInt (k + 1) (-(2 ^ k)) := by
    apply BitVec.eq_of_toNat_eq
    rw [BitVec.toNat_ofInt, BitVec.toNat_ofInt, Nat.cast_pow, Nat.cast_ofNat]
    conv_lhs => rw [h, Int.add_emod_left]
  rw [neg_neg, Nat.add_sub_cancel, low, hmod, low]

/-- R101, R102 in full. -/
theorem integerArithmetic : IntegerArithmetic := by
  refine ⟨fun c p => ?_, fun c p => ?_⟩
  · have hw := tyWidth_pos c.ty
    refine ⟨computes_of_execAlu .add fun x => ?add,
      computes_of_execAlu .sub fun x => ?sub,
      computes_of_execAlu .mul fun x => ?mul,
      computes_of_execAlu .mulhi fun x => fMulhi_eq_low c.ty x.l x.r,
      computes_of_execAlu .mad fun x => ?mad,
      computes_of_execAlu .add64 fun x => ?add64,
      computes_of_execAlu .sub64 fun x => ?sub64,
      computes_of_execAlu .mad64 fun x => ?mad64,
      computes_of_execAlu .min_ fun x => ?min,
      computes_of_execAlu .max_ fun x => ?max,
      computes_of_execAlu .abs_ fun x => ?abs,
      computes_of_execAlu .neg_ fun x => ?neg⟩
    case add => simp only [fAdd, wrapI_eq_low, ext_eq_asInt hw]
    case sub => simp only [fSub, wrapI_eq_low, ext_eq_asInt hw]
    case mul => simp only [fMul, wrapI_eq_low, ext_eq_asInt hw]
    case mad => simp only [fMad, wrapI_eq_low, ext_eq_asInt hw]
    case add64 => simp only [fAdd64, wrapI_eq_low, ext_eq_asInt (show 0 < 32 by decide), zx_eq_asInt]
    case sub64 => simp only [fSub64, wrapI_eq_low, ext_eq_asInt (show 0 < 32 by decide), zx_eq_asInt]
    case mad64 => simp only [fMad64, wrapI_eq_low, ext_eq_asInt (show 0 < 32 by decide), zx_eq_asInt]
    case min => simp only [fMin, wrapI_eq_low, ext_eq_asInt hw, Int.min_def]
    case max => simp only [fMax, wrapI_eq_low, ext_eq_asInt hw, ge_iff_le, max_def']
    case abs => simp only [fAbs, wrapI_eq_low, ext_eq_asInt hw]
    case neg => simp only [fNeg, wrapI_eq_low, ext_eq_asInt hw]
  · refine ⟨computes_of_execAlu .idiv fun x => fIdiv_eq_low c.ty x.l x.r,
      computes_of_execAlu .irem fun x => fIrem_eq_low c.ty x.l x.r,
      fun x hb => natAbs_sub_tdiv_mul_lt _ hb, fun x _ _ ha hb => ?_⟩
    dsimp only at ha hb ⊢
    rw [ha, hb, Int.tdiv_neg, Int.tdiv_one, low_neg_neg_two_pow (tyWidth_pos c.ty)]
    simp [low]

/-! ## Logic and shifts (R103) -/

theorem cut_and (w : Nat) (x y : Val) : cut w (x &&& y) = cut w x &&& cut w y := by
  simp only [cut, BitVec.setWidth_and]

theorem cut_or (w : Nat) (x y : Val) : cut w (x ||| y) = cut w x ||| cut w y := by
  simp only [cut, BitVec.setWidth_or]

theorem cut_xor (w : Nat) (x y : Val) : cut w (x ^^^ y) = cut w x ^^^ cut w y := by
  simp only [cut, BitVec.setWidth_xor]

theorem cut_and_not (w : Nat) (x y : Val) : cut w (x &&& ~~~y) = cut w x &&& ~~~cut w y := by
  apply BitVec.eq_of_getLsbD_eq
  intro i hi
  by_cases hw : i < w <;> simp [cut, hw, hi]

/-- SHL by an amount below the width; by the width or more both sides are 0. -/
theorem fShl_eq (ty : Ty) (l r : Val) :
    fShl ty l r = ((l.setWidth (tyWidth ty)) <<< (r.setWidth 32).toNat).setWidth 128 := by
  unfold fShl
  rw [zx_eq_toNat 32]
  dsimp only
  split
  case isTrue => rw [wrapN_eq_ofNat, zx_eq_toNat, ← Nat.shiftLeft_eq]; rfl
  case isFalse h => rw [BitVec.shiftLeft_eq_zero (by omega)]; simp

theorem fShr_eq (ty : Ty) (l r : Val) :
    fShr ty l r = ((l.setWidth (tyWidth ty)) >>> (r.setWidth 32).toNat).setWidth 128 := by
  unfold fShr
  rw [zx_eq_toNat 32]
  dsimp only
  split
  case isTrue => rw [zx_eq_toNat, ← Nat.shiftRight_eq_div_pow, ← BitVec.toNat_ushiftRight, wrapN_toNat]
  case isFalse h => rw [BitVec.ushiftRight_eq_zero (by omega)]; simp

/-- A shift by the width or more leaves only the sign. -/
theorem toInt_div_two_pow {w n : Nat} (x : BitVec w) (h : w ≤ n) : x.toInt / 2 ^ n = if x.toInt < 0 then -1 else 0 := by
  have hle : (2 : Int) ^ w ≤ 2 ^ n := by exact_mod_cast Nat.pow_le_pow_right (by decide) h
  have hlo := BitVec.le_two_mul_toInt (x := x)
  have hhi := BitVec.two_mul_toInt_lt (x := x)
  have hpos : (0 : Int) < 2 ^ w := by positivity
  split
  case isTrue hneg => exact Int.ediv_eq_neg_one_of_neg_of_le hneg (by omega)
  case isFalse hneg => exact Int.ediv_eq_zero_of_lt (by omega) (by omega)

theorem low_toInt_div_two_pow {w : Nat} (n : Nat) (x : BitVec w) : low w (x.toInt / 2 ^ n) = (x.sshiftRight n).setWidth 128 := by
  rw [low, BitVec.sshiftRight, Int.shiftRight_eq_div_pow, Nat.cast_pow, Nat.cast_ofNat]

theorem fSar_eq (ty : Ty) (l r : Val) :
    fSar ty l r = ((l.setWidth (tyWidth ty)).sshiftRight (r.setWidth 32).toNat).setWidth 128 := by
  unfold fSar
  rw [zx_eq_toNat 32, ← low_toInt_div_two_pow]
  simp only [wrapI_eq_low, sx_eq_toInt (tyWidth_pos ty)]
  split
  case isTrue => rfl
  case isFalse h => rw [toInt_div_two_pow _ (by omega)]

/-- The two parts that a rotation joins share no bit, so their sum is their union. -/
theorem fRol_eq (ty : Ty) (l r : Val) :
    fRol ty l r = ((l.setWidth (tyWidth ty)).rotateLeft (r.setWidth 32).toNat).setWidth 128 := by
  have hm := Nat.mod_lt (r.setWidth 32).toNat (tyWidth_pos ty)
  have hx := (l.setWidth (tyWidth ty)).isLt
  rw [← wrapN_toNat, BitVec.toNat_rotateLeft]
  simp only [fRol, zx_eq_toNat]
  generalize tyWidth ty = w at *
  generalize (r.setWidth 32).toNat % w = m at *
  have hlow : (l.setWidth w).toNat / 2 ^ (w - m) < 2 ^ m := by
    rw [Nat.div_lt_iff_lt_mul (by positivity), ← pow_add, Nat.add_sub_cancel' hm.le]
    exact hx
  rw [wrapN, wrapN, ← Nat.shiftLeft_eq, Nat.shiftLeft_add_eq_or_of_lt hlow, Nat.shiftRight_eq_div_pow]
  simp only [Nat.or_mod_two_pow, Nat.mod_mod]

/-! ## Counts and the reversed word (R103) -/

theorem testBit_zx {w k : Nat} (x : Val) (h : k < w) : (zx w x).testBit k = x.getLsbD k := by
  rw [zx, Nat.testBit_mod_two_pow, decide_eq_true h, Bool.true_and, BitVec.testBit_toNat]

theorem popcount_eq_length {x : Nat} {b : Nat → Bool} {w : Nat} (h : ∀ k < w, x.testBit k = b k) :
    popcount x w = ((List.range w).filter b).length := by
  induction w with
  | zero => rfl
  | succ w ih =>
    rw [popcount, ih fun k hk => h k (by omega), h w (by omega), List.range_succ, List.filter_append, List.length_append, Nat.add_comm]
    cases hb : b w <;> simp [hb]

theorem leadZeros_eq_length {x : Nat} {b : Nat → Bool} {w : Nat} (h : ∀ k < w, x.testBit k = b k) :
    leadZeros x w = (((List.range w).map (fun k => w - 1 - k)).takeWhile (fun k => !b k)).length := by
  induction w with
  | zero => rfl
  | succ w ih =>
    have hmap : (List.range (w + 1)).map (fun k => w + 1 - 1 - k) = w :: (List.range w).map (fun k => w - 1 - k) := by
      rw [List.range_succ_eq_map, List.map_cons, List.map_map]
      congr 2
      funext k
      simp only [Function.comp_apply]
      omega
    rw [leadZeros, ih fun k hk => h k (by omega), h w (by omega), hmap, List.takeWhile_cons]
    cases b w <;> simp [Nat.add_comm]

/-- The count that starts at bit `i` runs through the `w` bits from there. -/
theorem trailZeros_eq_length {x : Nat} {b : Nat → Bool} {w i : Nat} (h : ∀ k, k < i + w → x.testBit k = b k) :
    trailZeros x w i = ((List.range' i w).takeWhile (fun k => !b k)).length := by
  induction w generalizing i with
  | zero => rfl
  | succ w ih =>
    rw [trailZeros, ih fun k hk => h k (by omega), h i (by omega), List.range'_succ, List.takeWhile_cons]
    cases b i <;> simp [Nat.add_comm]

theorem revBits_lt (x w : Nat) : revBits x w < 2 ^ w := by
  induction w generalizing x with
  | zero => exact Nat.one_pos
  | succ w ih =>
    have hlo := ih (x / 2)
    have hbit : x % 2 * 2 ^ w ≤ 1 * 2 ^ w := Nat.mul_le_mul_right _ (by omega)
    rw [revBits, pow_succ]
    omega

/-- Bit `i` of the reversed number is bit `w - 1 - i` of the number. -/
theorem testBit_revBits {x w i : Nat} (h : i < w) : (revBits x w).testBit i = x.testBit (w - 1 - i) := by
  induction w generalizing x i with
  | zero => omega
  | succ w ih =>
    rw [revBits, Nat.add_comm, Nat.mul_comm, Nat.testBit_two_pow_mul_add _ (revBits_lt _ _)]
    split
    case isTrue hi =>
      rw [ih hi, Nat.testBit_div_two]
      congr 1
      omega
    case isFalse hi =>
      obtain rfl : i = w := by omega
      simp [Nat.testBit_zero]

theorem fBrev_eq (ty : Ty) (l : Val) : fBrev ty l = (l.setWidth (tyWidth ty)).reverse.setWidth 128 := by
  have hval : revBits (zx (tyWidth ty) l) (tyWidth ty) = (l.setWidth (tyWidth ty)).reverse.toNat := by
    apply Nat.eq_of_testBit_eq
    intro i
    rw [BitVec.testBit_toNat, BitVec.getLsbD_reverse, BitVec.getMsbD]
    by_cases hi : i < tyWidth ty
    · rw [testBit_revBits hi, testBit_zx l (by omega), BitVec.getLsbD_setWidth]
      simp [hi, show tyWidth ty - 1 - i < tyWidth ty by omega]
    · rw [Nat.testBit_lt_two_pow (Nat.lt_of_lt_of_le (revBits_lt _ _) (Nat.pow_le_pow_right (by decide) (by omega)))]
      simp [hi]
  rw [fBrev, hval, BitVec.ofNat_toNat]

/-- R103 in full. -/
theorem logicAndShifts : LogicAndShifts := by
  intro c p
  refine ⟨computes_of_execAlu .and_ fun x => ?and,
    computes_of_execAlu .or_ fun x => ?or,
    computes_of_execAlu .xor_ fun x => ?xor,
    computes_of_execAlu .andn fun x => ?andn,
    computes_of_execAlu .not_ fun x => maskW_eq_cut _ _,
    computes_of_execAlu .shl fun x => fShl_eq c.ty x.l x.r,
    computes_of_execAlu .shr fun x => fShr_eq c.ty x.l x.r,
    computes_of_execAlu .sar fun x => fSar_eq c.ty x.l x.r,
    computes_of_execAlu .rol fun x => fRol_eq c.ty x.l x.r,
    computes_of_execAlu .popc fun x => ?popc,
    computes_of_execAlu .clz fun x => ?clz,
    computes_of_execAlu .ctz fun x => ?ctz,
    computes_of_execAlu .brev fun x => fBrev_eq c.ty x.l,
    fun x h => ⟨BitVec.shiftLeft_eq_zero h, BitVec.ushiftRight_eq_zero h⟩⟩
  case and => rw [fAnd, maskW_eq_cut, cut_and]
  case or => rw [fOr, maskW_eq_cut, cut_or]
  case xor => rw [fXor, maskW_eq_cut, cut_xor]
  case andn => rw [fAndn, maskW_eq_cut, cut_and_not]
  case popc => rw [fPopc, popcount_eq_length fun k hk => testBit_zx x.l hk]
  case clz => rw [fClz, leadZeros_eq_length fun k hk => testBit_zx x.l hk]
  case ctz => rw [fCtz, trailZeros_eq_length fun k hk => testBit_zx x.l (by omega), List.range_eq_range']

/-- Settles O1: each form is a lane-wise word whose function of the model is the rule's value. -/
theorem integerAndLogicWords : Obligations.IntegerAndLogicWords := ⟨integerArithmetic, logicAndShifts⟩

end Sys2Proof
end

section
/-! Product words of the logarithmic formats: how one is read (R119), and the fields that LGMUL leaves zero. -/

namespace Sys2Proof

open Machine

/-- R62: the sign-extended low bits of a number that fits in a lane. -/
theorem sxNat_eq_toInt {w n : Nat} (hw : 0 < w) (hw' : w ≤ 128) (hn : n < 2 ^ 128) :
    sxNat w n = (BitVec.ofNat w n).toInt := by
  have h := sx_eq_toInt hw (BitVec.ofNat 128 n)
  rwa [sx, BitVec.toNat_ofNat, Nat.mod_eq_of_lt hn, BitVec.setWidth_ofNat_of_le hw'] at h

/-! ## A product word as read, by its PN and PZ bits -/

theorem lgUnword_of_nar {x : Nat} (hn : x.testBit 29 = true) : lgUnword x = .nar := if_pos hn

theorem lgUnword_of_zero {x : Nat} (hn : x.testBit 29 = false) (hz : x.testBit 30 = true) : lgUnword x = .zero := by
  rw [lgUnword, if_neg (Bool.eq_false_iff.mp hn), if_pos hz]

theorem lgUnword_of_val {x : Nat} (hx : x < 2 ^ 128) (hn : x.testBit 29 = false) (hz : x.testBit 30 = false) :
    lgUnword x = .val (x.testBit 31) (BitVec.ofNat 16 x).toInt (if x.testBit 28 then 8 else 4) := by
  rw [lgUnword, if_neg (Bool.eq_false_iff.mp hn), if_neg (Bool.eq_false_iff.mp hz),
    sxNat_eq_toInt (by decide) (by decide) hx]

/-! ## The sign PS and the code PC as LGMUL writes them -/

theorem lgWord_zero_sign_code (q : Nat) : (lgWord q .zero).testBit 31 = false ∧ lgWord q .zero % 2 ^ 16 = 0 := by
  unfold lgWord
  split <;> decide

theorem lgWord_nar_sign_code (q : Nat) : (lgWord q .nar).testBit 31 = false ∧ lgWord q .nar % 2 ^ 16 = 0 := by
  unfold lgWord
  split <;> decide

/-- Settles O51: PN decides before PZ, and a word with neither holds a sign and a code whose term is taken at the quantum of PQ. -/
theorem productWordsRead : Obligations.ProductWordsRead := by
  refine ⟨fun x hx => ⟨lgUnword_of_nar, lgUnword_of_zero, fun hn hz => ?_⟩, ?_⟩
  · rw [lgUnword_of_val (hx.trans (by decide)) hn hz, lgTerm]
  · rintro q p (rfl | rfl)
    · exact lgWord_zero_sign_code q
    · exact lgWord_nar_sign_code q

end Sys2Proof
end
